-- ==== Sys2Proof/Word.lean ====
section
/-! DEFINITION. The word types of the K4 (R3, R25): 64-bit words, bytes, 128-bit predicates, 1024-bit vector rows. -/

namespace Sys2Proof

/-- A 64-bit register value or generic address (R25, R46). -/
abbrev Word := BitVec 64

/-- One byte of a store (R3). -/
abbrev Byte := BitVec 8

/-- A V predicate or a mask-stack entry (R25). -/
abbrev Mask := BitVec 128

/-- A vector register, which is one accumulator row of 128 bytes (R25, R28). -/
abbrev Row := BitVec 1024

end Sys2Proof
end

