-- ==== Sys2Proof/Machine/Bits.lean ====
section
/-! DEFINITION. Bit fields, little-endian bytes (R3) and two's complement readings, on plain numbers and on words. -/

namespace Sys2Proof

/-- Bits lo + n - 1 down to lo of a number. -/
def bitsOf (v lo n : Nat) : Nat := v / 2 ^ lo % 2 ^ n

/-- Bit i of a number. -/
def bitOf (v i : Nat) : Bool := v / 2 ^ i % 2 == 1

/-- Bits lo + n - 1 down to lo of a word. -/
def Word.field (w : Word) (lo n : Nat) : Nat := bitsOf w.toNat lo n

/-- Bit i of a word. -/
def Word.bit (w : Word) (i : Nat) : Bool := w.getLsbD i

/-- A truth value as 0 or 1. -/
def bit01 (b : Bool) : Nat := if b then 1 else 0

/-- A number as n little-endian bytes (R3). -/
def bytesOf (n v : Nat) : List Byte :=
  match n with
  | 0 => []
  | k + 1 => BitVec.ofNat 8 v :: bytesOf k (v / 256)

/-- The number that little-endian bytes hold (R3). -/
def natOf : List Byte → Nat
  | [] => 0
  | b :: t => b.toNat + 256 * natOf t

/-- The number held by n little-endian bytes from an offset of a byte list; bytes past its end count as 0. -/
def natAt (bs : List Byte) (off n : Nat) : Nat := natOf ((bs.drop off).take n)

/-- Byte i of a byte list; 0 past its end. -/
def byteAt (bs : List Byte) (i : Nat) : Nat := (bs.getD i 0).toNat

/-- n zero bytes. -/
def zeros (n : Nat) : List Byte := List.replicate n 0

/-- Whether n bytes from an offset are all 0. -/
def zeroAt (bs : List Byte) (off n : Nat) : Bool := natAt bs off n == 0

/-- A byte list with bytes put at an offset. -/
def overlay (bs : List Byte) (off : Nat) (new : List Byte) : List Byte :=
  bs.take off ++ new ++ bs.drop (off + new.length)

/-- An n-bit number read as two's complement. -/
def signed (n v : Nat) : Int := if v < 2 ^ (n - 1) then (v : Int) else (v : Int) - 2 ^ n

/-- An integer reduced to n bits. -/
def wrap (n : Nat) (i : Int) : Nat := (i % 2 ^ n).toNat

/-- A word from an integer, modulo 2^64. -/
def wordOf (i : Int) : Word := BitVec.ofInt 64 i

/-- An n-bit value extended to a word, by its sign or by zeros. -/
def extend (n : Nat) (sgn : Bool) (v : Nat) : Word := if sgn then wordOf (signed n v) else BitVec.ofNat 64 v

/-- Number of bits needed for v: 0 for 0. -/
def bitLength (v : Nat) : Nat := if v = 0 then 0 else Nat.log2 v + 1

/-- Number of 1 bits among the lowest n bits. -/
def countOnes : Nat → Nat → Nat
  | 0, _ => 0
  | n + 1, v => v % 2 + countOnes n (v / 2)

/-- The lowest n bits in reverse order. -/
def reverseBits : Nat → Nat → Nat
  | 0, _ => 0
  | n + 1, v => v % 2 * 2 ^ n + reverseBits n (v / 2)

/-- Zeros below the least significant 1 bit, at most n. -/
def trailingZeros : Nat → Nat → Nat
  | 0, _ => 0
  | n + 1, v => if v % 2 = 1 then 0 else trailingZeros n (v / 2) + 1

/-- Round v down to a multiple of m. -/
def alignDown (v m : Nat) : Nat := v / m * m

/-- Round v up to a multiple of m. -/
def alignUp (v m : Nat) : Nat := (v + m - 1) / m * m

/-- The quotient rounded up. -/
def ceilDiv (a b : Nat) : Nat := (a + b - 1) / b

/-- Element i of a row cut into w-bit elements (R27). -/
def Row.elem (r : Row) (w i : Nat) : Nat := r.toNat / 2 ^ (w * i) % 2 ^ w

/-- A row from its w-bit elements, the first lowest. -/
def Row.ofElems (w : Nat) (es : List Nat) : Row :=
  BitVec.ofNat 1024 (es.foldr (fun e acc => e % 2 ^ w + 2 ^ w * acc) 0)

/-- A mask from its bits, the first lowest. -/
def Mask.ofBits (bs : List Bool) : Mask := BitVec.ofNat 128 (bs.foldr (fun b acc => bit01 b + 2 * acc) 0)

/-- The mask of all ones. -/
def Mask.full : Mask := BitVec.allOnes 128

/-- Whether `o` is some value meeting p. -/
def optAny {α : Type} (o : Option α) (p : α → Bool) : Bool :=
  match o with
  | some a => p a
  | none => false

end Sys2Proof
end

