-- ==== Sys2Proof/Machine/Gcm.lean ====
section
/-! DEFINITION. AES-256-GCM, by which service frames and peer packets are sealed (R403, R411, R414), as its standards give it. -/

namespace Sys2Proof

/-- The substitution box of AES, sixteen bytes a number, lowest first. -/
def aesBox : List Nat := [
  0x76ABD7FE2B670130C56F6BF27B777C63, 0xC072A49CAFA2D4ADF04759FA7DC982CA,
  0x1531D871F1E5A534CCF73F362693FDB7, 0x75B227EBE28012079A059618C323C704,
  0x842FE329B3D63B52A05A6E1B1A2C8309, 0xCF584C4A39BECB6A5BB1FC20ED00D153,
  0xA89F3C507F02F94585334D43FBAAEFD0, 0xD2F3FF1021DAB6BCF5389D928F40A351,
  0x73195D643D7EA7C41744975FEC130CCD, 0xDB0B5EDE14B8EE4688902A22DC4F8160,
  0x79E4959162ACD3C25C2406490A3A32E0, 0x08AE7A65EAF4566CA94ED58D6D37C8E7,
  0x8A8BBD4B1F74DDE8C6B4A61C2E2578BA, 0x9E1DC186B95735610EF6034866B53E70,
  0xDF2855CEE9871E9B948ED9691198F8E1, 0x16BB54B00F2D99416842E6BF0D89A18C]

/-- The substitution of a byte. -/
def aesSub (x : Nat) : Nat := bitsOf (aesBox.getD (x / 16) 0) (8 * (x % 16)) 8

/-- Doubling in the field of AES. -/
def aesDouble (x : Nat) : Nat := if x < 128 then 2 * x else (2 * x) ^^^ 0x11B

/-- The next words of a key schedule of eight words each, with the round constant that follows. -/
def aesNextKey (w : List (List Nat)) (rc : Nat) : List (List Nat) :=
  let word (i : Nat) : List Nat := w.getD i []
  let mix (a b : List Nat) : List Nat := List.zipWith (· ^^^ ·) a b
  let turned := match word 7 with
    | a :: rest => rest ++ [a]
    | [] => []
  let head := (turned.map aesSub).mapIdx (fun i b => if i = 0 then b ^^^ rc else b)
  let w0 := mix (word 0) head
  let w1 := mix (word 1) w0
  let w2 := mix (word 2) w1
  let w3 := mix (word 3) w2
  let w4 := mix (word 4) (w3.map aesSub)
  let w5 := mix (word 5) w4
  let w6 := mix (word 6) w5
  [w0, w1, w2, w3, w4, w5, w6, mix (word 7) w6]

/-- The words of the key schedule from eight words on, for n further sets. -/
def aesSchedule (w : List (List Nat)) (rc : Nat) : Nat → List (List Nat)
  | 0 => w
  | n + 1 => w ++ aesSchedule (aesNextKey w rc) (2 * rc) n

/-- The fifteen round keys of a 32-byte key. -/
def aesKeys (key : List Byte) : List (List Nat) :=
  let b := key.map (·.toNat)
  let words := (List.range 8).map (fun i => (b.drop (4 * i)).take 4)
  let all := aesSchedule words 1 7
  (List.range 15).map (fun i => ((all.drop (4 * i)).take 4).flatten)

/-- One column of the mixing step. -/
def aesMix : List Nat → List Nat
  | [a, b, c, d] =>
    let t := a ^^^ b ^^^ c ^^^ d
    [a ^^^ t ^^^ aesDouble (a ^^^ b), b ^^^ t ^^^ aesDouble (b ^^^ c), c ^^^ t ^^^ aesDouble (c ^^^ d), d ^^^ t ^^^ aesDouble (d ^^^ a)]
  | l => l

/-- Substitution and row shift of a block of sixteen bytes. -/
def aesShift (x : List Nat) : List Nat := (List.range 16).map (fun i => aesSub (x.getD ((5 * i) % 16) 0))

/-- The rounds of a block under the round keys that remain; the last does not mix. -/
def aesRounds (x : List Nat) : List (List Nat) → List Nat
  | [] => x
  | [k] => List.zipWith (· ^^^ ·) (aesShift x) k
  | k :: ks =>
    let y := aesShift x
    aesRounds (List.zipWith (· ^^^ ·) ((List.range 4).flatMap (fun i => aesMix ((y.drop (4 * i)).take 4))) k) ks

/-- AES of a block of sixteen bytes. -/
def aesBlock (keys : List (List Nat)) (x : List Nat) : List Nat :=
  match keys with
  | k :: ks => aesRounds (List.zipWith (· ^^^ ·) x k) ks
  | [] => x

/-- A number of sixteen bytes, most significant first, and back. -/
def bigOf (x : List Nat) : Nat := x.foldl (fun a b => 256 * a + b) 0
def bigBytes (n : Nat) : List Nat := (List.range 16).map (fun i => bitsOf n (8 * (15 - i)) 8)

/-- The product of GCM's field over the low n bits of the count, highest coefficient bit first. -/
def ghashMul (x v z : Nat) : Nat → Nat
  | 0 => z
  | n + 1 => ghashMul x (if v % 2 = 1 then (v / 2) ^^^ (0xE1 * 2 ^ 120) else v / 2) (if bitOf x n then z ^^^ v else z) n

/-- Data cut into blocks of sixteen bytes, the last filled up with zeros; n blocks at most. -/
def gcmBlocks (bs : List Nat) : Nat → List (List Nat)
  | 0 => []
  | n + 1 => (bs.take 16 ++ List.replicate (16 - (bs.take 16).length) 0) :: gcmBlocks (bs.drop 16) n

/-- The blocks of data. -/
def blocksOf (bs : List Nat) : List (List Nat) := gcmBlocks bs (ceilDiv bs.length 16)

/-- The tag of additional data and ciphertext under a nonce of twelve bytes. -/
def gcmTag (keys : List (List Nat)) (nonce aad cipher : List Nat) : List Byte :=
  let h := bigOf (aesBlock keys (List.replicate 16 0))
  let lens := bigBytes (8 * aad.length * 2 ^ 64 + 8 * cipher.length)
  let g := (blocksOf aad ++ blocksOf cipher ++ [lens]).foldl (fun y b => ghashMul (y ^^^ bigOf b) h 0 128) 0
  (List.zipWith (· ^^^ ·) (bigBytes g) (aesBlock keys (nonce ++ [0, 0, 0, 1]))).map (fun b => BitVec.ofNat 8 b)

/-- Data under the counter blocks from count i on. -/
def gcmCounter (keys : List (List Nat)) (nonce : List Nat) (i : Nat) : List (List Nat) → List Nat
  | [] => []
  | b :: rest =>
    List.zipWith (· ^^^ ·) b (aesBlock keys (nonce ++ (bigBytes (i % 2 ^ 32)).drop 12)) ++ gcmCounter keys nonce (i + 1) rest

/-- Data encrypted or decrypted: the two are one operation. -/
def gcmCrypt (keys : List (List Nat)) (nonce data : List Nat) : List Nat := (gcmCounter keys nonce 2 (blocksOf data)).take data.length

/-- Seal a plaintext: ciphertext, then the 16-byte tag. -/
def gcmSeal (key nonce aad plain : List Byte) : List Byte :=
  let keys := aesKeys key
  let n := nonce.map (·.toNat)
  let c := gcmCrypt keys n (plain.map (·.toNat))
  c.map (fun b => BitVec.ofNat 8 b) ++ gcmTag keys n (aad.map (·.toNat)) c

/-- Open a sealed text; none where the tag does not verify. -/
def gcmOpen (key nonce aad sealed : List Byte) : Option (List Byte) :=
  let keys := aesKeys key
  let n := nonce.map (·.toNat)
  if sealed.length < 16 then none
  else
    let c := (sealed.take (sealed.length - 16)).map (·.toNat)
    if gcmTag keys n (aad.map (·.toNat)) c = sealed.drop (sealed.length - 16) then some ((gcmCrypt keys n c).map (fun b => BitVec.ofNat 8 b))
    else none

end Sys2Proof
end

