-- ==== Sys2Proof/Config.lean ====
section
/-! DEFINITION. What the spec leaves open and the machine goes on with: values without a body, of which nothing can be proved. Each is
named in notes/assumptions. -/

namespace Sys2Proof.Config

/-- Address of word 0 of the trap handler's line in an image of the Jalcen firmware, by the image's hash (R312, R314). -/
opaque handlerLine : Nat → BitVec 57

/-- The high half of the handle value that names launch n (R194: an opaque value). -/
opaque launchTag : Nat → BitVec 32

/-- The high half of the reply route of job n (R338: an opaque route). -/
opaque routeTag : Nat → BitVec 32

/-- An undetermined 32-bit element of an update that consumed an uncorrectable error (R246), by tile, row, column, step and cycle. -/
opaque consumedElement : Nat → Nat → Nat → Nat → Nat → BitVec 32

/-- The handle shown in place of a micro-context's in records about protected partitions, by start count and handle (R421). -/
opaque opaqueHandle : Nat → Nat → BitVec 16

/-- TVAL of a trap for which no rule names a value (SPECSIDE, SPEC of ACMP, SPECE and SPECX, the asynchronous causes), by cause and code
address alone: what an instruction returns varies with the cycle only where Table 15.1 says so (R359). -/
opaque unstatedTval : Nat → Nat → BitVec 64

/-- The byte that an uncorrectable error leaves at a store address, by address and cycle. -/
opaque upsetByte : Nat → Nat → BitVec 8

/-- The module's fused identity: public and private parts of the ML-DSA-65 and ML-KEM-1024 pairs (R419), as byte strings. -/
opaque identityKey : List (BitVec 8)
opaque kemKey : List (BitVec 8)
opaque certChain : List (BitVec 8)

/-- ML-KEM-1024 decapsulation under the module's private key: ciphertext to shared secret (R405). -/
opaque kemDecapsulate : List (BitVec 8) → List (BitVec 8)

/-- An ML-DSA-65 signature of a message under the module's identity key, by signing count (R420). -/
opaque sign : Nat → List (BitVec 8) → List (BitVec 8)

/-- Whether an image carries a signature that verifies (R419, R445), and the security version and interface number it carries. -/
opaque imageVerifies : List (BitVec 8) → Bool
opaque imageVersion : List (BitVec 8) → Nat
opaque imageInterface : List (BitVec 8) → Nat

/-- The key that the two Lids derive by a fresh exchange at a start for a direction of a die-to-die boundary (R409), by start and direction. -/
opaque linkKey : Nat → Nat → List (BitVec 8)

/-- The key of a sub-stream of a function's IDE stream after its n-th refresh through IDE_KM (R410), by function, sub-stream and n. -/
opaque ideKey : Nat → Nat → Nat → BitVec 256

/-- The key under which a path that a rule seals is sealed while the key slot named holds no key, by slot number. -/
opaque absentKey : Nat → List (BitVec 8)

/-- The minimum security version fused in a die (R445). -/
opaque minimumVersion : Nat → Nat

/-- What the image flash holds at manufacture, by die, kind and bank: the image's bytes (R444). -/
opaque flashImage : Nat → Nat → Nat → List (BitVec 8)

/-- The address at which Lid allocates its n-th page table on a die (R401). -/
opaque tableAddress : Nat → Nat → BitVec 52

/-- SYNCLASS, COUNT and DATA of an error record (Table 21.10), for which no rule names values. -/
opaque errorSyndrome : Nat → BitVec 16
opaque errorCount : Nat → BitVec 32
opaque errorData : Nat → BitVec 64

end Sys2Proof.Config
end

