-- ==== Sys2Proof/Syntax.lean ====
section
/-! DEFINITION. The instruction set as syntax: one constructor of `Instr` per row of spec/opcode_table.json. The first 177 are
instructions (ch. 5), the other 117 are the part's own events (spec/95_what_each_step_holds.md). An instruction carries its
header `h` (length, guard and token fields, R114, R116) and its operand fields; an event carries what the outside world or
the order of events decides. Register fields are numbers; which of them a stream holds is checked in WellFormed (R117). -/

namespace Sys2Proof

/-- The four streams of a unit (R16), with codes 0 to 3 in this order. -/
inductive Stream where
  | s
  | v
  | m
  | x
  deriving DecidableEq, Repr

/-- Instruction lengths of 32, 64 and 96 bits (R112). -/
inductive Len where
  | w1
  | w2
  | w3
  deriving DecidableEq, Repr

/-- What every instruction carries beside its operands: its length and the guard and token fields of word 1 (R114). A wait or
post naming the own stream means none (R20) and is `none` here; the 32-bit form has the default word 1 (R116). -/
structure Hdr where
  len : Len
  guard : Nat
  sense : Bool
  wait : Option Stream
  post : Option Stream
  deriving DecidableEq, Repr

/-- A branch target relative to the branch's own line (R108). -/
structure Target where
  line : Int
  word : Nat
  deriving DecidableEq, Repr

/-- Offset and width of BFX, BFXS and BFI: two registers (fn 0) or two constants (fn 1) (R163). -/
inductive FieldSrc where
  | regs (b c : Nat)
  | imm (off wid : Nat)
  deriving DecidableEq, Repr

/-- The register files MOV copies between, fn 0 to 5 (R165). -/
inductive MovKind where
  | gg
  | qq
  | gl
  | lg
  | ge
  | eg
  deriving DecidableEq, Repr

/-- CMP and CMPI conditions, MOD 0 to 11 (Table 5.3). -/
inductive Cond where
  | eq
  | ne
  | lt
  | le
  | gt
  | ge
  | ltu
  | leu
  | gtu
  | geu
  | tst
  | ntst
  deriving DecidableEq, Repr

/-- VCMP conditions, MOD 0 to 6 (Table 5.3). -/
inductive VCond where
  | eq
  | ne
  | lt
  | le
  | gt
  | ge
  | un
  deriving DecidableEq, Repr

/-- Load sizes, fn 0 to 6 (R129). -/
inductive LoadSize where
  | b
  | bs
  | h
  | hs
  | w
  | ws
  | d
  deriving DecidableEq, Repr

/-- Store sizes, fn 0, 2, 4, 6 (Table 5.5). -/
inductive StoreSize where
  | b
  | h
  | w
  | d
  deriving DecidableEq, Repr

/-- Sizes of the atomics, fn 4 and 6 (Table 5.5). -/
inductive AtomicSize where
  | w
  | d
  deriving DecidableEq, Repr

/-- Sizes and signedness of AMIN and AMAX, fn 4 to 7 (Table 5.5). -/
inductive MinMaxSize where
  | u32
  | s32
  | u64
  | s64
  deriving DecidableEq, Repr

/-- Memory orders, order codes 0 to 5 (Table 5.2). -/
inductive MemOrder where
  | natural
  | rlx
  | acq
  | rel
  | acqrel
  | sc
  deriving DecidableEq, Repr

/-- Scopes, scope codes 0 to 4 (Table 5.2). -/
inductive Scope where
  | sys
  | pkg
  | die
  | clu
  | cell
  deriving DecidableEq, Repr

/-- Barrier scopes, 0 to 2 (R191). -/
inductive BarScope where
  | team
  | die
  | package
  deriving DecidableEq, Repr

/-- Die engines reached by ENQ and DEQ, fn 0 to 3 (Table 8.5). -/
inductive Engine where
  | walker
  | collective
  | egress
  | siphon
  deriving DecidableEq, Repr

/-- V element types, fn 0 to 9 (Table 3.1, R131). -/
inductive ElemType where
  | f32
  | bf16
  | f16
  | f64
  | i32
  | u32
  | i16
  | u16
  | i8
  | u8
  deriving DecidableEq, Repr

/-- Element formats, codes 0 to 17 (Table 3.1). -/
inductive Format where
  | fp32
  | bf16
  | fp16
  | fp64
  | int32
  | uint32
  | int16
  | uint16
  | int8
  | uint8
  | e5m2
  | e4m3
  | e3m2
  | e2m3
  | e2m1
  | int4
  | uint4
  | a4
  deriving DecidableEq, Repr

/-- Rounding modes, codes 0 to 4 (Table 3.10). -/
inductive Rounding where
  | rne
  | rtz
  | rup
  | rdn
  | sto
  deriving DecidableEq, Repr

/-- MOD of VADD, VSUB and VMUL: a rounding on float types, wrap or saturate on integer types (Table 5.6). -/
inductive ArithMode where
  | round (r : Rounding)
  | wrap
  | sat
  deriving DecidableEq, Repr

/-- How VCVT reads its source, ext[7:5] 0 to 2 (R222). -/
inductive CvtSource where
  | asType
  | e5m2
  | e4m3
  deriving DecidableEq, Repr

/-- Operations of VRED and VSCAN, MOD[4:3] 0 to 2 (R225). -/
inductive RedOp where
  | sum
  | min
  | max
  deriving DecidableEq, Repr

/-- The two context slots of a cell (R31). Cells 0 to 511 are the compute cells by global index (R14); cell 512 + 8 × die + k is
pantry cell k of a die (R13). `h1` tells slot H1 from slot H0. -/
structure SlotId where
  cell : Nat
  h1 : Bool
  deriving DecidableEq, Repr

/-- The translation buffers of Table 2.8 that a walk may fill. -/
inductive BufferLevel where
  | first
  | shared
  deriving DecidableEq, Repr

/-- The parts that fail during a start (R426): dies whose images do not verify, boundaries whose links fail full training
(0 D0-D1, 1 D1-D3, 2 D3-D2, 3 D2-D0), and stacks (4 × die + stack) that fail full training. -/
structure StartFaults where
  dies : List Nat
  links : List Nat
  badStacks : List Nat
  deriving DecidableEq, Repr

/-- The rows 4 to 12 of Table 4.6 that can reject an instruction word, with the causes and subcodes of Table 4.7. -/
inductive DecodeTrap where
  /-- row 4: ILLLEN, LEN -/
  | len
  /-- row 5: ILLLEN, SPILL -/
  | spill
  /-- row 6: ILLOP, OP -/
  | op
  /-- row 7: ILLLEN, SHORT -/
  | short
  /-- row 8: ILLSTREAM, OPCODE -/
  | opcode
  /-- row 8: ILLSTREAM, TOKEN -/
  | token
  /-- row 9: PRIV -/
  | priv
  /-- row 10: ILLREG -/
  | reg
  /-- row 11: ILLOP, FN -/
  | fn
  /-- row 12: ILLOP, TARGET -/
  | target
  deriving DecidableEq, Repr

/-- The instructions of the K4 in the order of spec/opcode_table.json, then its events, those without arguments last. -/
inductive Instr where
  /-- NOP: No effect beyond the token fields (R118). -/
  | nop (h : Hdr)
  /-- ADD: R158 -/
  | add (h : Hdr) (d : Nat) (a : Nat) (b : Nat)
  /-- ADDI: R158 -/
  | addi (h : Hdr) (d : Nat) (a : Nat) (imm : Int)
  /-- SUB: R158 -/
  | sub (h : Hdr) (d : Nat) (a : Nat) (b : Nat)
  /-- MUL: R158 -/
  | mul (h : Hdr) (d : Nat) (a : Nat) (b : Nat)
  /-- MULHS: R158 -/
  | mulhs (h : Hdr) (d : Nat) (a : Nat) (b : Nat)
  /-- MULHU: R158 -/
  | mulhu (h : Hdr) (d : Nat) (a : Nat) (b : Nat)
  /-- DIVS: R159 -/
  | divs (h : Hdr) (d : Nat) (a : Nat) (b : Nat)
  /-- DIVU: R159 -/
  | divu (h : Hdr) (d : Nat) (a : Nat) (b : Nat)
  /-- REMS: R159 -/
  | rems (h : Hdr) (d : Nat) (a : Nat) (b : Nat)
  /-- REMU: R159 -/
  | remu (h : Hdr) (d : Nat) (a : Nat) (b : Nat)
  /-- AND: R160 -/
  | and_ (h : Hdr) (d : Nat) (a : Nat) (b : Nat)
  /-- ANDI: R160 -/
  | andi (h : Hdr) (d : Nat) (a : Nat) (imm : Int)
  /-- OR: R160 -/
  | or_ (h : Hdr) (d : Nat) (a : Nat) (b : Nat)
  /-- ORI: R160 -/
  | ori (h : Hdr) (d : Nat) (a : Nat) (imm : Int)
  /-- XOR: R160 -/
  | xor_ (h : Hdr) (d : Nat) (a : Nat) (b : Nat)
  /-- XORI: R160 -/
  | xori (h : Hdr) (d : Nat) (a : Nat) (imm : Int)
  /-- ANDN: R160 -/
  | andn (h : Hdr) (d : Nat) (a : Nat) (b : Nat)
  /-- SHL: R161 -/
  | shl (h : Hdr) (d : Nat) (a : Nat) (b : Nat)
  /-- SHLI: R161 -/
  | shli (h : Hdr) (d : Nat) (a : Nat) (imm : Nat)
  /-- SHR: R161 -/
  | shr (h : Hdr) (d : Nat) (a : Nat) (b : Nat)
  /-- SHRI: R161 -/
  | shri (h : Hdr) (d : Nat) (a : Nat) (imm : Nat)
  /-- SAR: R161 -/
  | sar (h : Hdr) (d : Nat) (a : Nat) (b : Nat)
  /-- SARI: R161 -/
  | sari (h : Hdr) (d : Nat) (a : Nat) (imm : Nat)
  /-- ROL: R161 -/
  | rol (h : Hdr) (d : Nat) (a : Nat) (b : Nat)
  /-- ROR: R161 -/
  | ror (h : Hdr) (d : Nat) (a : Nat) (b : Nat)
  /-- CLZ: R162 -/
  | clz (h : Hdr) (d : Nat) (a : Nat)
  /-- CTZ: R162 -/
  | ctz (h : Hdr) (d : Nat) (a : Nat)
  /-- POPC: R162 -/
  | popc (h : Hdr) (d : Nat) (a : Nat)
  /-- BREV: R162 -/
  | brev (h : Hdr) (d : Nat) (a : Nat)
  /-- BFX: R163 -/
  | bfx (h : Hdr) (d : Nat) (a : Nat) (src : FieldSrc)
  /-- BFXS: R163 -/
  | bfxs (h : Hdr) (d : Nat) (a : Nat) (src : FieldSrc)
  /-- BFI: R163 -/
  | bfi (h : Hdr) (d : Nat) (a : Nat) (src : FieldSrc)
  /-- MINS: R164 -/
  | mins (h : Hdr) (d : Nat) (a : Nat) (b : Nat)
  /-- MINU: R164 -/
  | minu (h : Hdr) (d : Nat) (a : Nat) (b : Nat)
  /-- MAXS: R164 -/
  | maxs (h : Hdr) (d : Nat) (a : Nat) (b : Nat)
  /-- MAXU: R164 -/
  | maxu (h : Hdr) (d : Nat) (a : Nat) (b : Nat)
  /-- SEL: R164 -/
  | sel (h : Hdr) (d : Nat) (a : Nat) (b : Nat) (c : Nat)
  /-- MOV: R165 -/
  | mov (h : Hdr) (d : Nat) (a : Nat) (k : MovKind)
  /-- LI: R166 -/
  | li (h : Hdr) (d : Nat) (imm : Int)
  /-- LIH: R166 -/
  | lih (h : Hdr) (d : Nat) (imm : Int)
  /-- LEA: R167: `fn` is the scale n -/
  | lea (h : Hdr) (d : Nat) (a : Nat) (b : Nat) (fn : Nat)
  /-- CMP: R168 -/
  | cmp (h : Hdr) (d : Nat) (a : Nat) (b : Nat) (cond : Cond)
  /-- CMPI: R168 -/
  | cmpi (h : Hdr) (d : Nat) (a : Nat) (imm : Int) (cond : Cond)
  /-- PLOG: R169: `fn` is the truth table -/
  | plog (h : Hdr) (d : Nat) (a : Nat) (b : Nat) (fn : Nat)
  /-- BR: R172 -/
  | br (h : Hdr) (tgt : Target)
  /-- JMPR: R171 -/
  | jmpr (h : Hdr) (a : Nat)
  /-- CALL: R172 -/
  | call (h : Hdr) (tgt : Target)
  /-- CALLR: R172 -/
  | callr (h : Hdr) (a : Nat)
  /-- RET: R171 -/
  | ret (h : Hdr) (a : Nat)
  /-- LOOP: R173 -/
  | loop (h : Hdr) (d : Nat) (tgt : Target)
  /-- CVTA: R175: `fn` 0 own to rank-qualified, 1 back -/
  | cvta (h : Hdr) (d : Nat) (a : Nat) (fn : Nat)
  /-- TSPC: R176: `fn` is the space tested -/
  | tspc (h : Hdr) (d : Nat) (a : Nat) (fn : Nat)
  /-- MFS: R177 -/
  | mfs (h : Hdr) (d : Nat) (a : Nat)
  /-- MTS: R177 -/
  | mts (h : Hdr) (d : Nat) (a : Nat)
  /-- HALT: R174 -/
  | halt (h : Hdr)
  /-- LD: R182 -/
  | ld (h : Hdr) (d : Nat) (a : Nat) (b : Nat) (sz : LoadSize) (disp : Int)
  /-- ST: R182 -/
  | st (h : Hdr) (d : Nat) (a : Nat) (b : Nat) (sz : StoreSize) (disp : Int)
  /-- LDA: R182, R183 -/
  | lda (h : Hdr) (d : Nat) (a : Nat) (b : Nat) (sz : LoadSize) (disp : Int) (ord : MemOrder) (scope : Scope)
  /-- STR: R182, R183 -/
  | str (h : Hdr) (d : Nat) (a : Nat) (b : Nat) (sz : StoreSize) (disp : Int) (ord : MemOrder) (scope : Scope)
  /-- AADD: R185 -/
  | aadd (h : Hdr) (d : Nat) (a : Nat) (b : Nat) (sz : AtomicSize) (ord : MemOrder) (scope : Scope)
  /-- AMIN: R185 -/
  | amin (h : Hdr) (d : Nat) (a : Nat) (b : Nat) (sz : MinMaxSize) (ord : MemOrder) (scope : Scope)
  /-- AMAX: R185 -/
  | amax (h : Hdr) (d : Nat) (a : Nat) (b : Nat) (sz : MinMaxSize) (ord : MemOrder) (scope : Scope)
  /-- AAND: R185 -/
  | aand (h : Hdr) (d : Nat) (a : Nat) (b : Nat) (sz : AtomicSize) (ord : MemOrder) (scope : Scope)
  /-- AOR: R185 -/
  | aor (h : Hdr) (d : Nat) (a : Nat) (b : Nat) (sz : AtomicSize) (ord : MemOrder) (scope : Scope)
  /-- AXOR: R185 -/
  | axor (h : Hdr) (d : Nat) (a : Nat) (b : Nat) (sz : AtomicSize) (ord : MemOrder) (scope : Scope)
  /-- AXCHG: R185 -/
  | axchg (h : Hdr) (d : Nat) (a : Nat) (b : Nat) (sz : AtomicSize) (ord : MemOrder) (scope : Scope)
  /-- ACAS: R185, R186 -/
  | acas (h : Hdr) (d : Nat) (a : Nat) (b : Nat) (c : Nat) (sz : AtomicSize) (ord : MemOrder) (scope : Scope)
  /-- FENCE: R187, R188 -/
  | fence (h : Hdr) (ord : MemOrder) (scope : Scope)
  /-- RFENCE: R189 -/
  | rfence (h : Hdr)
  /-- TKSEND: R190 -/
  | tksend (h : Hdr) (st : Stream)
  /-- TKWAIT: R190 -/
  | tkwait (h : Hdr) (st : Stream)
  /-- BARA: R191, R192 -/
  | bara (h : Hdr) (n : Nat) (scope : BarScope)
  /-- BARW: R191, R192 -/
  | barw (h : Hdr) (n : Nat) (scope : BarScope)
  /-- LAUNCH: R194 -/
  | launch (h : Hdr) (d : Nat) (a : Nat) (b : Nat)
  /-- LAUNCH_CONT: R194, R196 -/
  | launchCont (h : Hdr) (d : Nat) (a : Nat) (b : Nat)
  /-- JOIN: R197 -/
  | join (h : Hdr) (a : Nat)
  /-- CANCEL: R198 -/
  | cancel (h : Hdr) (d : Nat) (a : Nat) (child : Bool) (level : Nat)
  /-- CNTRD: R199 -/
  | cntrd (h : Hdr) (d : Nat) (a : Nat) (child : Bool) (level : Nat)
  /-- ENQ: R202 -/
  | enq (h : Hdr) (a : Nat) (eng : Engine)
  /-- DEQ: R203 -/
  | deq (h : Hdr) (a : Nat) (eng : Engine)
  /-- WAITEV: R200 -/
  | waitev (h : Hdr) (d : Nat) (a : Nat) (b : Nat) (child : Bool) (level : Nat)
  /-- GPOS: R204 -/
  | gpos (h : Hdr) (a : Nat)
  /-- CSLIVE: R205 -/
  | cslive (h : Hdr) (a : Nat) (b : Nat)
  /-- TRAP: R206 -/
  | trap (h : Hdr) (imm : Nat)
  /-- ERET: R207 -/
  | eret (h : Hdr)
  /-- BKPT: R206 -/
  | bkpt (h : Hdr) (imm : Nat)
  /-- VADD: R217 -/
  | vadd (h : Hdr) (d : Nat) (a : Nat) (b : Nat) (ty : ElemType) (mode : ArithMode)
  /-- VSUB: R217 -/
  | vsub (h : Hdr) (d : Nat) (a : Nat) (b : Nat) (ty : ElemType) (mode : ArithMode)
  /-- VMUL: R217 -/
  | vmul (h : Hdr) (d : Nat) (a : Nat) (b : Nat) (ty : ElemType) (mode : ArithMode)
  /-- VFMA: R217 -/
  | vfma (h : Hdr) (d : Nat) (a : Nat) (b : Nat) (ty : ElemType) (rnd : Rounding)
  /-- VFMS: R217 -/
  | vfms (h : Hdr) (d : Nat) (a : Nat) (b : Nat) (ty : ElemType) (rnd : Rounding)
  /-- VMIN: R218 -/
  | vmin (h : Hdr) (d : Nat) (a : Nat) (b : Nat) (ty : ElemType)
  /-- VMAX: R218 -/
  | vmax (h : Hdr) (d : Nat) (a : Nat) (b : Nat) (ty : ElemType)
  /-- VABS: R218 -/
  | vabs (h : Hdr) (d : Nat) (a : Nat) (ty : ElemType)
  /-- VNEG: R218 -/
  | vneg (h : Hdr) (d : Nat) (a : Nat) (ty : ElemType)
  /-- VCMP: R219 -/
  | vcmp (h : Hdr) (d : Nat) (a : Nat) (b : Nat) (ty : ElemType) (cond : VCond)
  /-- VSEL: R219 -/
  | vsel (h : Hdr) (d : Nat) (a : Nat) (b : Nat) (c : Nat) (ty : ElemType)
  /-- VAND: R220 -/
  | vand (h : Hdr) (d : Nat) (a : Nat) (b : Nat) (ty : ElemType)
  /-- VOR: R220 -/
  | vor (h : Hdr) (d : Nat) (a : Nat) (b : Nat) (ty : ElemType)
  /-- VXOR: R220 -/
  | vxor (h : Hdr) (d : Nat) (a : Nat) (b : Nat) (ty : ElemType)
  /-- VNOT: R220 -/
  | vnot (h : Hdr) (d : Nat) (a : Nat) (ty : ElemType)
  /-- VSHL: R220 -/
  | vshl (h : Hdr) (d : Nat) (a : Nat) (b : Nat) (ty : ElemType)
  /-- VSHR: R220 -/
  | vshr (h : Hdr) (d : Nat) (a : Nat) (b : Nat) (ty : ElemType)
  /-- VSAR: R220 -/
  | vsar (h : Hdr) (d : Nat) (a : Nat) (b : Nat) (ty : ElemType)
  /-- VCVT: R222 -/
  | vcvt (h : Hdr) (d : Nat) (a : Nat) (ty : ElemType) (src : CvtSource) (target : Format) (rnd : Rounding)
  /-- VRCP: R223 -/
  | vrcp (h : Hdr) (d : Nat) (a : Nat)
  /-- VRSQ: R223 -/
  | vrsq (h : Hdr) (d : Nat) (a : Nat)
  /-- VSQRT: R223 -/
  | vsqrt (h : Hdr) (d : Nat) (a : Nat)
  /-- VDIV: R223 -/
  | vdiv (h : Hdr) (d : Nat) (a : Nat) (b : Nat)
  /-- VEXP2: R223 -/
  | vexp2 (h : Hdr) (d : Nat) (a : Nat)
  /-- VLOG2: R223 -/
  | vlog2 (h : Hdr) (d : Nat) (a : Nat)
  /-- VSIN: R223 -/
  | vsin (h : Hdr) (d : Nat) (a : Nat)
  /-- VCOS: R223 -/
  | vcos (h : Hdr) (d : Nat) (a : Nat)
  /-- VTANH: R224 -/
  | vtanh (h : Hdr) (d : Nat) (a : Nat)
  /-- VRED: R225 -/
  | vred (h : Hdr) (d : Nat) (a : Nat) (ty : ElemType) (op : RedOp) (rnd : Rounding)
  /-- VMAXI: R226 -/
  | vmaxi (h : Hdr) (d : Nat) (a : Nat) (b : Nat) (ty : ElemType)
  /-- VSCAN: R225 -/
  | vscan (h : Hdr) (d : Nat) (a : Nat) (ty : ElemType) (op : RedOp) (rnd : Rounding)
  /-- VPERM: R227 -/
  | vperm (h : Hdr) (d : Nat) (a : Nat) (b : Nat) (ty : ElemType)
  /-- VBCAST: R227 -/
  | vbcast (h : Hdr) (d : Nat) (a : Nat) (ty : ElemType)
  /-- VROT: R227 -/
  | vrot (h : Hdr) (d : Nat) (a : Nat) (b : Nat) (ty : ElemType)
  /-- VLD: R228 -/
  | vld (h : Hdr) (d : Nat) (a : Nat) (b : Nat) (ty : ElemType) (disp : Int)
  /-- VST: R228 -/
  | vst (h : Hdr) (d : Nat) (a : Nat) (b : Nat) (ty : ElemType) (disp : Int)
  /-- VLDS: R228 -/
  | vlds (h : Hdr) (d : Nat) (a : Nat) (b : Nat) (ty : ElemType)
  /-- VSTS: R228 -/
  | vsts (h : Hdr) (d : Nat) (a : Nat) (b : Nat) (ty : ElemType)
  /-- VINS: R227 -/
  | vins (h : Hdr) (d : Nat) (a : Nat) (b : Nat) (ty : ElemType)
  /-- VEXT: R227 -/
  | vext (h : Hdr) (d : Nat) (a : Nat) (b : Nat) (ty : ElemType)
  /-- VIOTA: R227 -/
  | viota (h : Hdr) (d : Nat) (ty : ElemType)
  /-- VRNG_F32: R236 -/
  | vrngF32 (h : Hdr) (d : Nat) (a : Nat) (b : Nat)
  /-- VRNG_U32: R236 -/
  | vrngU32 (h : Hdr) (d : Nat) (a : Nat) (b : Nat)
  /-- MPUSH: R230 -/
  | mpush (h : Hdr) (a : Nat)
  /-- MINV: R230 -/
  | minv (h : Hdr)
  /-- MPOP: R230 -/
  | mpop (h : Hdr)
  /-- VBRZ: R231 -/
  | vbrz (h : Hdr) (a : Nat) (tgt : Target)
  /-- VHEAP: R233 -/
  | vheap (h : Hdr) (a : Nat) (b : Nat)
  /-- VHEAPR: R234 -/
  | vheapr (h : Hdr) (d : Nat) (a : Nat)
  /-- VHEAPC: R235 -/
  | vheapc (h : Hdr)
  /-- VPOPC: R221 -/
  | vpopc (h : Hdr) (d : Nat) (a : Nat) (ty : ElemType)
  /-- VMOVM: R221: `exp` is MOD 1 -/
  | vmovm (h : Hdr) (d : Nat) (a : Nat) (ty : ElemType) (exp : Bool)
  /-- MMA: R243 to R247 -/
  | mma (h : Hdr) (d : Nat) (a : Nat) (b : Nat)
  /-- MMAS: R243 to R247 -/
  | mmas (h : Hdr) (d : Nat) (a : Nat) (b : Nat)
  /-- MZERO: R248 -/
  | mzero (h : Hdr) (d : Nat)
  /-- MLDA: R248 -/
  | mlda (h : Hdr) (d : Nat) (a : Nat)
  /-- MSTA: R248 -/
  | msta (h : Hdr) (d : Nat) (a : Nat)
  /-- MCVT: R249: `i32` is fn 4 -/
  | mcvt (h : Hdr) (d : Nat) (a : Nat) (i32 : Bool) (target : Format) (rnd : Rounding)
  /-- MBIAS: R248 -/
  | mbias (h : Hdr) (d : Nat) (a : Nat)
  /-- MPRG: R250: `fn` 1 also clears the flags -/
  | mprg (h : Hdr) (d : Nat) (fn : Nat)
  /-- XMOV: R255 -/
  | xmov (h : Hdr) (d : Nat) (a : Nat)
  /-- XMOVS: R255 -/
  | xmovs (h : Hdr) (d : Nat) (a : Nat) (rnd : Rounding)
  /-- XGATH: R256 -/
  | xgath (h : Hdr) (d : Nat) (a : Nat) (b : Nat)
  /-- XSCAT: R256 -/
  | xscat (h : Hdr) (d : Nat) (a : Nat) (b : Nat)
  /-- XUNPK: R255 -/
  | xunpk (h : Hdr) (d : Nat) (a : Nat)
  /-- XFILL: R255 -/
  | xfill (h : Hdr) (d : Nat) (a : Nat)
  /-- XHASH: R257 -/
  | xhash (h : Hdr) (d : Nat) (a : Nat) (b : Nat)
  /-- XAPP: R258 -/
  | xapp (h : Hdr) (a : Nat) (b : Nat)
  /-- XQRY: R259: `fn` 0 count, 1 cursor -/
  | xqry (h : Hdr) (d : Nat) (fn : Nat)
  /-- SFRAME: R268 -/
  | sframe (h : Hdr) (d : Nat) (a : Nat) (b : Nat)
  /-- SCOMMIT: R269 -/
  | scommit (h : Hdr) (d : Nat) (a : Nat) (b : Nat)
  /-- STRUNC: R270 -/
  | strunc (h : Hdr) (a : Nat) (b : Nat)
  /-- SCUR: R272: `fn` selects the cursor -/
  | scur (h : Hdr) (d : Nat) (a : Nat) (fn : Nat)
  /-- SCKPT: R271 -/
  | sckpt (h : Hdr) (a : Nat) (b : Nat)
  /-- SPECB: R274: `fn` is W -/
  | specb (h : Hdr) (a : Nat) (b : Nat) (fn : Nat)
  /-- ACMP: R275 -/
  | acmp (h : Hdr) (d : Nat)
  /-- SPECE: R276 -/
  | spece (h : Hdr)
  /-- SPECX: R276 -/
  | specx (h : Hdr)
  /-- PFXQ: R282 -/
  | pfxq (h : Hdr) (d : Nat) (a : Nat) (b : Nat)
  /-- PFXI: R283 -/
  | pfxi (h : Hdr) (a : Nat)
  /-- PFXPIN: R283 -/
  | pfxpin (h : Hdr) (a : Nat)
  /-- PFXREL: R283 -/
  | pfxrel (h : Hdr) (a : Nat)
  /-- DQSEND: R284 -/
  | dqsend (h : Hdr) (a : Nat) (b : Nat)
  /-- DQRECV: R284 -/
  | dqrecv (h : Hdr) (d : Nat) (a : Nat) (b : Nat)
  /-- CRED: R285: `fn` 0 sum, 1 max-with-index, 2 min -/
  | cred (h : Hdr) (a : Nat) (fn : Nat)
  /-- CBCST: R285 -/
  | cbcst (h : Hdr) (a : Nat)
  /-- CGATH: R285 -/
  | cgath (h : Hdr) (a : Nat)
  /-- SIPHQ: R286 -/
  | siphq (h : Hdr) (a : Nat) (b : Nat)
  /-- SEGWT: R286 -/
  | segwt (h : Hdr) (a : Nat)
  /-- MASKW: R287 -/
  | maskw (h : Hdr) (a : Nat) (b : Nat)
  /-- ENCODING_TRAP: R120, R121: a word that a row of Table 4.6 rejects -/
  | encodingTrap (t : DecodeTrap)
  /-- V_RESULT_LAND: R210: the oldest V result of the slot with no beats left lands -/
  | vResultLand (u : SlotId)
  /-- M_RETIRE: R242: the M instruction in progress makes its last update and retires -/
  | mRetire (u : SlotId)
  /-- X_COMMAND_RETIRE: R251, R253: the oldest X command retires, or raises its fault -/
  | xCommandRetire (u : SlotId)
  /-- ASYNC_TRAP_TAKE: R311, R316: a pending CANCEL or DEADLINE is taken -/
  | asyncTrapTake (u : SlotId)
  /-- PARK_RETRY: R61: the parked access of a stream, or of X command `k`, retries -/
  | parkRetry (u : SlotId) (stream : Stream) (k : Nat)
  /-- PAGE_WALK: R55 to R57: a walk completes and fills a buffer of the named level -/
  | pageWalk (u : SlotId) (stream : Stream) (va : Word) (fill : BufferLevel)
  /-- WALKER_INVALIDATE_RANGE: R58, R59: command `k` waiting at the die's walker, OP 0x01 -/
  | walkerInvalidateRange (die : Nat) (k : Nat)
  /-- WALKER_INVALIDATE_HANDLE: R58, R59: the same, OP 0x02 -/
  | walkerInvalidateHandle (die : Nat) (k : Nat)
  /-- WALKER_INVALIDATE_ALL: R58, R59: the same, OP 0x03 -/
  | walkerInvalidateAll (die : Nat) (k : Nat)
  /-- EGRESS_REPLY: R356: command `k` waiting at the die's egress engine -/
  | egressReply (die : Nat) (k : Nat)
  /-- EGRESS_STREAM_SEND: R269, R412: the first `n` handed delivery entries of a stream record are sent -/
  | egressStreamSend (rec : Nat) (n : Nat)
  /-- COLLECTIVE_REDUCE: R285: command `k` waiting at the die's collective engine, OP 1, is submitted -/
  | collectiveReduce (die : Nat) (k : Nat)
  /-- COLLECTIVE_BROADCAST: R285: the same, OP 2 -/
  | collectiveBroadcast (die : Nat) (k : Nat)
  /-- COLLECTIVE_GATHER: R285: the same, OP 3 -/
  | collectiveGather (die : Nat) (k : Nat)
  /-- COLLECTIVE_COMPLETE: R285: the commands of one ordinal of a group combine -/
  | collectiveComplete (group : Nat) (ordinal : Nat)
  /-- SIPHON_QUERY: R434: command `k` waiting at the die's Siphon, OP 1 -/
  | siphonQuery (die : Nat) (k : Nat)
  /-- SIPHON_URGE: R434: the same, OP 2 -/
  | siphonUrge (die : Nat) (k : Nat)
  /-- SIPHON_FETCH: R366, R432: the Siphon starts on the next source of an absent segment -/
  | siphonFetch (die : Nat) (frame : Nat)
  /-- SEGMENT_CHECK: R60, R432: data a source delivered is hash-checked -/
  | segmentCheck (die : Nat) (frame : Nat) (data : List Byte)
  /-- SIPHON_SOURCE_TIMEOUT: R432: a source read not done in 100 ms counts as failed -/
  | siphonSourceTimeout (die : Nat) (frame : Nat)
  /-- SERVICE_REQUEST_FRAME: R337, R338, R411, R412: an Ethernet frame with a request arrives -/
  | serviceRequestFrame (port : Nat) (frame : List Byte)
  /-- STREAM_INPUT_FRAME: R268, R337, R412: an Ethernet frame with stream input arrives -/
  | streamInputFrame (port : Nat) (frame : List Byte)
  /-- LADLE_BIND: R341, R342: the home die's first waiting launch that fits binds or resumes -/
  | ladleBind (die : Nat)
  /-- BOUNDARY_TIMEOUT: R344, R326: 25 µs after an unmet boundary request the gang is pre-empted by force -/
  | boundaryTimeout (launch : Nat)
  /-- SLICE_EXPIRY: R345, R328: TSLICE ends and equal-level slots alternate -/
  | sliceExpiry (cell : Nat)
  /-- YIELD_TIMEOUT: R345: a slot waiting for 2,000 c yields -/
  | yieldTimeout (cell : Nat)
  /-- AGE_EXPIRY: R346: a ready micro-context's level rises -/
  | ageExpiry (handle : Nat)
  /-- DEADLINE_EXPIRY: R348: a job's deadline passes -/
  | deadlineExpiry (job : Nat)
  /-- RAMP_WINDOW: R350, R453: a 1 µs window ends with the given demand and temperature -/
  | rampWindow (die : Nat) (demand : Nat) (temp : Nat)
  /-- MASKW_DEADLINE: R287: a waiting MASKW reaches its deadline -/
  | maskwDeadline (u : SlotId)
  /-- QUEUE_NOTIFY: R354, R355, R399: a host write to a VF's notify pages -/
  | queueNotify (vf : Nat) (offset : Nat) (value : Nat)
  /-- QUEUE_REMAP: R355: a queue with PEND set is mapped -/
  | queueRemap (handle : Nat)
  /-- RING_WRITE: R439: the oldest buffered record whose rings have room is written -/
  | ringWrite (die : Nat)
  /-- COLD_START: R424, R426: power-up -/
  | coldStart (faults : StartFaults)
  /-- WARM_START: R424 to R426: a reset with power held -/
  | warmStart (faults : StartFaults)
  /-- PARTITION_ENABLE: R395: a write setting ENABLE of a partition entry -/
  | partitionEnable (p : Nat)
  /-- PARTITION_DISABLE: R395: a write clearing ENABLE -/
  | partitionDisable (p : Nat)
  /-- SCHED_WRITE: R346, R347: a write of a partition's SCHED -/
  | schedWrite (p : Nat) (value : Word)
  /-- REGISTER_WRITE: R394, R398, R400, R415, R422, R452: a host write of 8 bytes to a register of function `func` (0 PF, n VF n) -/
  | registerWrite (func : Nat) (bar : Nat) (offset : Nat) (value : Word)
  /-- WALKER_HOST_SUBMIT: R399: a write of 1 to WGO -/
  | walkerHostSubmit (vf : Nat)
  /-- MAILBOX_PF_MESSAGE: R400: a CLASS 0 call is delivered to the PF driver -/
  | mailboxPfMessage (vf : Nat)
  /-- MAILBOX_PF_RESPONSE: R400: the PF driver completes a CLASS 0 call -/
  | mailboxPfResponse (vf : Nat) (status : Nat) (data : List Byte)
  /-- PTROOT: R401: the CLASS 1 call pending in the mailbox of `func` (0 PF, n VF n) -/
  | ptroot (func : Nat)
  /-- PTWRITE: R401, R402: the CLASS 1 call pending in the mailbox of `func` (0 PF, n VF n) -/
  | ptwrite (func : Nat)
  /-- KEYLOAD: R405: the CLASS 1 call pending in the mailbox of `func` (0 PF, n VF n) -/
  | keyload (func : Nat)
  /-- KEYCLR: R401: the CLASS 1 call pending in the mailbox of `func` (0 PF, n VF n) -/
  | keyclr (func : Nat)
  /-- FRAMEKEY: R401, R406: the CLASS 1 call pending in the mailbox of `func` (0 PF, n VF n) -/
  | framekey (func : Nat)
  /-- REKEY: R407: the CLASS 1 call pending in the mailbox of `func` (0 PF, n VF n) -/
  | rekey (func : Nat)
  /-- REKEY_STATUS: R407: the CLASS 1 call pending in the mailbox of `func` (0 PF, n VF n) -/
  | rekeyStatus (func : Nat)
  /-- ATTEST: R420: the CLASS 1 call pending in the mailbox of `func` (0 PF, n VF n) -/
  | attest (func : Nat)
  /-- SWEEP_STEP: R408: sweep `k` rewrites the line at SP -/
  | sweepStep (k : Nat)
  /-- IDE_THRESHOLD_WRITE: R410: the PF writes a function's thresholds -/
  | ideThresholdWrite (func : Nat) (value : Word)
  /-- IDE_THRESHOLD_REACHED: R410: a sub-stream's count reaches its threshold -/
  | ideThresholdReached (func : Nat) (sub : Nat)
  /-- IDE_SUBSTREAM_STOP: R410: a sub-stream at twice its threshold stops -/
  | ideSubstreamStop (func : Nat) (sub : Nat)
  /-- IDE_KEY_REFRESH: R410: the host refreshes a sub-stream's key -/
  | ideKeyRefresh (func : Nat) (sub : Nat)
  /-- RESET_QUEUE: R435 to R437 -/
  | resetQueue (handle : Nat)
  /-- RESET_MICROCONTEXT: R435 to R437: handle, bit 16 set: end in INVALID -/
  | resetMicrocontext (target : Nat)
  /-- RESET_ENGINE: R435 to R437: die in [1:0], engine in [6:4] -/
  | resetEngine (target : Nat)
  /-- RESET_PARTITION: R435 to R437 -/
  | resetPartition (p : Nat)
  /-- RUNG_TIMEOUT: R436: running rung `k` passes its timeout -/
  | rungTimeout (k : Nat)
  /-- FENCE_CLUSTER: R441 -/
  | fenceCluster (die : Nat) (cluster : Nat)
  /-- FENCE_STACK: R442 -/
  | fenceStack (die : Nat) (stack : Nat)
  /-- JALCEN_SWITCH_POINT: R446: no handler of the old image runs on the die -/
  | jalcenSwitchPoint (die : Nat)
  /-- RECAL_SLICE: R448: one slice; `passes` is the stack's check -/
  | recalSlice (die : Nat) (passes : Bool)
  /-- TELEMETRY_REFRESH: R454: with the sensors' readings -/
  | telemetryRefresh (die : Nat) (temp : Nat) (power : Nat)
  /-- PEER_PACKET_RECEIVE: R416, R417: an Ethernet frame, as the bytes of its headers and of what follows them -/
  | peerPacketReceive (port : Nat) (headers : List Byte) (body : List Byte)
  /-- HELLO: R418: the oldest delivered message of peer entry `peer` -/
  | hello (peer : Nat)
  /-- ACK: R417: the oldest delivered message of peer entry `peer` -/
  | ack (peer : Nat)
  /-- CONTRIB: R416: the oldest delivered message of peer entry `peer` -/
  | contrib (peer : Nat)
  /-- SEGREQ: R416: the oldest delivered message of peer entry `peer` -/
  | segreq (peer : Nat)
  /-- SEGDATA: R416: the oldest delivered message of peer entry `peer` -/
  | segdata (peer : Nat)
  /-- SEGNONE: R416: the oldest delivered message of peer entry `peer` -/
  | segnone (peer : Nat)
  /-- QENTRY: R416: the oldest delivered message of peer entry `peer` -/
  | qentry (peer : Nat)
  /-- MKEY: R450: the oldest delivered message of peer entry `peer` -/
  | mkey (peer : Nat)
  /-- MCB: R450: the oldest delivered message of peer entry `peer` -/
  | mcb (peer : Nat)
  /-- MFRAME: R450: the oldest delivered message of peer entry `peer` -/
  | mframe (peer : Nat)
  /-- MSTREAM: R450: the oldest delivered message of peer entry `peer` -/
  | mstream (peer : Nat)
  /-- MDONE: R450: the oldest delivered message of peer entry `peer` -/
  | mdone (peer : Nat)
  /-- MABORT: R450: the oldest delivered message of peer entry `peer` -/
  | mabort (peer : Nat)
  /-- FWD: R451: the oldest delivered message of peer entry `peer` -/
  | fwd (peer : Nat)
  /-- ACK_TIMER: R417 -/
  | ackTimer (peer : Nat)
  /-- RETRANSMIT_TIMEOUT: R417 -/
  | retransmitTimeout (peer : Nat) (chan : Nat)
  /-- HELLO_TIMER: R418 -/
  | helloTimer (peer : Nat)
  /-- PEER_LOSS: R418 -/
  | peerLoss (peer : Nat)
  /-- PEER_RETRY_TIMER: R418 -/
  | peerRetryTimer (peer : Nat)
  /-- UCIE_GROUP_TAG_FAIL: R409: link 0 to 7, one per boundary and direction -/
  | ucieGroupTagFail (link : Nat)
  /-- UCIE_EPOCH_ROLLOVER: R409 -/
  | ucieEpochRollover (link : Nat)
  /-- ETHERNET_PORT_DOWN: R356 -/
  | ethernetPortDown (port : Nat)
  /-- ETHERNET_PORT_UP: R356 -/
  | ethernetPortUp (port : Nat)
  /-- FATAL_ERROR: R441, Table 22.6 -/
  | fatalError (die : Nat) (cluster : Nat)
  /-- HOST_LINK_DOWN: R9: the host link is lost -/
  | hostLinkDown
  /-- HOST_LINK_UP: R439: the host link returns -/
  | hostLinkUp
  /-- POWER_LOSS: R10: loss of power -/
  | powerLoss
  /-- CBWRITE: R427: the control command in CCMD -/
  | cbwrite
  /-- CBSTATE: R427: the control command in CCMD -/
  | cbstate
  /-- COPY: R428: the control command in CCMD -/
  | copy
  /-- SRCFG: R429: the control command in CCMD -/
  | srcfg
  /-- SEGREG: R431: the control command in CCMD -/
  | segreg
  /-- SEGREL: R431: the control command in CCMD -/
  | segrel
  /-- SEGCHK: R432: the control command in CCMD -/
  | segchk
  /-- PORT: R411, Table 22.3: the control command in CCMD -/
  | port
  /-- RESET_DEVICE: R435 to R437 -/
  | resetDevice
  /-- IDREAD_IDENTITY_KEY: Table 22.3: the control command in CCMD -/
  | idreadIdentityKey
  /-- IDREAD_KEM_KEY: Table 22.3: the control command in CCMD -/
  | idreadKemKey
  /-- IDREAD_CERT_CHAIN: Table 22.3: the control command in CCMD -/
  | idreadCertChain
  /-- RINGS_COMPLETION: R439: the control command in CCMD -/
  | ringsCompletion
  /-- RINGS_ERROR: R439: the control command in CCMD -/
  | ringsError
  /-- PEERCFG_LOCAL: R415: the control command in CCMD -/
  | peercfgLocal
  /-- PEERCFG_ENTRY: R415: the control command in CCMD -/
  | peercfgEntry
  /-- FWSTAGE: R445: the control command in CCMD -/
  | fwstage
  /-- FWSWITCH_JALCEN: R446: the control command in CCMD -/
  | fwswitchJalcen
  /-- FWSWITCH_LADLE: R446: the control command in CCMD -/
  | fwswitchLadle
  /-- FWSWITCH_LID: R446: the control command in CCMD -/
  | fwswitchLid
  /-- RECAL: R448: the control command in CCMD -/
  | recal
  /-- MIGRATE: R450: the control command in CCMD -/
  | migrate
  /-- FWDEND: R451: the control command in CCMD -/
  | fwdend
  deriving DecidableEq, Repr

end Sys2Proof
end

