-- ==== Sys2Proof/Machine/Form.lean ====
section
/-! DEFINITION. The fields of an encoded instruction (ch. 4) and the opcode map (ch. 5) as one table: for each major opcode its
shortest length, the streams that accept it, the file each field names and the values fn, MOD and the extension bits may
take. `Raw.check` makes the checks of rows 6 to 12 of Table 4.6 from that table; `toRaw` and `ofRaw` take an instruction apart
into its fields and put it together again. Every word is a plain number here. -/

namespace Sys2Proof

/-- The code of a stream (Table 1.2). -/
def Stream.code : Stream → Nat
  | .s => 0
  | .v => 1
  | .m => 2
  | .x => 3

/-- The stream of a two-bit code (Table 1.2). -/
def Stream.ofCode : Nat → Stream
  | 0 => .s
  | 1 => .v
  | 2 => .m
  | _ => .x

/-- Instruction words in an instruction of a length (R112). -/
def Len.words : Len → Nat
  | .w1 => 1
  | .w2 => 2
  | .w3 => 3

/-- What decoding depends on beside the words (Table 4.6): the stream, whether it runs in a pantry cell, and its mode. -/
structure DecodeCtx where
  stream : Stream
  pantry : Bool
  user : Bool
  deriving DecidableEq, Repr

/-- The fields of word 0, word 1 and the literal (Tables 4.3 and 4.4). `b` and `fn` together are imm10, `c` and `ext` imm16. -/
structure Raw where
  len : Len
  op : Nat
  d : Nat
  a : Nat
  b : Nat
  fn : Nat
  guard : Nat
  sense : Bool
  wait : Nat
  post : Nat
  mod : Nat
  c : Nat
  ext : Nat
  lit : Nat
  deriving DecidableEq, Repr

/-- Register files (Table 1.4) and the special registers (Table 1.5). -/
inductive File where
  | g
  | q
  | l
  | e
  | v
  | tile
  | special
  deriving DecidableEq, Repr

/-- What a field of an opcode holds: nothing (it must be 0, R118), a plain value, or a register of a file. -/
inductive Use where
  | none
  | value
  | reg (f : File)
  deriving DecidableEq, Repr

/-- The word 0 layouts of R123. -/
inductive Layout where
  | r
  | i
  | t
  deriving DecidableEq, Repr

/-- One row of the opcode map, for given field values: `fnOk`, `modOk` and `extOk` tell whether fn, MOD and the extension bits
(or the immediate) hold assigned values; `link` that the opcode also writes g63; `disp` that the literal or the extension
bits are a displacement (R124). -/
structure Form where
  layout : Layout := .r
  min : Nat := 1
  streams : List Stream
  d : Use := .none
  a : Use := .none
  b : Use := .none
  c : Use := .none
  fnOk : Bool := true
  modOk : Bool := true
  extOk : Bool := true
  link : Bool := false
  disp : Bool := false
  deriving DecidableEq, Repr

/-- Streams All, S only, SX, V, M and X of R123. -/
def allStreams : List Stream := [.s, .v, .m, .x]

/-- The special registers of Table 1.5. -/
def specialNumbers : List Nat := [0x00, 0x01, 0x02, 0x03, 0x04, 0x05, 0x08, 0x09, 0x0A, 0x0B, 0x0C, 0x0D, 0x0E, 0x0F]

/-- Whether a stream holds register `n` of a file (R26, R117, Table 1.4; a pantry cell holds no e registers, R15). -/
def holds (c : DecodeCtx) (f : File) (n : Nat) : Bool :=
  match f with
  | .g => n < (if c.stream = .s then 64 else 16)
  | .q => n < 48
  | .l => n < 4
  | .e => decide (c.stream ≠ .v) && !c.pantry && decide (n < 8)
  | .v => decide (c.stream = .v) && decide (n < 64)
  | .tile => decide (c.stream = .m) && decide (n < 2)
  | .special => specialNumbers.contains n

/-- Bits and value of the effective immediate before extension (R115). -/
def Raw.imm (r : Raw) : Nat × Nat :=
  match r.len with
  | .w1 => (10, r.b * 16 + r.fn)
  | .w2 => (26, (r.c * 1024 + r.ext) * 1024 + (r.b * 16 + r.fn))
  | .w3 => (32, r.lit)

/-- The target field of a T-layout instruction (Table 4.2): bits of the line offset, and the field. -/
def Raw.targetField (r : Raw) : Nat × Nat :=
  match r.len with
  | .w3 => (28, r.lit)
  | _ => (12, r.c * 1024 + r.ext)

/-- A w-bit field read as two's complement. -/
def signedOf (w v : Nat) : Int := if v < 2 ^ (w - 1) then (v : Int) else (v : Int) - 2 ^ w

/-- Orders that an opcode lists, by order code (R126); MOD 30 and 31 are reserved. -/
def orderOk (codes : List Nat) (mod : Nat) : Bool := mod < 30 && codes.contains (mod / 5)

/-- A level code and child flag as CANCEL (`lo` 0) or CNTRD (`lo` 1) takes them from fn (Table 5.5). -/
def levelOk (lo fn : Nat) : Bool := decide (lo ≤ fn % 8) && decide (fn % 8 ≤ 4) && (decide (fn / 8 = 0) || decide (fn % 8 = 1))

def gR : Use := .reg .g
def qR : Use := .reg .q
def vR : Use := .reg .v
def eR : Use := .reg .e
def tR : Use := .reg .tile

/-- Opcodes 0x00 to 0x37 (Table 5.4). A MOV whose fn is reserved has no operand files, so no register of it is checked (log entry 91). -/
def formScalar (r : Raw) : Option Form :=
  let op := r.op
  let m0 := decide (r.mod = 0)
  let f0 := decide (r.fn = 0)
  let x0 := decide (r.ext = 0)
  if op = 0x00 then some { streams := allStreams, fnOk := f0, modOk := m0, extOk := x0 }
  else if op = 0x02 ∨ op = 0x0C ∨ op = 0x0E ∨ op = 0x10 ∨ op = 0x13 ∨ op = 0x15 ∨ op = 0x17 then
    some { layout := .i, streams := allStreams, d := gR, a := gR, modOk := m0 }
  else if op ≤ 0x19 ∨ (0x21 ≤ op ∧ op ≤ 0x24) then
    some { streams := allStreams, d := gR, a := gR, b := gR, fnOk := f0, modOk := m0, extOk := x0 }
  else if op ≤ 0x1D then some { streams := allStreams, d := gR, a := gR, fnOk := f0, modOk := m0, extOk := x0 }
  else if op ≤ 0x20 then
    if r.fn = 0 then some { min := 2, streams := allStreams, d := gR, a := gR, b := gR, c := gR, modOk := m0, extOk := x0 }
    else some { min := 2, streams := allStreams, d := gR, a := gR, b := .value, fnOk := decide (r.fn = 1), modOk := m0,
                extOk := decide (r.ext < 128) }
  else if op = 0x25 then some { min := 2, streams := allStreams, d := gR, a := gR, b := gR, c := qR, fnOk := f0, modOk := m0, extOk := x0 }
  else if op = 0x26 then
    let (fd, fa) : Use × Use := match r.fn with
      | 0 => (gR, gR) | 1 => (qR, qR) | 2 => (gR, .reg .l) | 3 => (.reg .l, gR) | 4 => (gR, eR) | 5 => (eR, gR) | _ => (.value, .value)
    some { streams := allStreams, d := fd, a := fa, fnOk := decide (r.fn ≤ 5), modOk := m0, extOk := x0 }
  else if op = 0x27 ∨ op = 0x28 then some { layout := .i, streams := allStreams, d := gR, modOk := m0 }
  else if op = 0x29 then some { streams := allStreams, d := gR, a := gR, b := gR, fnOk := decide (r.fn ≤ 3), modOk := m0, extOk := x0 }
  else if op = 0x2A then some { streams := allStreams, d := qR, a := gR, b := gR, fnOk := f0, modOk := decide (r.mod ≤ 11), extOk := x0 }
  else if op = 0x2B then some { layout := .i, streams := allStreams, d := qR, a := gR, modOk := decide (r.mod ≤ 11) }
  else if op = 0x2C then some { streams := allStreams, d := qR, a := qR, b := qR, modOk := m0, extOk := x0 }
  else if op = 0x2D then some { layout := .t, min := 2, streams := allStreams, modOk := m0 }
  else if op = 0x2E ∨ op = 0x31 then some { streams := allStreams, a := gR, fnOk := f0, modOk := m0, extOk := x0 }
  else if op = 0x2F then some { layout := .t, min := 2, streams := allStreams, modOk := m0, link := true }
  else if op = 0x30 then some { streams := allStreams, a := gR, fnOk := f0, modOk := m0, extOk := x0, link := true }
  else if op = 0x32 then some { layout := .t, min := 2, streams := allStreams, d := .reg .l, modOk := m0 }
  else if op = 0x33 then some { streams := [.s, .x], d := gR, a := gR, fnOk := decide (r.fn ≤ 1), modOk := m0, extOk := x0 }
  else if op = 0x34 then some { streams := [.s, .x], d := qR, a := gR, fnOk := decide (r.fn ≤ 7), modOk := m0, extOk := x0 }
  else if op = 0x35 then some { streams := allStreams, d := gR, a := .reg .special, fnOk := f0, modOk := m0, extOk := x0 }
  else if op = 0x36 then some { streams := allStreams, d := .reg .special, a := gR, fnOk := f0, modOk := m0, extOk := x0 }
  else some { streams := allStreams, fnOk := f0, modOk := m0, extOk := x0 }

/-- Opcodes 0x40 to 0x5D (Table 5.5). -/
def formSystem (c : DecodeCtx) (r : Raw) : Option Form :=
  let op := r.op
  let m0 := decide (r.mod = 0)
  let f0 := decide (r.fn = 0)
  let x0 := decide (r.ext = 0)
  let xd := decide (r.len ≠ .w3) || x0
  let ldFn := decide (r.fn ≤ 6)
  let stFn := decide (r.fn ≤ 6 ∧ r.fn % 2 = 0)
  let atFn := decide (r.fn = 4 ∨ r.fn = 6)
  if op = 0x40 then some { streams := [.s], d := gR, a := gR, b := gR, fnOk := ldFn, modOk := m0, extOk := xd, disp := true }
  else if op = 0x41 then some { streams := [.s], d := gR, a := gR, b := gR, fnOk := stFn, modOk := m0, extOk := xd, disp := true }
  else if op = 0x42 then some { streams := [.s], d := gR, a := gR, b := gR, fnOk := ldFn, modOk := orderOk [0, 1, 2, 5] r.mod, extOk := xd, disp := true }
  else if op = 0x43 then some { streams := [.s], d := gR, a := gR, b := gR, fnOk := stFn, modOk := orderOk [0, 1, 3, 5] r.mod, extOk := xd, disp := true }
  else if op = 0x45 ∨ op = 0x46 then
    some { streams := [.s], d := gR, a := gR, b := gR, fnOk := decide (4 ≤ r.fn ∧ r.fn ≤ 7), modOk := orderOk [0, 1, 2, 3, 4, 5] r.mod, extOk := x0 }
  else if op ≤ 0x4A then some { streams := [.s], d := gR, a := gR, b := gR, fnOk := atFn, modOk := orderOk [0, 1, 2, 3, 4, 5] r.mod, extOk := x0 }
  else if op = 0x4B then some { min := 2, streams := [.s], d := gR, a := gR, b := gR, c := gR, fnOk := atFn, modOk := orderOk [0, 1, 2, 3, 4, 5] r.mod, extOk := x0 }
  else if op = 0x4C then some { streams := allStreams, fnOk := f0, modOk := orderOk [0, 2, 3, 4, 5] r.mod, extOk := x0 }
  else if op = 0x4D then some { streams := [.s], fnOk := f0, modOk := m0, extOk := x0 }
  else if op = 0x4E ∨ op = 0x4F then
    some { streams := allStreams, fnOk := decide (r.fn < 4 ∧ r.fn ≠ c.stream.code), modOk := m0, extOk := x0 }
  else if op = 0x50 ∨ op = 0x51 then
    some { layout := .i, streams := [.s], modOk := m0, extOk := decide (r.imm.2 < 48) }
  else if op = 0x52 then some { streams := [.s], d := gR, a := gR, b := qR, fnOk := decide (r.fn ≤ 1), modOk := m0, extOk := x0 }
  else if op = 0x53 ∨ op = 0x59 then some { streams := [.s], a := gR, fnOk := f0, modOk := m0, extOk := x0 }
  else if op = 0x54 then some { streams := [.s], d := gR, a := gR, fnOk := levelOk 0 r.fn, modOk := m0, extOk := x0 }
  else if op = 0x55 then some { streams := [.s], d := gR, a := gR, fnOk := levelOk 1 r.fn, modOk := m0, extOk := x0 }
  else if op = 0x56 ∨ op = 0x57 then some { streams := [.s], a := gR, fnOk := decide (r.fn ≤ 3), modOk := m0, extOk := x0 }
  else if op = 0x58 then some { streams := [.s], d := gR, a := gR, b := gR, fnOk := levelOk 1 r.fn, modOk := m0, extOk := x0 }
  else if op = 0x5A then some { streams := [.s], a := gR, b := gR, fnOk := f0, modOk := m0, extOk := x0 }
  else if op = 0x5B ∨ op = 0x5D then some { layout := .i, streams := allStreams, modOk := m0 }
  else some { streams := allStreams, fnOk := f0, modOk := m0, extOk := x0 }

/-- Opcodes 0x60 to 0x92 (Table 5.6). VMOVM with a reserved MOD names the operand files of MOD 1 (log entry 91). -/
def formVector (r : Raw) : Option Form :=
  let op := r.op
  let m0 := decide (r.mod = 0)
  let f0 := decide (r.fn = 0)
  let x0 := decide (r.ext = 0)
  let tyAll := decide (r.fn ≤ 9)
  let tyFloat := decide (r.fn ≤ 3)
  let tyInt := decide (4 ≤ r.fn ∧ r.fn ≤ 9)
  let rnd := decide (r.mod ≤ 4)
  let red := decide (r.mod / 8 ≤ 2) && (if r.fn ≤ 3 ∧ r.mod / 8 = 0 then decide (r.mod % 8 ≤ 3) else decide (r.mod % 8 = 0))
  let v3 : Form := { streams := [.v], d := vR, a := vR, b := vR, fnOk := tyAll, modOk := m0, extOk := x0 }
  let v2 : Form := { streams := [.v], d := vR, a := vR, fnOk := tyAll, modOk := m0, extOk := x0 }
  if op ≤ 0x62 then some { v3 with modOk := if r.fn ≤ 3 then rnd else decide (r.mod ≤ 1) }
  else if op ≤ 0x64 then some { v3 with fnOk := tyFloat, modOk := rnd }
  else if op ≤ 0x66 then some v3
  else if op ≤ 0x68 then some { v2 with fnOk := [0, 1, 2, 3, 4, 6, 8].contains r.fn }
  else if op = 0x69 then some { v3 with d := qR, modOk := decide (r.mod ≤ 5) || (decide (r.mod = 6) && tyFloat) }
  else if op = 0x6A then some { v3 with min := 2, c := qR }
  else if op ≤ 0x6D then some v3
  else if op = 0x6E then some v2
  else if op ≤ 0x71 then some { v3 with fnOk := tyInt }
  else if op = 0x72 then
    some { v2 with min := 2, modOk := rnd,
                   extOk := decide (r.ext < 256 ∧ r.ext % 32 ≤ 11) && (decide (r.ext / 32 = 0) || (decide (r.ext / 32 ≤ 2) && decide (r.fn = 8 ∨ r.fn = 9))) }
  else if op = 0x76 then some { v3 with fnOk := f0 }
  else if op ≤ 0x7B then some { v2 with fnOk := f0 }
  else if op = 0x7C then some { v2 with d := gR, modOk := red }
  else if op = 0x7D then some { v3 with d := gR, b := gR, fnOk := decide (r.fn = 0 ∨ r.fn = 4) }
  else if op = 0x7E then some { v2 with modOk := red }
  else if op = 0x7F then some v3
  else if op = 0x80 then some { v2 with a := gR }
  else if op = 0x81 then some { v3 with b := gR }
  else if op = 0x82 ∨ op = 0x83 then some { v3 with a := gR, b := gR, extOk := decide (r.len ≠ .w3) || x0, disp := true }
  else if op = 0x84 ∨ op = 0x85 ∨ op = 0x86 then some { v3 with a := gR, b := gR }
  else if op = 0x87 then some { v3 with d := gR, b := gR }
  else if op = 0x88 then some { v2 with a := .none, fnOk := tyInt }
  else if op = 0x89 then some { v3 with a := gR, b := gR, fnOk := decide (r.fn = 0 ∨ r.fn = 5) }
  else if op = 0x8A then some { v2 with d := .none, a := qR, fnOk := f0 }
  else if op = 0x8D then some { layout := .t, min := 2, streams := [.v], a := qR, modOk := m0 }
  else if op = 0x8E then some { v3 with d := .none, b := gR, fnOk := f0 }
  else if op = 0x8F then some { v2 with fnOk := f0 }
  else if op ≤ 0x90 then some { v2 with d := .none, a := .none, fnOk := f0 }
  else if op = 0x91 then some { v2 with d := gR, a := qR }
  else if r.mod = 0 then some { v2 with d := qR, modOk := true }
  else some { v2 with a := qR, modOk := decide (r.mod = 1) }

/-- Opcodes 0xA0 to 0xB8 (Table 5.7). -/
def formTile (r : Raw) : Option Form :=
  let op := r.op
  let m0 := decide (r.mod = 0)
  let f0 := decide (r.fn = 0)
  let x0 := decide (r.ext = 0)
  let mF : Form := { streams := [.m], fnOk := f0, modOk := m0, extOk := x0 }
  let xF : Form := { streams := [.x], d := eR, a := eR, fnOk := f0, modOk := m0, extOk := x0 }
  if op ≤ 0xA1 then some { mF with d := tR, a := eR, b := eR }
  else if op = 0xA2 then some { mF with d := tR }
  else if op = 0xA3 ∨ op = 0xA6 then some { mF with d := tR, a := eR }
  else if op = 0xA4 then some { mF with d := eR, a := tR }
  else if op = 0xA5 then
    some { mF with min := 2, d := tR, a := tR, fnOk := decide (r.fn = 0 ∨ r.fn = 4), modOk := decide (r.mod ≤ 4), extOk := [0, 1, 2, 4, 8, 10, 11].contains r.ext }
  else if op = 0xA7 then some { mF with d := gR, fnOk := decide (r.fn ≤ 1) }
  else if op = 0xB1 then some { xF with modOk := decide (r.mod ≤ 3) }
  else if op = 0xB2 ∨ op = 0xB3 then some { xF with b := eR }
  else if op = 0xB5 then some { xF with a := gR }
  else if op = 0xB6 then some { xF with d := gR, b := gR }
  else if op = 0xB7 then some { xF with d := .none, b := gR }
  else if op = 0xB8 then some { xF with d := gR, a := .none, fnOk := decide (r.fn ≤ 1) }
  else some xF

/-- Opcodes 0xC0 to 0xD4 (Table 5.8). -/
def formServing (r : Raw) : Option Form :=
  let op := r.op
  let dab : Form := { streams := [.s], d := gR, a := gR, b := gR, fnOk := decide (r.fn = 0), modOk := decide (r.mod = 0), extOk := decide (r.ext = 0) }
  let ab : Form := { dab with d := .none }
  let aF : Form := { ab with b := .none }
  if op = 0xC0 then some { dab with b := qR }
  else if op = 0xC1 ∨ op = 0xC9 ∨ op = 0xCE then some dab
  else if op = 0xC3 then some { dab with b := .none, fnOk := decide (r.fn ≤ 3) }
  else if op = 0xC5 then some { ab with fnOk := decide (2 ≤ r.fn ∧ r.fn ≤ 8) }
  else if op = 0xC6 then some { dab with a := .none, b := .none }
  else if op = 0xC7 ∨ op = 0xC8 then some { aF with a := .none }
  else if op = 0xCF then some { aF with fnOk := decide (r.fn ≤ 2) }
  else if op = 0xC2 ∨ op = 0xC4 ∨ op = 0xCD ∨ op = 0xD2 ∨ op = 0xD4 then some ab
  else some aF

/-- The opcode map (R122, R134): no form for an unassigned opcode. -/
def form (c : DecodeCtx) (r : Raw) : Option Form :=
  if r.op ≤ 0x37 then formScalar r
  else if r.op < 0x40 then none
  else if r.op ≤ 0x5D then formSystem c r
  else if r.op < 0x60 then none
  else if r.op ≤ 0x92 then formVector r
  else if r.op < 0xA0 then none
  else if r.op ≤ 0xA7 then formTile r
  else if r.op < 0xB0 then none
  else if r.op ≤ 0xB8 then formTile r
  else if r.op < 0xC0 then none
  else if r.op ≤ 0xD4 then formServing r
  else none

/-- Whether a field names a register that the stream holds (row 10). -/
def Use.held (c : DecodeCtx) (n : Nat) : Use → Bool
  | .reg f => holds c f n
  | _ => true

/-- Whether an unused field is 0 (row 11). -/
def Use.zeroed (n : Nat) : Use → Bool
  | .none => n = 0
  | _ => true

/-- Row 11: every field the opcode does not use is 0 and fn, MOD and the extension bits hold assigned values (R118, R123). -/
def Form.valuesOk (f : Form) (r : Raw) : Bool :=
  f.d.zeroed r.d && f.a.zeroed r.a && f.fnOk && f.modOk && f.extOk &&
  match f.layout with
  | .r => f.b.zeroed r.b && f.c.zeroed r.c && (f.disp || decide (r.lit = 0))
  | .i => decide (r.len ≠ .w3) || (decide (r.b * 16 + r.fn = 0) && decide (r.c * 1024 + r.ext = 0))
  | .t => decide (r.b * 16 + r.fn = 0) && (decide (r.len ≠ .w3) || decide (r.c * 1024 + r.ext = 0))

/-- Whether TKSEND or TKWAIT, or a token field, names M or X in a pantry cell (R21, R129). -/
def Raw.namesMX (r : Raw) : Bool :=
  decide (2 ≤ r.wait) || decide (2 ≤ r.post) || (decide (r.op = 0x4E ∨ r.op = 0x4F) && decide (2 ≤ r.fn % 4))

/-- Rows 6 to 12 of Table 4.6, in order. -/
def Raw.check (c : DecodeCtx) (r : Raw) : Except DecodeTrap Unit :=
  match form c r with
  | none => .error .op
  | some f =>
    if r.len.words < f.min then .error .short
    else if !f.streams.contains c.stream || (c.pantry && decide (2 ≤ c.stream.code)) then .error .opcode
    else if c.pantry && r.namesMX then .error .token
    else if r.op = 0x5C ∧ c.user then .error .priv
    else if !(f.d.held c r.d && f.a.held c r.a && f.b.held c r.b && f.c.held c r.c && decide (r.guard < 48)
              && (!f.link || holds c .g 63)) then .error .reg
    else if !f.valuesOk r then .error .fn
    else if f.layout = .t ∧ r.targetField.2 % 16 = 15 then .error .target
    else .ok ()

/-- The code of a MovKind (ch. 5). -/
def MovKind.code : MovKind → Nat
  | .gg => 0
  | .qq => 1
  | .gl => 2
  | .lg => 3
  | .ge => 4
  | .eg => 5

/-- The MovKind of a code; codes past the last assigned one are rejected by `Raw.check` first. -/
def MovKind.ofCode : Nat → MovKind
  | 0 => .gg
  | 1 => .qq
  | 2 => .gl
  | 3 => .lg
  | 4 => .ge
  | _ => .eg

/-- The code of a Cond (ch. 5). -/
def Cond.code : Cond → Nat
  | .eq => 0
  | .ne => 1
  | .lt => 2
  | .le => 3
  | .gt => 4
  | .ge => 5
  | .ltu => 6
  | .leu => 7
  | .gtu => 8
  | .geu => 9
  | .tst => 10
  | .ntst => 11

/-- The Cond of a code; codes past the last assigned one are rejected by `Raw.check` first. -/
def Cond.ofCode : Nat → Cond
  | 0 => .eq
  | 1 => .ne
  | 2 => .lt
  | 3 => .le
  | 4 => .gt
  | 5 => .ge
  | 6 => .ltu
  | 7 => .leu
  | 8 => .gtu
  | 9 => .geu
  | 10 => .tst
  | _ => .ntst

/-- The code of a VCond (ch. 5). -/
def VCond.code : VCond → Nat
  | .eq => 0
  | .ne => 1
  | .lt => 2
  | .le => 3
  | .gt => 4
  | .ge => 5
  | .un => 6

/-- The VCond of a code; codes past the last assigned one are rejected by `Raw.check` first. -/
def VCond.ofCode : Nat → VCond
  | 0 => .eq
  | 1 => .ne
  | 2 => .lt
  | 3 => .le
  | 4 => .gt
  | 5 => .ge
  | _ => .un

/-- The code of a LoadSize (ch. 5). -/
def LoadSize.code : LoadSize → Nat
  | .b => 0
  | .bs => 1
  | .h => 2
  | .hs => 3
  | .w => 4
  | .ws => 5
  | .d => 6

/-- The LoadSize of a code; codes past the last assigned one are rejected by `Raw.check` first. -/
def LoadSize.ofCode : Nat → LoadSize
  | 0 => .b
  | 1 => .bs
  | 2 => .h
  | 3 => .hs
  | 4 => .w
  | 5 => .ws
  | _ => .d

/-- The code of a MemOrder (ch. 5). -/
def MemOrder.code : MemOrder → Nat
  | .natural => 0
  | .rlx => 1
  | .acq => 2
  | .rel => 3
  | .acqrel => 4
  | .sc => 5

/-- The MemOrder of a code; codes past the last assigned one are rejected by `Raw.check` first. -/
def MemOrder.ofCode : Nat → MemOrder
  | 0 => .natural
  | 1 => .rlx
  | 2 => .acq
  | 3 => .rel
  | 4 => .acqrel
  | _ => .sc

/-- The code of a Scope (ch. 5). -/
def Scope.code : Scope → Nat
  | .sys => 0
  | .pkg => 1
  | .die => 2
  | .clu => 3
  | .cell => 4

/-- The Scope of a code; codes past the last assigned one are rejected by `Raw.check` first. -/
def Scope.ofCode : Nat → Scope
  | 0 => .sys
  | 1 => .pkg
  | 2 => .die
  | 3 => .clu
  | _ => .cell

/-- The code of a BarScope (ch. 5). -/
def BarScope.code : BarScope → Nat
  | .team => 0
  | .die => 1
  | .package => 2

/-- The BarScope of a code; codes past the last assigned one are rejected by `Raw.check` first. -/
def BarScope.ofCode : Nat → BarScope
  | 0 => .team
  | 1 => .die
  | _ => .package

/-- The code of a Engine (ch. 5). -/
def Engine.code : Engine → Nat
  | .walker => 0
  | .collective => 1
  | .egress => 2
  | .siphon => 3

/-- The Engine of a code; codes past the last assigned one are rejected by `Raw.check` first. -/
def Engine.ofCode : Nat → Engine
  | 0 => .walker
  | 1 => .collective
  | 2 => .egress
  | _ => .siphon

/-- The code of a ElemType (ch. 5). -/
def ElemType.code : ElemType → Nat
  | .f32 => 0
  | .bf16 => 1
  | .f16 => 2
  | .f64 => 3
  | .i32 => 4
  | .u32 => 5
  | .i16 => 6
  | .u16 => 7
  | .i8 => 8
  | .u8 => 9

/-- The ElemType of a code; codes past the last assigned one are rejected by `Raw.check` first. -/
def ElemType.ofCode : Nat → ElemType
  | 0 => .f32
  | 1 => .bf16
  | 2 => .f16
  | 3 => .f64
  | 4 => .i32
  | 5 => .u32
  | 6 => .i16
  | 7 => .u16
  | 8 => .i8
  | _ => .u8

/-- The code of a Format (ch. 5). -/
def Format.code : Format → Nat
  | .fp32 => 0
  | .bf16 => 1
  | .fp16 => 2
  | .fp64 => 3
  | .int32 => 4
  | .uint32 => 5
  | .int16 => 6
  | .uint16 => 7
  | .int8 => 8
  | .uint8 => 9
  | .e5m2 => 10
  | .e4m3 => 11
  | .e3m2 => 12
  | .e2m3 => 13
  | .e2m1 => 14
  | .int4 => 15
  | .uint4 => 16
  | .a4 => 17

/-- The Format of a code; codes past the last assigned one are rejected by `Raw.check` first. -/
def Format.ofCode : Nat → Format
  | 0 => .fp32
  | 1 => .bf16
  | 2 => .fp16
  | 3 => .fp64
  | 4 => .int32
  | 5 => .uint32
  | 6 => .int16
  | 7 => .uint16
  | 8 => .int8
  | 9 => .uint8
  | 10 => .e5m2
  | 11 => .e4m3
  | 12 => .e3m2
  | 13 => .e2m3
  | 14 => .e2m1
  | 15 => .int4
  | 16 => .uint4
  | _ => .a4

/-- The code of a Rounding (ch. 5). -/
def Rounding.code : Rounding → Nat
  | .rne => 0
  | .rtz => 1
  | .rup => 2
  | .rdn => 3
  | .sto => 4

/-- The Rounding of a code; codes past the last assigned one are rejected by `Raw.check` first. -/
def Rounding.ofCode : Nat → Rounding
  | 0 => .rne
  | 1 => .rtz
  | 2 => .rup
  | 3 => .rdn
  | _ => .sto

/-- The code of a CvtSource (ch. 5). -/
def CvtSource.code : CvtSource → Nat
  | .asType => 0
  | .e5m2 => 1
  | .e4m3 => 2

/-- The CvtSource of a code; codes past the last assigned one are rejected by `Raw.check` first. -/
def CvtSource.ofCode : Nat → CvtSource
  | 0 => .asType
  | 1 => .e5m2
  | _ => .e4m3

/-- The code of a RedOp (ch. 5). -/
def RedOp.code : RedOp → Nat
  | .sum => 0
  | .min => 1
  | .max => 2

/-- The RedOp of a code; codes past the last assigned one are rejected by `Raw.check` first. -/
def RedOp.ofCode : Nat → RedOp
  | 0 => .sum
  | 1 => .min
  | _ => .max

/-- fn of a StoreSize (Table 5.5). -/
def StoreSize.code : StoreSize → Nat
  | .b => 0
  | .h => 2
  | .w => 4
  | .d => 6

/-- The StoreSize of fn. -/
def StoreSize.ofCode : Nat → StoreSize
  | 0 => .b
  | 2 => .h
  | 4 => .w
  | _ => .d

/-- fn of a AtomicSize (Table 5.5). -/
def AtomicSize.code : AtomicSize → Nat
  | .w => 4
  | .d => 6

/-- The AtomicSize of fn. -/
def AtomicSize.ofCode : Nat → AtomicSize
  | 4 => .w
  | _ => .d

/-- fn of a MinMaxSize (Table 5.5). -/
def MinMaxSize.code : MinMaxSize → Nat
  | .u32 => 4
  | .s32 => 5
  | .u64 => 6
  | .s64 => 7

/-- The MinMaxSize of fn. -/
def MinMaxSize.ofCode : Nat → MinMaxSize
  | 4 => .u32
  | 5 => .s32
  | 6 => .u64
  | _ => .s64

/-- Whether a V element type is a float (R131). -/
def ElemType.isFloat : ElemType → Bool
  | .f32 | .bf16 | .f16 | .f64 => true
  | _ => false

/-- The arithmetic mode that MOD selects for a type (Table 5.6). -/
def ArithMode.ofCode (ty : ElemType) (mod : Nat) : ArithMode :=
  if ty.isFloat then .round (Rounding.ofCode mod) else if mod = 0 then .wrap else .sat

/-- MOD of an arithmetic mode (Table 5.6). -/
def ArithMode.code : ArithMode → Nat
  | .round r => r.code
  | .wrap => 0
  | .sat => 1

/-- Whether a mode suits a type: a rounding for floats, wrap or saturate for integers (Table 5.6). -/
def ArithMode.suits (ty : ElemType) : ArithMode → Bool
  | .round _ => ty.isFloat
  | _ => !ty.isFloat

/-- The header fields as a stream reads them (R20). -/
def Raw.hdr (st : Stream) (r : Raw) : Hdr :=
  let tok (c : Nat) : Option Stream := if c = st.code then none else some (Stream.ofCode c)
  { len := r.len, guard := r.guard, sense := r.sense, wait := tok r.wait, post := tok r.post }

/-- The fields of an instruction that uses none beside its header's. -/
def Hdr.raw (st : Stream) (h : Hdr) (op : Nat) : Raw :=
  let tok (o : Option Stream) : Nat := (o.getD st).code
  { len := h.len, op := op, d := 0, a := 0, b := 0, fn := 0, guard := h.guard, sense := h.sense, wait := tok h.wait, post := tok h.post,
    mod := 0, c := 0, ext := 0, lit := 0 }

/-- Set the effective immediate (R115). -/
def Raw.setImm (r : Raw) (v : Nat) : Raw :=
  match r.len with
  | .w1 => { r with b := v / 16, fn := v % 16 }
  | .w2 => { r with b := v % 1024 / 16, fn := v % 16, c := v / 1024 / 1024, ext := v / 1024 % 1024 }
  | .w3 => { r with lit := v }

/-- Bits of the effective immediate at a length (R115). -/
def Len.immBits : Len → Nat
  | .w1 => 10
  | .w2 => 26
  | .w3 => 32

/-- A w-bit two's complement field holding an integer, if it fits. -/
def fieldOf (w : Nat) (i : Int) : Option Nat :=
  if -(2 ^ (w - 1) : Int) ≤ i ∧ i < 2 ^ (w - 1) then some (i % 2 ^ w).toNat else none

/-- Set a sign-extended immediate, if it fits the length (R115). -/
def Raw.withImm (r : Raw) (i : Int) : Option Raw := (fieldOf r.len.immBits i).map r.setImm

/-- Set a zero-extended immediate, if it fits the length. -/
def Raw.withImmZ (r : Raw) (n : Nat) : Option Raw := if n < 2 ^ r.len.immBits then some (r.setImm n) else none

/-- Set the target field (R108), if the target fits the length. -/
def Raw.withTarget (r : Raw) (t : Target) : Option Raw :=
  if t.word < 16 then
    match r.len with
    | .w1 => none
    | .w2 => (fieldOf 12 t.line).map fun l => { r with c := (l * 16 + t.word) / 1024, ext := (l * 16 + t.word) % 1024 }
    | .w3 => (fieldOf 28 t.line).map fun l => { r with lit := l * 16 + t.word }
  else none

/-- The target of a T-layout instruction (R108). -/
def Raw.target (r : Raw) : Target :=
  let f := r.targetField
  { line := signedOf f.1 (f.2 / 16), word := f.2 % 16 }

/-- The displacement of R124. -/
def Raw.dispOf (r : Raw) : Int :=
  match r.len with
  | .w1 => 0
  | .w2 => signedOf 10 r.ext
  | .w3 => signedOf 32 r.lit

/-- Set the displacement of R124, if it fits the length. -/
def Raw.withDisp (r : Raw) (i : Int) : Option Raw :=
  match r.len with
  | .w1 => if i = 0 then some r else none
  | .w2 => (fieldOf 10 i).map fun v => { r with ext := v }
  | .w3 => (fieldOf 32 i).map fun v => { r with lit := v }

/-- Set offset and width of BFX, BFXS and BFI (R163). -/
def Raw.withSrc (r : Raw) : FieldSrc → Option Raw
  | .regs b c => some { r with b := b, c := c, fn := 0 }
  | .imm off wid => some { r with b := off, ext := wid, fn := 1 }

/-- The instruction of opcode 0x0_ with given fields (Table 5.1). -/
def ofRaw0 (h : Hdr) (r : Raw) : Option Instr :=
  match r.op % 16 with
  | 0x0 => some (.nop h)
  | 0x1 => some (.add h r.d r.a r.b)
  | 0x2 => some (.addi h r.d r.a (signedOf r.imm.1 r.imm.2))
  | 0x3 => some (.sub h r.d r.a r.b)
  | 0x4 => some (.mul h r.d r.a r.b)
  | 0x5 => some (.mulhs h r.d r.a r.b)
  | 0x6 => some (.mulhu h r.d r.a r.b)
  | 0x7 => some (.divs h r.d r.a r.b)
  | 0x8 => some (.divu h r.d r.a r.b)
  | 0x9 => some (.rems h r.d r.a r.b)
  | 0xA => some (.remu h r.d r.a r.b)
  | 0xB => some (.and_ h r.d r.a r.b)
  | 0xC => some (.andi h r.d r.a (signedOf r.imm.1 r.imm.2))
  | 0xD => some (.or_ h r.d r.a r.b)
  | 0xE => some (.ori h r.d r.a (signedOf r.imm.1 r.imm.2))
  | 0xF => some (.xor_ h r.d r.a r.b)
  | _ => none

/-- The instruction of opcode 0x1_ with given fields (Table 5.1). -/
def ofRaw1 (h : Hdr) (r : Raw) : Option Instr :=
  match r.op % 16 with
  | 0x0 => some (.xori h r.d r.a (signedOf r.imm.1 r.imm.2))
  | 0x1 => some (.andn h r.d r.a r.b)
  | 0x2 => some (.shl h r.d r.a r.b)
  | 0x3 => some (.shli h r.d r.a r.imm.2)
  | 0x4 => some (.shr h r.d r.a r.b)
  | 0x5 => some (.shri h r.d r.a r.imm.2)
  | 0x6 => some (.sar h r.d r.a r.b)
  | 0x7 => some (.sari h r.d r.a r.imm.2)
  | 0x8 => some (.rol h r.d r.a r.b)
  | 0x9 => some (.ror h r.d r.a r.b)
  | 0xA => some (.clz h r.d r.a)
  | 0xB => some (.ctz h r.d r.a)
  | 0xC => some (.popc h r.d r.a)
  | 0xD => some (.brev h r.d r.a)
  | 0xE => some (.bfx h r.d r.a (if r.fn = 0 then .regs r.b r.c else .imm r.b r.ext))
  | 0xF => some (.bfxs h r.d r.a (if r.fn = 0 then .regs r.b r.c else .imm r.b r.ext))
  | _ => none

/-- The instruction of opcode 0x2_ with given fields (Table 5.1). -/
def ofRaw2 (h : Hdr) (r : Raw) : Option Instr :=
  match r.op % 16 with
  | 0x0 => some (.bfi h r.d r.a (if r.fn = 0 then .regs r.b r.c else .imm r.b r.ext))
  | 0x1 => some (.mins h r.d r.a r.b)
  | 0x2 => some (.minu h r.d r.a r.b)
  | 0x3 => some (.maxs h r.d r.a r.b)
  | 0x4 => some (.maxu h r.d r.a r.b)
  | 0x5 => some (.sel h r.d r.a r.b r.c)
  | 0x6 => some (.mov h r.d r.a (.ofCode r.fn))
  | 0x7 => some (.li h r.d (signedOf r.imm.1 r.imm.2))
  | 0x8 => some (.lih h r.d (signedOf r.imm.1 r.imm.2))
  | 0x9 => some (.lea h r.d r.a r.b r.fn)
  | 0xA => some (.cmp h r.d r.a r.b (.ofCode r.mod))
  | 0xB => some (.cmpi h r.d r.a (signedOf r.imm.1 r.imm.2) (.ofCode r.mod))
  | 0xC => some (.plog h r.d r.a r.b r.fn)
  | 0xD => some (.br h r.target)
  | 0xE => some (.jmpr h r.a)
  | 0xF => some (.call h r.target)
  | _ => none

/-- The instruction of opcode 0x3_ with given fields (Table 5.1). -/
def ofRaw3 (h : Hdr) (r : Raw) : Option Instr :=
  match r.op % 16 with
  | 0x0 => some (.callr h r.a)
  | 0x1 => some (.ret h r.a)
  | 0x2 => some (.loop h r.d r.target)
  | 0x3 => some (.cvta h r.d r.a r.fn)
  | 0x4 => some (.tspc h r.d r.a r.fn)
  | 0x5 => some (.mfs h r.d r.a)
  | 0x6 => some (.mts h r.d r.a)
  | 0x7 => some (.halt h)
  | _ => none

/-- The instruction of opcode 0x4_ with given fields (Table 5.1). -/
def ofRaw4 (h : Hdr) (r : Raw) : Option Instr :=
  match r.op % 16 with
  | 0x0 => some (.ld h r.d r.a r.b (.ofCode r.fn) r.dispOf)
  | 0x1 => some (.st h r.d r.a r.b (.ofCode r.fn) r.dispOf)
  | 0x2 => some (.lda h r.d r.a r.b (.ofCode r.fn) r.dispOf (.ofCode (r.mod / 5)) (.ofCode (r.mod % 5)))
  | 0x3 => some (.str h r.d r.a r.b (.ofCode r.fn) r.dispOf (.ofCode (r.mod / 5)) (.ofCode (r.mod % 5)))
  | 0x4 => some (.aadd h r.d r.a r.b (.ofCode r.fn) (.ofCode (r.mod / 5)) (.ofCode (r.mod % 5)))
  | 0x5 => some (.amin h r.d r.a r.b (.ofCode r.fn) (.ofCode (r.mod / 5)) (.ofCode (r.mod % 5)))
  | 0x6 => some (.amax h r.d r.a r.b (.ofCode r.fn) (.ofCode (r.mod / 5)) (.ofCode (r.mod % 5)))
  | 0x7 => some (.aand h r.d r.a r.b (.ofCode r.fn) (.ofCode (r.mod / 5)) (.ofCode (r.mod % 5)))
  | 0x8 => some (.aor h r.d r.a r.b (.ofCode r.fn) (.ofCode (r.mod / 5)) (.ofCode (r.mod % 5)))
  | 0x9 => some (.axor h r.d r.a r.b (.ofCode r.fn) (.ofCode (r.mod / 5)) (.ofCode (r.mod % 5)))
  | 0xA => some (.axchg h r.d r.a r.b (.ofCode r.fn) (.ofCode (r.mod / 5)) (.ofCode (r.mod % 5)))
  | 0xB => some (.acas h r.d r.a r.b r.c (.ofCode r.fn) (.ofCode (r.mod / 5)) (.ofCode (r.mod % 5)))
  | 0xC => some (.fence h (.ofCode (r.mod / 5)) (.ofCode (r.mod % 5)))
  | 0xD => some (.rfence h)
  | 0xE => some (.tksend h (.ofCode r.fn))
  | 0xF => some (.tkwait h (.ofCode r.fn))
  | _ => none

/-- The instruction of opcode 0x5_ with given fields (Table 5.1). -/
def ofRaw5 (h : Hdr) (r : Raw) : Option Instr :=
  match r.op % 16 with
  | 0x0 => some (.bara h (r.imm.2 % 16) (.ofCode (r.imm.2 / 16)))
  | 0x1 => some (.barw h (r.imm.2 % 16) (.ofCode (r.imm.2 / 16)))
  | 0x2 => some (if r.fn = 0 then .launch h r.d r.a r.b else .launchCont h r.d r.a r.b)
  | 0x3 => some (.join h r.a)
  | 0x4 => some (.cancel h r.d r.a (decide (r.fn / 8 = 1)) (r.fn % 8))
  | 0x5 => some (.cntrd h r.d r.a (decide (r.fn / 8 = 1)) (r.fn % 8))
  | 0x6 => some (.enq h r.a (.ofCode r.fn))
  | 0x7 => some (.deq h r.a (.ofCode r.fn))
  | 0x8 => some (.waitev h r.d r.a r.b (decide (r.fn / 8 = 1)) (r.fn % 8))
  | 0x9 => some (.gpos h r.a)
  | 0xA => some (.cslive h r.a r.b)
  | 0xB => some (.trap h r.imm.2)
  | 0xC => some (.eret h)
  | 0xD => some (.bkpt h r.imm.2)
  | _ => none

/-- The instruction of opcode 0x6_ with given fields (Table 5.1). -/
def ofRaw6 (h : Hdr) (r : Raw) : Option Instr :=
  match r.op % 16 with
  | 0x0 => some (.vadd h r.d r.a r.b (.ofCode r.fn) (.ofCode (.ofCode r.fn) r.mod))
  | 0x1 => some (.vsub h r.d r.a r.b (.ofCode r.fn) (.ofCode (.ofCode r.fn) r.mod))
  | 0x2 => some (.vmul h r.d r.a r.b (.ofCode r.fn) (.ofCode (.ofCode r.fn) r.mod))
  | 0x3 => some (.vfma h r.d r.a r.b (.ofCode r.fn) (.ofCode r.mod))
  | 0x4 => some (.vfms h r.d r.a r.b (.ofCode r.fn) (.ofCode r.mod))
  | 0x5 => some (.vmin h r.d r.a r.b (.ofCode r.fn))
  | 0x6 => some (.vmax h r.d r.a r.b (.ofCode r.fn))
  | 0x7 => some (.vabs h r.d r.a (.ofCode r.fn))
  | 0x8 => some (.vneg h r.d r.a (.ofCode r.fn))
  | 0x9 => some (.vcmp h r.d r.a r.b (.ofCode r.fn) (.ofCode r.mod))
  | 0xA => some (.vsel h r.d r.a r.b r.c (.ofCode r.fn))
  | 0xB => some (.vand h r.d r.a r.b (.ofCode r.fn))
  | 0xC => some (.vor h r.d r.a r.b (.ofCode r.fn))
  | 0xD => some (.vxor h r.d r.a r.b (.ofCode r.fn))
  | 0xE => some (.vnot h r.d r.a (.ofCode r.fn))
  | 0xF => some (.vshl h r.d r.a r.b (.ofCode r.fn))
  | _ => none

/-- The instruction of opcode 0x7_ with given fields (Table 5.1). -/
def ofRaw7 (h : Hdr) (r : Raw) : Option Instr :=
  match r.op % 16 with
  | 0x0 => some (.vshr h r.d r.a r.b (.ofCode r.fn))
  | 0x1 => some (.vsar h r.d r.a r.b (.ofCode r.fn))
  | 0x2 => some (.vcvt h r.d r.a (.ofCode r.fn) (.ofCode (r.ext / 32)) (.ofCode (r.ext % 32)) (.ofCode r.mod))
  | 0x3 => some (.vrcp h r.d r.a)
  | 0x4 => some (.vrsq h r.d r.a)
  | 0x5 => some (.vsqrt h r.d r.a)
  | 0x6 => some (.vdiv h r.d r.a r.b)
  | 0x7 => some (.vexp2 h r.d r.a)
  | 0x8 => some (.vlog2 h r.d r.a)
  | 0x9 => some (.vsin h r.d r.a)
  | 0xA => some (.vcos h r.d r.a)
  | 0xB => some (.vtanh h r.d r.a)
  | 0xC => some (.vred h r.d r.a (.ofCode r.fn) (.ofCode (r.mod / 8)) (.ofCode (r.mod % 8)))
  | 0xD => some (.vmaxi h r.d r.a r.b (.ofCode r.fn))
  | 0xE => some (.vscan h r.d r.a (.ofCode r.fn) (.ofCode (r.mod / 8)) (.ofCode (r.mod % 8)))
  | 0xF => some (.vperm h r.d r.a r.b (.ofCode r.fn))
  | _ => none

/-- The instruction of opcode 0x8_ with given fields (Table 5.1). -/
def ofRaw8 (h : Hdr) (r : Raw) : Option Instr :=
  match r.op % 16 with
  | 0x0 => some (.vbcast h r.d r.a (.ofCode r.fn))
  | 0x1 => some (.vrot h r.d r.a r.b (.ofCode r.fn))
  | 0x2 => some (.vld h r.d r.a r.b (.ofCode r.fn) r.dispOf)
  | 0x3 => some (.vst h r.d r.a r.b (.ofCode r.fn) r.dispOf)
  | 0x4 => some (.vlds h r.d r.a r.b (.ofCode r.fn))
  | 0x5 => some (.vsts h r.d r.a r.b (.ofCode r.fn))
  | 0x6 => some (.vins h r.d r.a r.b (.ofCode r.fn))
  | 0x7 => some (.vext h r.d r.a r.b (.ofCode r.fn))
  | 0x8 => some (.viota h r.d (.ofCode r.fn))
  | 0x9 => some (if r.fn = 0 then .vrngF32 h r.d r.a r.b else .vrngU32 h r.d r.a r.b)
  | 0xA => some (.mpush h r.a)
  | 0xB => some (.minv h)
  | 0xC => some (.mpop h)
  | 0xD => some (.vbrz h r.a r.target)
  | 0xE => some (.vheap h r.a r.b)
  | 0xF => some (.vheapr h r.d r.a)
  | _ => none

/-- The instruction of opcode 0x9_ with given fields (Table 5.1). -/
def ofRaw9 (h : Hdr) (r : Raw) : Option Instr :=
  match r.op % 16 with
  | 0x0 => some (.vheapc h)
  | 0x1 => some (.vpopc h r.d r.a (.ofCode r.fn))
  | 0x2 => some (.vmovm h r.d r.a (.ofCode r.fn) (decide (r.mod = 1)))
  | _ => none

/-- The instruction of opcode 0xA_ with given fields (Table 5.1). -/
def ofRawA (h : Hdr) (r : Raw) : Option Instr :=
  match r.op % 16 with
  | 0x0 => some (.mma h r.d r.a r.b)
  | 0x1 => some (.mmas h r.d r.a r.b)
  | 0x2 => some (.mzero h r.d)
  | 0x3 => some (.mlda h r.d r.a)
  | 0x4 => some (.msta h r.d r.a)
  | 0x5 => some (.mcvt h r.d r.a (decide (r.fn = 4)) (.ofCode r.ext) (.ofCode r.mod))
  | 0x6 => some (.mbias h r.d r.a)
  | 0x7 => some (.mprg h r.d r.fn)
  | _ => none

/-- The instruction of opcode 0xB_ with given fields (Table 5.1). -/
def ofRawB (h : Hdr) (r : Raw) : Option Instr :=
  match r.op % 16 with
  | 0x0 => some (.xmov h r.d r.a)
  | 0x1 => some (.xmovs h r.d r.a (.ofCode r.mod))
  | 0x2 => some (.xgath h r.d r.a r.b)
  | 0x3 => some (.xscat h r.d r.a r.b)
  | 0x4 => some (.xunpk h r.d r.a)
  | 0x5 => some (.xfill h r.d r.a)
  | 0x6 => some (.xhash h r.d r.a r.b)
  | 0x7 => some (.xapp h r.a r.b)
  | 0x8 => some (.xqry h r.d r.fn)
  | _ => none

/-- The instruction of opcode 0xC_ with given fields (Table 5.1). -/
def ofRawC (h : Hdr) (r : Raw) : Option Instr :=
  match r.op % 16 with
  | 0x0 => some (.sframe h r.d r.a r.b)
  | 0x1 => some (.scommit h r.d r.a r.b)
  | 0x2 => some (.strunc h r.a r.b)
  | 0x3 => some (.scur h r.d r.a r.fn)
  | 0x4 => some (.sckpt h r.a r.b)
  | 0x5 => some (.specb h r.a r.b r.fn)
  | 0x6 => some (.acmp h r.d)
  | 0x7 => some (.spece h)
  | 0x8 => some (.specx h)
  | 0x9 => some (.pfxq h r.d r.a r.b)
  | 0xA => some (.pfxi h r.a)
  | 0xB => some (.pfxpin h r.a)
  | 0xC => some (.pfxrel h r.a)
  | 0xD => some (.dqsend h r.a r.b)
  | 0xE => some (.dqrecv h r.d r.a r.b)
  | 0xF => some (.cred h r.a r.fn)
  | _ => none

/-- The instruction of opcode 0xD_ with given fields (Table 5.1). -/
def ofRawD (h : Hdr) (r : Raw) : Option Instr :=
  match r.op % 16 with
  | 0x0 => some (.cbcst h r.a)
  | 0x1 => some (.cgath h r.a)
  | 0x2 => some (.siphq h r.a r.b)
  | 0x3 => some (.segwt h r.a)
  | 0x4 => some (.maskw h r.a r.b)
  | _ => none

/-- The instruction that fields which pass `Raw.check` encode in a stream (ch. 5). -/
def ofRaw (st : Stream) (r : Raw) : Option Instr :=
  let h := r.hdr st
  match r.op / 16 with
  | 0x0 => ofRaw0 h r
  | 0x1 => ofRaw1 h r
  | 0x2 => ofRaw2 h r
  | 0x3 => ofRaw3 h r
  | 0x4 => ofRaw4 h r
  | 0x5 => ofRaw5 h r
  | 0x6 => ofRaw6 h r
  | 0x7 => ofRaw7 h r
  | 0x8 => ofRaw8 h r
  | 0x9 => ofRaw9 h r
  | 0xA => ofRawA h r
  | 0xB => ofRawB h r
  | 0xC => ofRawC h r
  | 0xD => ofRawD h r
  | _ => none

/-- The fields of an instruction in a stream, where its immediate, displacement or target fits its length; none for an event. -/
def toRaw (st : Stream) : Instr → Option Raw
  | .nop h => some (h.raw st 0x00)
  | .add h d a b => some { h.raw st 0x01 with d := d, a := a, b := b }
  | .addi h d a imm => Raw.withImm { h.raw st 0x02 with d := d, a := a } imm
  | .sub h d a b => some { h.raw st 0x03 with d := d, a := a, b := b }
  | .mul h d a b => some { h.raw st 0x04 with d := d, a := a, b := b }
  | .mulhs h d a b => some { h.raw st 0x05 with d := d, a := a, b := b }
  | .mulhu h d a b => some { h.raw st 0x06 with d := d, a := a, b := b }
  | .divs h d a b => some { h.raw st 0x07 with d := d, a := a, b := b }
  | .divu h d a b => some { h.raw st 0x08 with d := d, a := a, b := b }
  | .rems h d a b => some { h.raw st 0x09 with d := d, a := a, b := b }
  | .remu h d a b => some { h.raw st 0x0A with d := d, a := a, b := b }
  | .and_ h d a b => some { h.raw st 0x0B with d := d, a := a, b := b }
  | .andi h d a imm => Raw.withImm { h.raw st 0x0C with d := d, a := a } imm
  | .or_ h d a b => some { h.raw st 0x0D with d := d, a := a, b := b }
  | .ori h d a imm => Raw.withImm { h.raw st 0x0E with d := d, a := a } imm
  | .xor_ h d a b => some { h.raw st 0x0F with d := d, a := a, b := b }
  | .xori h d a imm => Raw.withImm { h.raw st 0x10 with d := d, a := a } imm
  | .andn h d a b => some { h.raw st 0x11 with d := d, a := a, b := b }
  | .shl h d a b => some { h.raw st 0x12 with d := d, a := a, b := b }
  | .shli h d a imm => Raw.withImmZ { h.raw st 0x13 with d := d, a := a } imm
  | .shr h d a b => some { h.raw st 0x14 with d := d, a := a, b := b }
  | .shri h d a imm => Raw.withImmZ { h.raw st 0x15 with d := d, a := a } imm
  | .sar h d a b => some { h.raw st 0x16 with d := d, a := a, b := b }
  | .sari h d a imm => Raw.withImmZ { h.raw st 0x17 with d := d, a := a } imm
  | .rol h d a b => some { h.raw st 0x18 with d := d, a := a, b := b }
  | .ror h d a b => some { h.raw st 0x19 with d := d, a := a, b := b }
  | .clz h d a => some { h.raw st 0x1A with d := d, a := a }
  | .ctz h d a => some { h.raw st 0x1B with d := d, a := a }
  | .popc h d a => some { h.raw st 0x1C with d := d, a := a }
  | .brev h d a => some { h.raw st 0x1D with d := d, a := a }
  | .bfx h d a src => Raw.withSrc { h.raw st 0x1E with d := d, a := a } src
  | .bfxs h d a src => Raw.withSrc { h.raw st 0x1F with d := d, a := a } src
  | .bfi h d a src => Raw.withSrc { h.raw st 0x20 with d := d, a := a } src
  | .mins h d a b => some { h.raw st 0x21 with d := d, a := a, b := b }
  | .minu h d a b => some { h.raw st 0x22 with d := d, a := a, b := b }
  | .maxs h d a b => some { h.raw st 0x23 with d := d, a := a, b := b }
  | .maxu h d a b => some { h.raw st 0x24 with d := d, a := a, b := b }
  | .sel h d a b c => some { h.raw st 0x25 with d := d, a := a, b := b, c := c }
  | .mov h d a k => some { h.raw st 0x26 with d := d, a := a, fn := k.code }
  | .li h d imm => Raw.withImm { h.raw st 0x27 with d := d } imm
  | .lih h d imm => Raw.withImm { h.raw st 0x28 with d := d } imm
  | .lea h d a b fn => some { h.raw st 0x29 with d := d, a := a, b := b, fn := fn }
  | .cmp h d a b cond => some { h.raw st 0x2A with d := d, a := a, b := b, mod := cond.code }
  | .cmpi h d a imm cond => Raw.withImm { h.raw st 0x2B with d := d, a := a, mod := cond.code } imm
  | .plog h d a b fn => some { h.raw st 0x2C with d := d, a := a, b := b, fn := fn }
  | .br h tgt => Raw.withTarget (h.raw st 0x2D) tgt
  | .jmpr h a => some { h.raw st 0x2E with a := a }
  | .call h tgt => Raw.withTarget (h.raw st 0x2F) tgt
  | .callr h a => some { h.raw st 0x30 with a := a }
  | .ret h a => some { h.raw st 0x31 with a := a }
  | .loop h d tgt => Raw.withTarget { h.raw st 0x32 with d := d } tgt
  | .cvta h d a fn => some { h.raw st 0x33 with d := d, a := a, fn := fn }
  | .tspc h d a fn => some { h.raw st 0x34 with d := d, a := a, fn := fn }
  | .mfs h d a => some { h.raw st 0x35 with d := d, a := a }
  | .mts h d a => some { h.raw st 0x36 with d := d, a := a }
  | .halt h => some (h.raw st 0x37)
  | .ld h d a b sz disp => Raw.withDisp { h.raw st 0x40 with d := d, a := a, b := b, fn := sz.code } disp
  | .st h d a b sz disp => Raw.withDisp { h.raw st 0x41 with d := d, a := a, b := b, fn := sz.code } disp
  | .lda h d a b sz disp ord scope => Raw.withDisp { h.raw st 0x42 with d := d, a := a, b := b, fn := sz.code, mod := 5 * ord.code + scope.code } disp
  | .str h d a b sz disp ord scope => Raw.withDisp { h.raw st 0x43 with d := d, a := a, b := b, fn := sz.code, mod := 5 * ord.code + scope.code } disp
  | .aadd h d a b sz ord scope => some { h.raw st 0x44 with d := d, a := a, b := b, fn := sz.code, mod := 5 * ord.code + scope.code }
  | .amin h d a b sz ord scope => some { h.raw st 0x45 with d := d, a := a, b := b, fn := sz.code, mod := 5 * ord.code + scope.code }
  | .amax h d a b sz ord scope => some { h.raw st 0x46 with d := d, a := a, b := b, fn := sz.code, mod := 5 * ord.code + scope.code }
  | .aand h d a b sz ord scope => some { h.raw st 0x47 with d := d, a := a, b := b, fn := sz.code, mod := 5 * ord.code + scope.code }
  | .aor h d a b sz ord scope => some { h.raw st 0x48 with d := d, a := a, b := b, fn := sz.code, mod := 5 * ord.code + scope.code }
  | .axor h d a b sz ord scope => some { h.raw st 0x49 with d := d, a := a, b := b, fn := sz.code, mod := 5 * ord.code + scope.code }
  | .axchg h d a b sz ord scope => some { h.raw st 0x4A with d := d, a := a, b := b, fn := sz.code, mod := 5 * ord.code + scope.code }
  | .acas h d a b c sz ord scope => some { h.raw st 0x4B with d := d, a := a, b := b, c := c, fn := sz.code, mod := 5 * ord.code + scope.code }
  | .fence h ord scope => some { h.raw st 0x4C with mod := 5 * ord.code + scope.code }
  | .rfence h => some (h.raw st 0x4D)
  | .tksend h dst => some { h.raw st 0x4E with fn := dst.code }
  | .tkwait h src => some { h.raw st 0x4F with fn := src.code }
  | .bara h n scope => if n < 16 then Raw.withImmZ (h.raw st 0x50) (n + 16 * scope.code) else none
  | .barw h n scope => if n < 16 then Raw.withImmZ (h.raw st 0x51) (n + 16 * scope.code) else none
  | .launch h d a b => some { h.raw st 0x52 with d := d, a := a, b := b }
  | .launchCont h d a b => some { h.raw st 0x52 with d := d, a := a, b := b, fn := 1 }
  | .join h a => some { h.raw st 0x53 with a := a }
  | .cancel h d a child level => if level < 8 then some { h.raw st 0x54 with d := d, a := a, fn := (if child then 8 else 0) + level } else none
  | .cntrd h d a child level => if level < 8 then some { h.raw st 0x55 with d := d, a := a, fn := (if child then 8 else 0) + level } else none
  | .enq h a eng => some { h.raw st 0x56 with a := a, fn := eng.code }
  | .deq h a eng => some { h.raw st 0x57 with a := a, fn := eng.code }
  | .waitev h d a b child level => if level < 8 then some { h.raw st 0x58 with d := d, a := a, b := b, fn := (if child then 8 else 0) + level } else none
  | .gpos h a => some { h.raw st 0x59 with a := a }
  | .cslive h a b => some { h.raw st 0x5A with a := a, b := b }
  | .trap h imm => Raw.withImmZ (h.raw st 0x5B) imm
  | .eret h => some (h.raw st 0x5C)
  | .bkpt h imm => Raw.withImmZ (h.raw st 0x5D) imm
  | .vadd h d a b ty mode => if mode.suits ty then some { h.raw st 0x60 with d := d, a := a, b := b, fn := ty.code, mod := mode.code } else none
  | .vsub h d a b ty mode => if mode.suits ty then some { h.raw st 0x61 with d := d, a := a, b := b, fn := ty.code, mod := mode.code } else none
  | .vmul h d a b ty mode => if mode.suits ty then some { h.raw st 0x62 with d := d, a := a, b := b, fn := ty.code, mod := mode.code } else none
  | .vfma h d a b ty rnd => some { h.raw st 0x63 with d := d, a := a, b := b, fn := ty.code, mod := rnd.code }
  | .vfms h d a b ty rnd => some { h.raw st 0x64 with d := d, a := a, b := b, fn := ty.code, mod := rnd.code }
  | .vmin h d a b ty => some { h.raw st 0x65 with d := d, a := a, b := b, fn := ty.code }
  | .vmax h d a b ty => some { h.raw st 0x66 with d := d, a := a, b := b, fn := ty.code }
  | .vabs h d a ty => some { h.raw st 0x67 with d := d, a := a, fn := ty.code }
  | .vneg h d a ty => some { h.raw st 0x68 with d := d, a := a, fn := ty.code }
  | .vcmp h d a b ty cond => some { h.raw st 0x69 with d := d, a := a, b := b, fn := ty.code, mod := cond.code }
  | .vsel h d a b c ty => some { h.raw st 0x6A with d := d, a := a, b := b, c := c, fn := ty.code }
  | .vand h d a b ty => some { h.raw st 0x6B with d := d, a := a, b := b, fn := ty.code }
  | .vor h d a b ty => some { h.raw st 0x6C with d := d, a := a, b := b, fn := ty.code }
  | .vxor h d a b ty => some { h.raw st 0x6D with d := d, a := a, b := b, fn := ty.code }
  | .vnot h d a ty => some { h.raw st 0x6E with d := d, a := a, fn := ty.code }
  | .vshl h d a b ty => some { h.raw st 0x6F with d := d, a := a, b := b, fn := ty.code }
  | .vshr h d a b ty => some { h.raw st 0x70 with d := d, a := a, b := b, fn := ty.code }
  | .vsar h d a b ty => some { h.raw st 0x71 with d := d, a := a, b := b, fn := ty.code }
  | .vcvt h d a ty src target rnd => some { h.raw st 0x72 with d := d, a := a, fn := ty.code, ext := src.code * 32 + target.code, mod := rnd.code }
  | .vrcp h d a => some { h.raw st 0x73 with d := d, a := a }
  | .vrsq h d a => some { h.raw st 0x74 with d := d, a := a }
  | .vsqrt h d a => some { h.raw st 0x75 with d := d, a := a }
  | .vdiv h d a b => some { h.raw st 0x76 with d := d, a := a, b := b }
  | .vexp2 h d a => some { h.raw st 0x77 with d := d, a := a }
  | .vlog2 h d a => some { h.raw st 0x78 with d := d, a := a }
  | .vsin h d a => some { h.raw st 0x79 with d := d, a := a }
  | .vcos h d a => some { h.raw st 0x7A with d := d, a := a }
  | .vtanh h d a => some { h.raw st 0x7B with d := d, a := a }
  | .vred h d a ty op rnd => some { h.raw st 0x7C with d := d, a := a, fn := ty.code, mod := 8 * op.code + rnd.code }
  | .vmaxi h d a b ty => some { h.raw st 0x7D with d := d, a := a, b := b, fn := ty.code }
  | .vscan h d a ty op rnd => some { h.raw st 0x7E with d := d, a := a, fn := ty.code, mod := 8 * op.code + rnd.code }
  | .vperm h d a b ty => some { h.raw st 0x7F with d := d, a := a, b := b, fn := ty.code }
  | .vbcast h d a ty => some { h.raw st 0x80 with d := d, a := a, fn := ty.code }
  | .vrot h d a b ty => some { h.raw st 0x81 with d := d, a := a, b := b, fn := ty.code }
  | .vld h d a b ty disp => Raw.withDisp { h.raw st 0x82 with d := d, a := a, b := b, fn := ty.code } disp
  | .vst h d a b ty disp => Raw.withDisp { h.raw st 0x83 with d := d, a := a, b := b, fn := ty.code } disp
  | .vlds h d a b ty => some { h.raw st 0x84 with d := d, a := a, b := b, fn := ty.code }
  | .vsts h d a b ty => some { h.raw st 0x85 with d := d, a := a, b := b, fn := ty.code }
  | .vins h d a b ty => some { h.raw st 0x86 with d := d, a := a, b := b, fn := ty.code }
  | .vext h d a b ty => some { h.raw st 0x87 with d := d, a := a, b := b, fn := ty.code }
  | .viota h d ty => some { h.raw st 0x88 with d := d, fn := ty.code }
  | .vrngF32 h d a b => some { h.raw st 0x89 with d := d, a := a, b := b }
  | .vrngU32 h d a b => some { h.raw st 0x89 with d := d, a := a, b := b, fn := 5 }
  | .mpush h a => some { h.raw st 0x8A with a := a }
  | .minv h => some (h.raw st 0x8B)
  | .mpop h => some (h.raw st 0x8C)
  | .vbrz h a tgt => Raw.withTarget { h.raw st 0x8D with a := a } tgt
  | .vheap h a b => some { h.raw st 0x8E with a := a, b := b }
  | .vheapr h d a => some { h.raw st 0x8F with d := d, a := a }
  | .vheapc h => some (h.raw st 0x90)
  | .vpopc h d a ty => some { h.raw st 0x91 with d := d, a := a, fn := ty.code }
  | .vmovm h d a ty exp => some { h.raw st 0x92 with d := d, a := a, fn := ty.code, mod := if exp then 1 else 0 }
  | .mma h d a b => some { h.raw st 0xA0 with d := d, a := a, b := b }
  | .mmas h d a b => some { h.raw st 0xA1 with d := d, a := a, b := b }
  | .mzero h d => some { h.raw st 0xA2 with d := d }
  | .mlda h d a => some { h.raw st 0xA3 with d := d, a := a }
  | .msta h d a => some { h.raw st 0xA4 with d := d, a := a }
  | .mcvt h d a i32 target rnd => some { h.raw st 0xA5 with d := d, a := a, fn := if i32 then 4 else 0, ext := target.code, mod := rnd.code }
  | .mbias h d a => some { h.raw st 0xA6 with d := d, a := a }
  | .mprg h d fn => some { h.raw st 0xA7 with d := d, fn := fn }
  | .xmov h d a => some { h.raw st 0xB0 with d := d, a := a }
  | .xmovs h d a rnd => some { h.raw st 0xB1 with d := d, a := a, mod := rnd.code }
  | .xgath h d a b => some { h.raw st 0xB2 with d := d, a := a, b := b }
  | .xscat h d a b => some { h.raw st 0xB3 with d := d, a := a, b := b }
  | .xunpk h d a => some { h.raw st 0xB4 with d := d, a := a }
  | .xfill h d a => some { h.raw st 0xB5 with d := d, a := a }
  | .xhash h d a b => some { h.raw st 0xB6 with d := d, a := a, b := b }
  | .xapp h a b => some { h.raw st 0xB7 with a := a, b := b }
  | .xqry h d fn => some { h.raw st 0xB8 with d := d, fn := fn }
  | .sframe h d a b => some { h.raw st 0xC0 with d := d, a := a, b := b }
  | .scommit h d a b => some { h.raw st 0xC1 with d := d, a := a, b := b }
  | .strunc h a b => some { h.raw st 0xC2 with a := a, b := b }
  | .scur h d a fn => some { h.raw st 0xC3 with d := d, a := a, fn := fn }
  | .sckpt h a b => some { h.raw st 0xC4 with a := a, b := b }
  | .specb h a b fn => some { h.raw st 0xC5 with a := a, b := b, fn := fn }
  | .acmp h d => some { h.raw st 0xC6 with d := d }
  | .spece h => some (h.raw st 0xC7)
  | .specx h => some (h.raw st 0xC8)
  | .pfxq h d a b => some { h.raw st 0xC9 with d := d, a := a, b := b }
  | .pfxi h a => some { h.raw st 0xCA with a := a }
  | .pfxpin h a => some { h.raw st 0xCB with a := a }
  | .pfxrel h a => some { h.raw st 0xCC with a := a }
  | .dqsend h a b => some { h.raw st 0xCD with a := a, b := b }
  | .dqrecv h d a b => some { h.raw st 0xCE with d := d, a := a, b := b }
  | .cred h a fn => some { h.raw st 0xCF with a := a, fn := fn }
  | .cbcst h a => some { h.raw st 0xD0 with a := a }
  | .cgath h a => some { h.raw st 0xD1 with a := a }
  | .siphq h a b => some { h.raw st 0xD2 with a := a, b := b }
  | .segwt h a => some { h.raw st 0xD3 with a := a }
  | .maskw h a b => some { h.raw st 0xD4 with a := a, b := b }
  | .vResultLand _ => none
  | .mRetire _ => none
  | .xCommandRetire _ => none
  | .asyncTrapTake _ => none
  | .parkRetry _ _ _ => none
  | .pageWalk _ _ _ _ => none
  | .walkerInvalidateRange _ _ => none
  | .walkerInvalidateHandle _ _ => none
  | .walkerInvalidateAll _ _ => none
  | .egressReply _ _ => none
  | .egressStreamSend _ _ => none
  | .collectiveReduce _ _ => none
  | .collectiveBroadcast _ _ => none
  | .collectiveGather _ _ => none
  | .collectiveComplete _ _ => none
  | .siphonQuery _ _ => none
  | .siphonUrge _ _ => none
  | .siphonFetch _ _ => none
  | .segmentCheck _ _ _ => none
  | .siphonSourceTimeout _ _ => none
  | .serviceRequestFrame _ _ => none
  | .streamInputFrame _ _ => none
  | .ladleBind _ => none
  | .boundaryTimeout _ => none
  | .sliceExpiry _ => none
  | .yieldTimeout _ => none
  | .ageExpiry _ => none
  | .deadlineExpiry _ => none
  | .rampWindow _ _ _ => none
  | .maskwDeadline _ => none
  | .queueNotify _ _ _ => none
  | .queueRemap _ => none
  | .ringWrite _ => none
  | .hostLinkDown => none
  | .hostLinkUp => none
  | .coldStart _ => none
  | .warmStart _ => none
  | .powerLoss => none
  | .partitionEnable _ => none
  | .partitionDisable _ => none
  | .schedWrite _ _ => none
  | .registerWrite _ _ _ _ => none
  | .walkerHostSubmit _ => none
  | .mailboxPfMessage _ => none
  | .mailboxPfResponse _ _ _ => none
  | .ptroot _ => none
  | .ptwrite _ => none
  | .keyload _ => none
  | .keyclr _ => none
  | .framekey _ => none
  | .rekey _ => none
  | .rekeyStatus _ => none
  | .attest _ => none
  | .sweepStep _ => none
  | .ideThresholdWrite _ _ => none
  | .ideThresholdReached _ _ => none
  | .ideSubstreamStop _ _ => none
  | .ideKeyRefresh _ _ => none
  | .cbwrite => none
  | .cbstate => none
  | .copy => none
  | .srcfg => none
  | .segreg => none
  | .segrel => none
  | .segchk => none
  | .port => none
  | .resetQueue _ => none
  | .resetMicrocontext _ => none
  | .resetEngine _ => none
  | .resetPartition _ => none
  | .resetDevice => none
  | .rungTimeout _ => none
  | .fenceCluster _ _ => none
  | .fenceStack _ _ => none
  | .idreadIdentityKey => none
  | .idreadKemKey => none
  | .idreadCertChain => none
  | .ringsCompletion => none
  | .ringsError => none
  | .peercfgLocal => none
  | .peercfgEntry => none
  | .fwstage => none
  | .fwswitchJalcen => none
  | .fwswitchLadle => none
  | .fwswitchLid => none
  | .jalcenSwitchPoint _ => none
  | .recal => none
  | .recalSlice _ _ => none
  | .migrate => none
  | .fwdend => none
  | .telemetryRefresh _ _ _ => none
  | .peerPacketReceive _ _ _ => none
  | .hello _ => none
  | .ack _ => none
  | .contrib _ => none
  | .segreq _ => none
  | .segdata _ => none
  | .segnone _ => none
  | .qentry _ => none
  | .mkey _ => none
  | .mcb _ => none
  | .mframe _ => none
  | .mstream _ => none
  | .mdone _ => none
  | .mabort _ => none
  | .fwd _ => none
  | .ackTimer _ => none
  | .retransmitTimeout _ _ => none
  | .helloTimer _ => none
  | .peerLoss _ => none
  | .peerRetryTimer _ => none
  | .ucieGroupTagFail _ => none
  | .ucieEpochRollover _ => none
  | .encodingTrap _ => none
  | .ethernetPortDown _ => none
  | .ethernetPortUp _ => none
  | .fatalError _ _ => none

end Sys2Proof
end

