-- ==== Sys2Proof/Machine/Header.lean ====
section
/-! DEFINITION. The header of an instruction term and its length in words. -/

namespace Sys2Proof

/-- Instruction words of an instruction (R112). -/
def Hdr.words (h : Hdr) : Nat := h.len.words

/-- The header of an instruction; none for an event. -/
def Instr.hdr : Instr → Option Hdr
  | .nop h => some h
  | .add h _ _ _ => some h
  | .addi h _ _ _ => some h
  | .sub h _ _ _ => some h
  | .mul h _ _ _ => some h
  | .mulhs h _ _ _ => some h
  | .mulhu h _ _ _ => some h
  | .divs h _ _ _ => some h
  | .divu h _ _ _ => some h
  | .rems h _ _ _ => some h
  | .remu h _ _ _ => some h
  | .and_ h _ _ _ => some h
  | .andi h _ _ _ => some h
  | .or_ h _ _ _ => some h
  | .ori h _ _ _ => some h
  | .xor_ h _ _ _ => some h
  | .xori h _ _ _ => some h
  | .andn h _ _ _ => some h
  | .shl h _ _ _ => some h
  | .shli h _ _ _ => some h
  | .shr h _ _ _ => some h
  | .shri h _ _ _ => some h
  | .sar h _ _ _ => some h
  | .sari h _ _ _ => some h
  | .rol h _ _ _ => some h
  | .ror h _ _ _ => some h
  | .clz h _ _ => some h
  | .ctz h _ _ => some h
  | .popc h _ _ => some h
  | .brev h _ _ => some h
  | .bfx h _ _ _ => some h
  | .bfxs h _ _ _ => some h
  | .bfi h _ _ _ => some h
  | .mins h _ _ _ => some h
  | .minu h _ _ _ => some h
  | .maxs h _ _ _ => some h
  | .maxu h _ _ _ => some h
  | .sel h _ _ _ _ => some h
  | .mov h _ _ _ => some h
  | .li h _ _ => some h
  | .lih h _ _ => some h
  | .lea h _ _ _ _ => some h
  | .cmp h _ _ _ _ => some h
  | .cmpi h _ _ _ _ => some h
  | .plog h _ _ _ _ => some h
  | .br h _ => some h
  | .jmpr h _ => some h
  | .call h _ => some h
  | .callr h _ => some h
  | .ret h _ => some h
  | .loop h _ _ => some h
  | .cvta h _ _ _ => some h
  | .tspc h _ _ _ => some h
  | .mfs h _ _ => some h
  | .mts h _ _ => some h
  | .halt h => some h
  | .ld h _ _ _ _ _ => some h
  | .st h _ _ _ _ _ => some h
  | .lda h _ _ _ _ _ _ _ => some h
  | .str h _ _ _ _ _ _ _ => some h
  | .aadd h _ _ _ _ _ _ => some h
  | .amin h _ _ _ _ _ _ => some h
  | .amax h _ _ _ _ _ _ => some h
  | .aand h _ _ _ _ _ _ => some h
  | .aor h _ _ _ _ _ _ => some h
  | .axor h _ _ _ _ _ _ => some h
  | .axchg h _ _ _ _ _ _ => some h
  | .acas h _ _ _ _ _ _ _ => some h
  | .fence h _ _ => some h
  | .rfence h => some h
  | .tksend h _ => some h
  | .tkwait h _ => some h
  | .bara h _ _ => some h
  | .barw h _ _ => some h
  | .launch h _ _ _ => some h
  | .launchCont h _ _ _ => some h
  | .join h _ => some h
  | .cancel h _ _ _ _ => some h
  | .cntrd h _ _ _ _ => some h
  | .enq h _ _ => some h
  | .deq h _ _ => some h
  | .waitev h _ _ _ _ _ => some h
  | .gpos h _ => some h
  | .cslive h _ _ => some h
  | .trap h _ => some h
  | .eret h => some h
  | .bkpt h _ => some h
  | .vadd h _ _ _ _ _ => some h
  | .vsub h _ _ _ _ _ => some h
  | .vmul h _ _ _ _ _ => some h
  | .vfma h _ _ _ _ _ => some h
  | .vfms h _ _ _ _ _ => some h
  | .vmin h _ _ _ _ => some h
  | .vmax h _ _ _ _ => some h
  | .vabs h _ _ _ => some h
  | .vneg h _ _ _ => some h
  | .vcmp h _ _ _ _ _ => some h
  | .vsel h _ _ _ _ _ => some h
  | .vand h _ _ _ _ => some h
  | .vor h _ _ _ _ => some h
  | .vxor h _ _ _ _ => some h
  | .vnot h _ _ _ => some h
  | .vshl h _ _ _ _ => some h
  | .vshr h _ _ _ _ => some h
  | .vsar h _ _ _ _ => some h
  | .vcvt h _ _ _ _ _ _ => some h
  | .vrcp h _ _ => some h
  | .vrsq h _ _ => some h
  | .vsqrt h _ _ => some h
  | .vdiv h _ _ _ => some h
  | .vexp2 h _ _ => some h
  | .vlog2 h _ _ => some h
  | .vsin h _ _ => some h
  | .vcos h _ _ => some h
  | .vtanh h _ _ => some h
  | .vred h _ _ _ _ _ => some h
  | .vmaxi h _ _ _ _ => some h
  | .vscan h _ _ _ _ _ => some h
  | .vperm h _ _ _ _ => some h
  | .vbcast h _ _ _ => some h
  | .vrot h _ _ _ _ => some h
  | .vld h _ _ _ _ _ => some h
  | .vst h _ _ _ _ _ => some h
  | .vlds h _ _ _ _ => some h
  | .vsts h _ _ _ _ => some h
  | .vins h _ _ _ _ => some h
  | .vext h _ _ _ _ => some h
  | .viota h _ _ => some h
  | .vrngF32 h _ _ _ => some h
  | .vrngU32 h _ _ _ => some h
  | .mpush h _ => some h
  | .minv h => some h
  | .mpop h => some h
  | .vbrz h _ _ => some h
  | .vheap h _ _ => some h
  | .vheapr h _ _ => some h
  | .vheapc h => some h
  | .vpopc h _ _ _ => some h
  | .vmovm h _ _ _ _ => some h
  | .mma h _ _ _ => some h
  | .mmas h _ _ _ => some h
  | .mzero h _ => some h
  | .mlda h _ _ => some h
  | .msta h _ _ => some h
  | .mcvt h _ _ _ _ _ => some h
  | .mbias h _ _ => some h
  | .mprg h _ _ => some h
  | .xmov h _ _ => some h
  | .xmovs h _ _ _ => some h
  | .xgath h _ _ _ => some h
  | .xscat h _ _ _ => some h
  | .xunpk h _ _ => some h
  | .xfill h _ _ => some h
  | .xhash h _ _ _ => some h
  | .xapp h _ _ => some h
  | .xqry h _ _ => some h
  | .sframe h _ _ _ => some h
  | .scommit h _ _ _ => some h
  | .strunc h _ _ => some h
  | .scur h _ _ _ => some h
  | .sckpt h _ _ => some h
  | .specb h _ _ _ => some h
  | .acmp h _ => some h
  | .spece h => some h
  | .specx h => some h
  | .pfxq h _ _ _ => some h
  | .pfxi h _ => some h
  | .pfxpin h _ => some h
  | .pfxrel h _ => some h
  | .dqsend h _ _ => some h
  | .dqrecv h _ _ _ => some h
  | .cred h _ _ => some h
  | .cbcst h _ => some h
  | .cgath h _ => some h
  | .siphq h _ _ => some h
  | .segwt h _ => some h
  | .maskw h _ _ => some h
  | _ => none

end Sys2Proof
end

