-- ==== Sys2Proof/WellFormed.lean ====
section
/-! DEFINITION. Which instruction terms are well formed: those whose fields fit their encoding at their length and pass rows 6
to 12 of Table 4.6 in their stream, cell and mode (R120); and which event terms name parts that the machine has. -/

namespace Sys2Proof

/-- Whether every field fits its place in the words (Tables 4.3, 4.4), and the words an instruction lacks are the defaults of
R116: a 32-bit form has the default word 1, and only a 96-bit form has a literal. -/
def Raw.fits (c : DecodeCtx) (r : Raw) : Bool :=
  decide (r.op < 256) && decide (r.d < 64) && decide (r.a < 64) && decide (r.b < 64) && decide (r.fn < 16) &&
  decide (r.guard < 64) && decide (r.wait < 4) && decide (r.post < 4) && decide (r.mod < 32) && decide (r.c < 64) &&
  decide (r.ext < 1024) && decide (r.lit < 2 ^ 32) &&
  (decide (r.len ≠ .w1) || (decide (r.guard = 0) && !r.sense && decide (r.wait = c.stream.code) && decide (r.post = c.stream.code) &&
    decide (r.mod = 0) && decide (r.c = 0) && decide (r.ext = 0))) &&
  (decide (r.len = .w3) || decide (r.lit = 0))

/-- A stream never names itself in a wait or a post: that encoding means none (R20). -/
def Hdr.foreign (st : Stream) (h : Hdr) : Bool := decide (h.wait ≠ some st) && decide (h.post ≠ some st)

/-- Whether a result of a check is `ok`. -/
def Except.isOkay {ε α : Type} : Except ε α → Bool
  | .ok _ => true
  | .error _ => false

/-- Cells that exist: 512 compute cells and 32 pantry cells (R13). -/
def SlotId.exists_ (u : SlotId) : Bool := decide (u.cell < 544)

/-- Whether the parts an event names exist (Table 1.1, R356, R393 to R399, R415). Instructions name none. -/
def Instr.partsExist : Instr → Bool
  | .vResultLand u | .mRetire u | .xCommandRetire u | .asyncTrapTake u | .maskwDeadline u => u.exists_
  | .parkRetry u _ k => u.exists_ && decide (k < 16)
  | .pageWalk u _ _ _ => u.exists_
  | .walkerInvalidateRange die _ | .walkerInvalidateHandle die _ | .walkerInvalidateAll die _ | .egressReply die _ => decide (die < 4)
  | .egressStreamSend rec _ => decide (rec < 4096)
  | .collectiveReduce die _ | .collectiveBroadcast die _ | .collectiveGather die _ | .siphonQuery die _ | .siphonUrge die _ => decide (die < 4)
  | .siphonFetch die _ | .segmentCheck die _ _ | .siphonSourceTimeout die _ => decide (die < 4)
  | .serviceRequestFrame pt _ | .streamInputFrame pt _ => decide (pt < 8)
  | .ethernetPortDown pt | .ethernetPortUp pt => decide (pt < 8)
  | .peerPacketReceive pt _ _ => decide (pt < 8)
  | .ladleBind die | .ringWrite die | .telemetryRefresh die _ _ | .jalcenSwitchPoint die | .recalSlice die _ => decide (die < 4)
  | .rampWindow die _ _ => decide (die < 4)
  | .sliceExpiry cell | .yieldTimeout cell => decide (cell < 544)
  | .ageExpiry h | .queueRemap h | .resetQueue h => decide (h < 4096)
  | .partitionEnable p | .partitionDisable p | .schedWrite p _ | .resetPartition p => decide (p < 16)
  | .resetMicrocontext t => decide (t % 65536 < 4096) && decide (t < 131072)
  | .fenceCluster die cluster => decide (die < 4) && decide (cluster < 16)
  | .fenceStack die stack => decide (die < 4) && decide (stack < 4)
  | .ucieGroupTagFail link | .ucieEpochRollover link => decide (link < 8)
  | .fatalError die cluster => decide (die < 4) && decide (cluster < 16)
  | _ => true

/-- Whether an instruction or event is well formed in a decoding context. -/
def WellFormed (c : DecodeCtx) (i : Instr) : Bool :=
  match toRaw c.stream i with
  | some r => r.fits c && (match i.hdr with | some h => h.foreign c.stream | none => false) && Except.isOkay (r.check c)
  | none => i.hdr.isNone && i.partsExist

end Sys2Proof
end

