-- ==== Sys2Proof/Decode.lean ====
section
/-! DEFINITION. The decoder, from the instruction words that follow a place in a line to an instruction or to the encoding trap of
rows 4 to 12 of Table 4.6, and the encoder of well-formed instructions. -/

namespace Sys2Proof

/-- The length that bits [31:30] of the first word give (R112). -/
def Len.ofCode : Nat → Option Len
  | 0 => some .w1
  | 2 => some .w2
  | 3 => some .w3
  | _ => none

/-- The code of a length in bits [31:30] (R112). -/
def Len.code : Len → Nat
  | .w1 => 0
  | .w2 => 2
  | .w3 => 3

/-- The default word 1 of a stream (Table 4.5): its own code in WAIT and in POST. -/
def Stream.defaultWord1 (st : Stream) : Nat := st.code * 2 ^ 23 + st.code * 2 ^ 21

/-- The fields of word 0, word 1 and the literal (Tables 4.3 and 4.4). -/
def unpack (len : Len) (w0 w1 lit : Nat) : Raw :=
  { len := len
    op := bitsOf w0 22 8
    d := bitsOf w0 16 6
    a := bitsOf w0 10 6
    b := bitsOf w0 4 6
    fn := bitsOf w0 0 4
    guard := bitsOf w1 26 6
    sense := bitOf w1 25
    wait := bitsOf w1 23 2
    post := bitsOf w1 21 2
    mod := bitsOf w1 16 5
    c := bitsOf w1 10 6
    ext := bitsOf w1 0 10
    lit := lit }

/-- The fields of the instruction at the head of the words in use (rows 4 and 5 of Table 4.6): a 32-bit form has the default
word 1 (R116). -/
def fetchRaw (st : Stream) (words : List Nat) : Except DecodeTrap Raw :=
  let w0 := words.getD 0 0
  match Len.ofCode (bitsOf w0 30 2) with
  | none => .error .len
  | some len =>
    if words.length < len.words then .error .spill
    else
      let w1 := match len with
        | .w1 => st.defaultWord1
        | _ => words.getD 1 0
      let lit := match len with
        | .w3 => words.getD 2 0
        | _ => 0
      .ok (unpack len w0 w1 lit)

/-- The instruction at the head of the words from a place in a line up to its COUNT, for a stream in a cell and a mode; or the
trap of the first failing row of Table 4.6 (R120, R121). -/
def decode (c : DecodeCtx) (words : List Nat) : Except DecodeTrap Instr :=
  match fetchRaw c.stream words with
  | .error t => .error t
  | .ok r =>
    match r.check c with
    | .error t => .error t
    | .ok () =>
      match ofRaw c.stream r with
      | some i => .ok i
      | none => .error .op

/-- Words 0 and 1 and the literal that hold given fields (Tables 4.3 and 4.4). -/
def pack (r : Raw) : List Nat :=
  let w0 := r.len.code * 2 ^ 30 + r.op * 2 ^ 22 + r.d * 2 ^ 16 + r.a * 2 ^ 10 + r.b * 2 ^ 4 + r.fn
  let w1 := r.guard * 2 ^ 26 + bit01 r.sense * 2 ^ 25 + r.wait * 2 ^ 23 + r.post * 2 ^ 21 + r.mod * 2 ^ 16 + r.c * 2 ^ 10 + r.ext
  match r.len with
  | .w1 => [w0]
  | .w2 => [w0, w1]
  | .w3 => [w0, w1, r.lit]

/-- The words of an instruction in a stream; none for an event or for operands that no encoding holds. -/
def encode (st : Stream) (i : Instr) : List Nat :=
  match toRaw st i with
  | some r => pack r
  | none => []

/-- The first stream in the order S, V, M, X whose decoder, in supervisor mode, takes the words. -/
def decodeAny (words : List Nat) : List Stream → Option (Stream × Instr)
  | [] => none
  | st :: t =>
    match decode { stream := st, pantry := false, user := false } words with
    | .ok i => some (st, i)
    | .error _ => decodeAny words t

/-- The words of an instruction whose bits are numbered with the first word lowest; the words above `nbits` are 0. -/
def tableWords (nbits w : Nat) : List Nat :=
  let v := w % 2 ^ nbits
  [bitsOf v 0 32, bitsOf v 32 32, bitsOf v 64 32]

/-- The instruction that the decoder of the first stream in S, V, M, X order that takes it reads from a table word. The three words are
always offered; the length code of the first word says how many of them the instruction has, and of a 32-bit form the other two are not
read. -/
def decodeTableWord (nbits w : Nat) : Option Instr :=
  (decodeAny (tableWords nbits w) allStreams).map (·.2)

end Sys2Proof
end

