-- ==== Sys2Proof/Machine/Sparse.lean ====
section
/-! DEFINITION. Maps from numbers as sorted lists. A map with a default lists no entry equal to the default, so equal maps are
equal data; a partial map lists the keys it holds. Registers, stores and tables of the machine are held this way. -/

namespace Sys2Proof

/-- A map from numbers, as a list sorted by key. -/
abbrev Map (α : Type) := List (Nat × α)

/-- The value a key holds in a partial map. -/
def Map.find {α : Type} (m : Map α) (k : Nat) : Option α :=
  match m with
  | [] => none
  | (j, v) :: t => if j = k then some v else Map.find t k

/-- The map with a key removed. -/
def Map.drop {α : Type} (m : Map α) (k : Nat) : Map α := m.filter (fun e => decide (e.1 ≠ k))

/-- The map with a key set. -/
def Map.set {α : Type} (m : Map α) (k : Nat) (v : α) : Map α :=
  match m with
  | [] => [(k, v)]
  | (j, w) :: t => if k < j then (k, v) :: (j, w) :: t else if k = j then (k, v) :: t else (j, w) :: Map.set t k v

/-- The value of a key in a map with a default. -/
def Map.get {α : Type} (d : α) (m : Map α) (k : Nat) : α := (Map.find m k).getD d

/-- The map with a default with a key set: a value equal to the default is not listed. -/
def Map.put {α : Type} [DecidableEq α] (d : α) (m : Map α) (k : Nat) (v : α) : Map α :=
  if v = d then Map.drop m k else Map.set m k v

/-- Keys strictly rising, above a bound. -/
def Map.sortedFrom {α : Type} (lo : Nat) : Map α → Bool
  | [] => true
  | (k, _) :: t => decide (lo ≤ k) && Map.sortedFrom (k + 1) t

/-- The canonical form of a map with a default: keys strictly rising and no entry equal to the default. -/
def Map.canon {α : Type} [DecidableEq α] (d : α) (m : Map α) : Bool :=
  Map.sortedFrom 0 m && m.all (fun e => decide (e.2 ≠ d))

/-- The map with the value of one key changed, if it holds one. -/
def Map.alter {α : Type} (m : Map α) (k : Nat) (f : α → α) : Map α :=
  match Map.find m k with
  | some v => Map.set m k (f v)
  | none => m

/-- The values of a map, by rising key. -/
def Map.vals {α : Type} (m : Map α) : List α := m.map (·.2)

/-- The first number from `i` on, of n tried, that a map does not hold. -/
def Map.firstFree {α : Type} (m : Map α) (i : Nat) : Nat → Option Nat
  | 0 => none
  | n + 1 => if (Map.find m i).isNone then some i else Map.firstFree m (i + 1) n

end Sys2Proof
end

