-- ==== Sys2Proof/Machine/State.lean ====
section
/-! DEFINITION. The state of the module as plain data, part by part: what an inventory line calls a piece of state is a field here.
`agenda` lists what the outside world and the order of events do next; with an empty agenda the stream that `cur` names moves. -/

namespace Sys2Proof.Machine

/-- A stream of a context slot (R16, R31). -/
structure Cursor where
  slot : SlotId
  stream : Stream
  deriving DecidableEq, Repr

/-- A code line as a stream read it (R103, R110): its virtual address and its 64 bytes, little-endian. -/
structure Line where
  va : Nat
  data : BitVec 512
  deriving DecidableEq, Repr

/-- How a stream stands to the line of its pc. -/
inductive Entry where
  /-- the stream has entered the line and holds it -/
  | inLine
  /-- the stream leaves the line at `src` by its link, having met `empties` empty lines in a row (R105, R106) -/
  | fall (src : Nat) (empties : Nat)
  /-- the stream resumes or returns at its pc: the line is read afresh (R110) -/
  | fresh
  /-- the stream starts at its entry word (R18), with a line read afresh -/
  | start
  deriving DecidableEq, Repr

/-- What a stream waits for (R38, R208, R263). -/
inductive WaitOn where
  | token (src : Stream)
  | room (dst : Stream)
  | results
  | commands
  | earlier
  | barrier
  | counter
  | engine
  | segment (frame : Nat)
  | frame
  | queue
  | collective
  | mask
  | window
  /-- the host link: a sub-stream that carries its packets has stopped (R410) -/
  | link
  deriving DecidableEq, Repr

/-- A wait and the cycle at which it began. -/
structure Waiting where
  on : WaitOn
  since : Nat
  deriving DecidableEq, Repr

/-- An entry of a translation buffer (R55): one page of a handle with its leaf entry. -/
structure BufferEntry where
  handle : Nat
  va : Nat
  size : Nat
  leaf : Nat
  deriving DecidableEq, Repr

/-- A cause, its subcode and TVAL (R309, R310). -/
structure TrapInfo where
  cause : Nat
  sub : Nat
  tval : Word
  deriving DecidableEq, Repr

/-- What a stream has met reading a line early (R110): the line, or the trap of the read, which is raised only as the stream enters the line
at that address. -/
inductive Ahead where
  | line (l : Line)
  | fault (va : Nat) (t : TrapInfo)
  deriving DecidableEq, Repr

/-- One stream of a slot (R16, R25): program counter, line, halt state, mode (R313), retired sequence number (R317), register
files, and its first-level translation buffer (R55). `vq` holds the 128-bit predicates of V. -/
structure StreamSt where
  pc : Nat
  entry : Entry
  line : Line
  ahead : List Ahead
  halted : Bool
  notStarted : Bool
  sup : Bool
  retired : Word
  g : Map Word
  q : Map Bool
  vq : Map Mask
  l : Map (BitVec 32)
  e : Map Word
  waiting : Option Waiting
  buffer : List BufferEntry
  deriving DecidableEq, Repr

/-- What a V result in flight does at its landing, with the KIND codes 0 to 6 of R320. -/
inductive VKind where
  | vreg
  | greg
  | qreg
  | store
  | load
  | heapPair
  | bare
  deriving DecidableEq, Repr

/-- A V result in flight (R210, R320): `offset` is the number of beats that remain, `reads` the v registers read at issue (R296),
which a record does not keep. -/
structure VEntry where
  kind : VKind
  data : Row
  data2 : Row
  dest : Nat
  dest2 : Nat
  offset : Nat
  post : Option Stream
  width : Nat
  stoinc : Bool
  flags : BitVec 8
  addr : Word
  stride : Word
  mask : Mask
  reads : BitVec 64
  deriving DecidableEq, Repr

/-- The M instruction in progress (R242): the instruction, the 64-byte records it took, its position, the number of its steps, and the
rows in which it has consumed an uncorrectable error, for which it will report POISON (R246). -/
structure MInFlight where
  instr : Instr
  recA : BitVec 512
  recB : BitVec 512
  step : Nat
  row : Nat
  total : Nat
  wait : Option Stream
  post : Option Stream
  poisoned : BitVec 32
  deriving DecidableEq, Repr

/-- An X command in flight (R251, R321): its words, code address and resume cursor, the operand values read at issue, the records it took
for its d, a and b operands, the number of its driving elements (R252), whether it must take its records afresh (R253), the fault that it
raises at the head of the queue (R253), the frame on which it is parked (R61), and whether it is void: its guard was false, so that it does
nothing but retire in its place, where its post is made (R20). -/
structure XCommand where
  instr : Instr
  words : List Nat
  pc : Nat
  cursor : Nat
  opD : Word
  opA : Word
  opB : Word
  recD : BitVec 512
  recA : BitVec 512
  recB : BitVec 512
  total : Nat
  post : Option Stream
  fresh : Bool
  fault : Option TrapInfo
  parked : Option Nat
  void : Bool
  deriving DecidableEq, Repr

/-- An append that XAPP has made in a window (R258, R277): the record, the region, the index of its entry, and its iteration. -/
structure Append where
  record : Nat
  region : Nat
  index : Nat
  iteration : Nat
  deriving DecidableEq, Repr

/-- The speculative window of a slot (R273, R274): `cause` is the cause of the first deferred fault, `at_` the address of SPECB, `id` a
number of its own by which delivery entries are tagged (R269), `app0` and `app1` how many appends regions 0 and 1 have had since SPECB
(R277), and `appends` which. -/
structure Window where
  id : Nat
  block : Word
  w : Nat
  i : Nat
  verdict : Bool
  carryPending : Bool
  faulted : BitVec 8
  cause : Nat
  accepted : Nat
  acmpAt : Nat
  acmpD : Nat
  body : Nat
  at_ : Nat
  pcV : Nat
  pcM : Nat
  pcX : Nat
  handle : Option Nat
  len0 : Nat
  len1 : Nat
  app0 : Nat
  app1 : Nat
  appends : List Append
  deriving DecidableEq, Repr

/-- A unit of a launch by its TEAM.INDEX (R35). -/
structure UnitRef where
  launch : Nat
  index : Nat
  deriving DecidableEq, Repr

/-- What a bind installs in a slot (R342): the unit, its micro-context, home die, partition and protection (Tables 1.8, 1.9), the
tile group (Table 1.7), the translation root (R51), the key slot and the die-store windows (R44), as base and size in granules. -/
structure Binding where
  unit : UnitRef
  handle : Nat
  home : Nat
  part : Nat
  prot : Bool
  base : Nat
  size : Nat
  root : Nat
  keySlot : Nat
  windows : List (Nat × Nat)
  area : Nat
  boundAt : Nat
  deriving DecidableEq, Repr

/-- The special registers that a slot stores (Table 1.5): VSTAT flags (Table 9.1), MPROG (Table 10.2), CSLIVE (Table 8.6), PRIO
(Table 1.10), TVEC, TCAUSE, TVAL, TSAVE (R310 to R318) and the per-slot bits of AOWN (Table 13.5). -/
structure Specials where
  vflags : BitVec 8
  mprog : Word
  cslive : Word
  level : Nat
  ceil : Nat
  tvec : Word
  tcause : Word
  tval : Word
  tsave : Word
  img0 : Bool
  img1 : Bool
  deriving DecidableEq, Repr

/-- A trap handler that runs on a slot (R312 to R315): whether it is the firmware, the mode of S recorded for the trap, the cycle in which
S entered it, and how many instructions S had retired then. -/
structure Handler where
  firmware : Bool
  sMode : Bool
  since : Nat
  retired : Word
  deriving DecidableEq, Repr

/-- The submission that CRED, CBCST or CGATH records (R263): its address and the identity of its command. -/
structure Submission where
  pc : Nat
  id : Nat
  deriving DecidableEq, Repr

/-- The footprint in the own cell store of an S instruction that has issued and not yet retired (Table 12.4), as first byte, length and
whether it writes; `awaited` is the g register that a load is still to write, beside which later instructions of S may issue (R181). -/
structure SFootprint where
  awaited : Option Nat
  spans : List (Nat × Nat × Bool)
  deriving DecidableEq, Repr

/-- A context slot (R31): the four streams, token FIFOs keyed 4 × producer + consumer (R19), V results in flight, the M instruction and X
commands in flight, the mask stack (top first), the Colander heap (greatest first) with HLOSS and the entries popped since VHEAPC (R232,
R234), the speculative window, the attached record, special registers, the handler that runs, pending CANCEL and DEADLINE (R311), and the v
registers of a pantry slot (R15). `mpoison` holds the rows in which the tile instruction whose position MPROG holds has consumed an
uncorrectable error (R246), `sspans` the footprints of the S accesses that have not retired, oldest first, and `forced` says that a forced
pre-emption waits for the return of the firmware's handler (R327). `lastTrap` and `cancelOrder` are order stamps of the last trap taken and
of the CANCEL taken (R438), and `beside` says that its unit bound beside one of another micro-context, so that its first activation zeroes
its window (R42). -/
structure Slot where
  bound : Option Binding
  s : StreamSt
  v : StreamSt
  m : StreamSt
  x : StreamSt
  fifo : Map Nat
  vflight : List VEntry
  mflight : Option MInFlight
  xqueue : List XCommand
  mstack : List Mask
  heap : List (BitVec 32 × BitVec 32)
  hloss : Bool
  hpopped : Nat
  vrows : Map Row
  sr : Specials
  attached : Option Nat
  window : Option Window
  handler : Option Handler
  submitted : Option Submission
  cancel : Bool
  tookCancel : Bool
  deadline : Bool
  activated : Bool
  mpoison : BitVec 32
  sspans : List SFootprint
  forced : Bool
  lastTrap : Nat
  cancelOrder : Nat
  beside : Bool
  deriving DecidableEq, Repr

/-- An accumulator tile (R28, R239, R330): 32 rows, a poison bit per row, and HELD, DIRTY and OWN of AOWN. -/
structure Tile where
  rows : Map Row
  poison : BitVec 32
  held : Bool
  dirty : Bool
  own : Bool
  deriving DecidableEq, Repr

/-- An entry of the record cache (R66): its slot, the record's generic address and its 64 bytes. -/
structure RecEntry where
  h1 : Bool
  addr : Word
  data : BitVec 512
  deriving DecidableEq, Repr

/-- A cell (R13, R31, R32): its two slots, the active one, the shared accumulators, the record cache (most recently used first), the
micro-context and the unit of the cell's last unit, in either slot (R42), the cycle of the active slot's latest activation (R345), and the
launch whose gang, asked under R344, has freed the active slot for a bind that is still to come (R381). -/
structure CellSt where
  h0 : Slot
  h1 : Slot
  active : Bool
  a0 : Tile
  a1 : Tile
  recs : List RecEntry
  lastMc : Option Nat
  lastUnit : Option UnitRef
  activeSince : Nat
  freed : Option Nat
  deriving DecidableEq, Repr

/-- Line states of the barrier-interval discipline other than fresh (Table 12.6); units by TEAM.INDEX. -/
inductive LineState where
  | read (u : Nat)
  | shared
  | write (u : Nat)
  deriving DecidableEq, Repr

/-- The claim on a line of a checked store (R300): the claiming team, its interval, and the state. -/
structure Claim where
  team : Nat
  interval : Nat
  st : LineState
  deriving DecidableEq, Repr

/-- A 1 MiB granule of a cluster store (R43): the micro-context that holds it and the one that held it last. -/
structure Granule where
  holder : Option Nat
  last : Option Nat
  deriving DecidableEq, Repr

/-- A barrier of a team (R192): its phase count and, for each unit that has ever arrived, the phase it last arrived in. -/
structure Barrier where
  phase : Nat
  arrived : Map Nat
  deriving DecidableEq, Repr

/-- How a unit of a launch stands (R18, R326, R36). -/
inductive UnitStatus where
  /-- not yet bound -/
  | waiting
  /-- holds a context slot -/
  | bound (slot : SlotId)
  /-- out of its cell after a forced (1) or a boundary (2) pre-emption, with its retained facts -/
  | saved (kind : Nat)
  /-- ended: 1 completed, 2 cancelled as it completed, 3 failed, 4 cancelled without completing (R18, R36, R37) -/
  | ended (how : Nat)
  deriving DecidableEq, Repr

/-- A unit of a launch: status, save area (R318), the asynchronous causes that wait for its resume (R327), the modes of its streams
(R319), the entries popped since VHEAPC, a recorded submission, the cell it left (R42), the rows of `Slot.mpoison`, and whether it has
taken CANCEL (R37), with its order stamp. -/
structure UnitSt where
  status : UnitStatus
  area : Option Nat
  cancel : Bool
  deadline : Bool
  modes : List Bool
  hpopped : Nat
  submitted : Option Submission
  left : Option Nat
  mpoison : BitVec 32
  tookCancel : Bool
  cancelOrder : Nat
  deriving DecidableEq, Repr

/-- A launch record (Table 6.2). -/
structure LaunchRec where
  sentry : Nat
  ventry : Nat
  mentry : Nat
  xentry : Nat
  param : Word
  items : Nat
  gsize : Nat
  pantry : Bool
  deriving DecidableEq, Repr

/-- A launch (R34, R194, R196): handle value, micro-context, job, graph of the job, record, units, tile group, barriers, interval count
(R298), completion counter and marks, device-side facts, a pending boundary request (R344), and the first cell of the group whose units
have been asked to leave for it (R343). -/
structure Launch where
  handle : Word
  mc : Nat
  job : Nat
  graph : Nat
  record : LaunchRec
  units : List UnitSt
  group : Option Nat
  barriers : Map Barrier
  interval : Nat
  cancelled : Bool
  ended : Nat
  badEnds : Nat
  state : Nat
  device : Bool
  quota : Bool
  pool : Bool
  contOf : Option Nat
  contTaken : Bool
  order : Nat
  readyAt : Nat
  boundAt : Nat
  request : Option Nat
  wants : Option Nat
  deriving DecidableEq, Repr

/-- Where a job comes from (R337, R338, R354). -/
inductive JobSource where
  | request (slot : Nat)
  | queue (index : Nat)
  | stream
  deriving DecidableEq, Repr

/-- A completion counter above the launch level (Table 1.13), with its cancel mark and whether it is closed. -/
structure Counter where
  state : Nat
  launched : Nat
  ended : Nat
  bad : Nat
  cancelled : Bool
  closed : Bool
  deriving DecidableEq, Repr

/-- A graph of a job (Table 1.12): its phase and its counter. -/
structure Graph where
  phase : Nat
  count : Counter
  deriving DecidableEq, Repr

/-- A job (R339): where its launch record and parameter block lie, its graphs and phases, its own counter, its deadline (R348), its reply
route (R338), the request sequence number of its frame (R438), and the cause and order stamp of the first trap that ended a unit of it as
failed or cancelled. -/
structure Job where
  mc : Nat
  source : JobSource
  lrec : Word
  param : Word
  graphs : List Graph
  phases : List Counter
  job : Counter
  deadline : Option Nat
  everBound : Bool
  route : Word
  port : Nat
  seq : Nat
  failCause : Nat
  failOrder : Nat
  deriving DecidableEq, Repr

/-- The counters of a job that has ended, as they stood then (Table 1.13): the job's own levels, and its launches by number. -/
structure EndedJob where
  job : Job
  launches : List (Nat × Word)
  deriving DecidableEq, Repr

/-- A request or entry that waits for its micro-context's job to end (R339), with the number that its job will have, the request sequence
number of its frame, the cycle in which it reached the Ladle, and whether the read of its launch record has parked (R61). -/
structure PendingJob where
  id : Nat
  source : JobSource
  lrec : Word
  param : Word
  deadline : Option Nat
  route : Word
  port : Nat
  seq : Nat
  at_ : Nat
  parked : Bool
  deriving DecidableEq, Repr

/-- States of a micro-context, codes 0 to 4 (Table 14.2). -/
inductive McState where
  | invalid
  | idle
  | ready
  | bound
  | drain
  deriving DecidableEq, Repr

/-- A micro-context: its control block (Table 14.1) and what its home Ladle keeps of it: the level in force and the cycle it last
became ready or rose (R346), the ring slots in use (R338), waiting jobs, the job in progress, and whether the queue is mapped,
its head and tail, entries skipped and the notifies it has had, as tail and cycle (R348, R354, R355); and whether the runtime keeps the
jobs of its queue entries open, to add graphs and phases and to close them itself (Table 1.12). -/
structure MicroContext where
  home : Nat
  part : Nat
  base : Nat
  state : McState
  written : Bool
  pend : Bool
  wake : Bool
  savel : Nat
  lrec : Word
  root : Nat
  keySlot : Nat
  quota : Nat
  dline : Nat
  tsave : Word
  windows : List (Nat × Nat)
  rqring : Word
  qbase : Word
  qlog : Nat
  qsrc : Nat
  parks : Nat
  rqdrop : Nat
  authfail : Nat
  dlmiss : Nat
  readyAt : Nat
  level : Nat
  risenAt : Nat
  ring : List Nat
  waiting : List PendingJob
  job : Option Nat
  mapped : Bool
  mapUsed : Nat
  head : Nat
  tail : Nat
  skipped : Nat
  notes : List (Nat × Nat)
  batch : Bool
  deriving DecidableEq, Repr

/-- A delivery entry of a stream record (R269): token, position, the window and the iteration it is tagged with, whether it is provisional,
and whether it has been sent. -/
structure Delivery where
  token : Nat
  pos : Nat
  tag : Option (Nat × Nat)
  prov : Bool
  sent : Bool
  deriving DecidableEq, Repr

/-- A frame queued on a stream record (R268). -/
structure StreamFrame where
  play : Nat
  kind : Nat
  len : Nat
  buf : Nat
  deriving DecidableEq, Repr

/-- A stream record (Tables 11.3, 11.4): regions 0 to 3 as base, entry size and capacity; `ckpts` the positions of the checkpoints
held, oldest first, from which F and KPOS follow; `held` the buffer of the frame last delivered; `notices` the truncation notices
that the egress engine has yet to send. -/
structure StreamRec where
  owner : Nat
  regions : List (Word × Nat × Nat)
  live : Word
  fbuf : Word
  len0 : Nat
  len1 : Nat
  c : Nat
  p : Nat
  ckpts : List Nat
  knext : Nat
  queue : List StreamFrame
  held : Option Nat
  delivery : List Delivery
  notices : List Nat
  drops : Nat
  oseq : Nat
  deriving DecidableEq, Repr

/-- An entry of a partition's prefix table (R281): in use or not, with its generation, pins and last match. -/
structure PrefixEntry where
  used : Bool
  digest : Nat
  blocks : Nat
  npages : Nat
  pages : List Word
  gen : Nat
  pins : Nat
  matched : Nat
  deriving DecidableEq, Repr

/-- A die-to-die queue (R284): its sending and receiving micro-contexts, entries of 256 bytes and counts. -/
structure DieQueue where
  sender : Option Nat
  receiver : Option Nat
  entries : List (List Byte)
  sends : Nat
  receives : Nat
  deriving DecidableEq, Repr

/-- A command that a die engine holds (R201): identity, engine, the unit and slot that issued it, whether in user mode, its bytes,
whether CRED, CBCST or CGATH issued it, its collective ordinal once taken (R285), the VF whose WGO submitted it (R399), or 0,
and the reply route and port of the issuing job, if it has them (R338). -/
structure Command where
  id : Nat
  die : Nat
  engine : Engine
  unit : UnitRef
  slot : SlotId
  user : Bool
  handle : Nat
  bytes : List Byte
  direct : Bool
  ordinal : Option Nat
  vf : Nat
  route : Option (Word × Nat)
  deriving DecidableEq, Repr

/-- A result element that waits for DEQ, or for the instruction that submitted its command (R203, R285). -/
structure Result where
  id : Nat
  engine : Engine
  unit : UnitRef
  bytes : List Byte
  direct : Bool
  deriving DecidableEq, Repr

/-- State of a 2 MiB frame in a residency map other than absent (R60). -/
inductive Residency where
  | resident
  | failed
  deriving DecidableEq, Repr

/-- An entry of a Siphon's segment table (R430, R431): hash, frame number, order, sources (bit 0 host-placed, 1 flash, 2 peer),
drive, peer, first block, urgency (R286), the source being read and since when, the sources that failed (R432), and whether a
check of host-placed data was asked for. -/
structure Segment where
  hash : Nat
  frame : Nat
  order : Nat
  src : Nat
  drive : Nat
  peer : Nat
  lba : Nat
  urgency : Nat
  reading : Option Nat
  since : Nat
  failed : List Nat
  asked : Bool
  deriving DecidableEq, Repr

/-- A partition entry (Table 21.1) with its scheduling register (Table 14.4). -/
structure Partition where
  clusters : Nat
  dies : Nat
  enable : Bool
  prot : Bool
  err : Nat
  ceil : Nat
  age : Nat
  tslice : Nat
  keyBase : Nat
  keyCount : Nat
  deriving DecidableEq, Repr

/-- A selective IDE stream of a function (R410, Table 21.4): thresholds and counts of the P, NP and CPL sub-streams, WANT and STOP
bits, the number of key refreshes of each, the key of each, and SECURE. -/
structure IdeStream where
  thr : List Nat
  count : List Nat
  want : List Bool
  stop : List Bool
  refreshes : List Nat
  keys : List (BitVec 256)
  secure : Bool
  deriving DecidableEq, Repr

/-- A mailbox (Table 21.4a): GO, CLASS and CODE of CTRL, whether a message has reached the PF driver, status,
response length and DATA. -/
structure Mailbox where
  go : Bool
  delivered : Bool
  cls : Nat
  code : Nat
  status : Nat
  len : Nat
  data : Map Byte
  deriving DecidableEq, Repr

/-- The walker registers of a VF (Table 21.3): WCMD, WRES and WGO. -/
structure VfWalker where
  wcmd : List Byte
  wres : List Byte
  wgo : Bool
  deriving DecidableEq, Repr

/-- A ring of records in host memory (R439): bus address, entries as a power of two, and the producer index. -/
structure Ring where
  base : Nat
  log2n : Nat
  produced : Nat
  deriving DecidableEq, Repr

/-- A record that waits for its rings (R439): its bytes, and the rings it goes to, as 2 × function + kind. -/
structure Record where
  bytes : List Byte
  rings : List Nat
  deriving DecidableEq, Repr

/-- A re-encryption sweep (R407, R408): its die, frames, slots and pointer. -/
structure Sweep where
  die : Nat
  first : Nat
  count : Nat
  oldSlot : Nat
  newSlot : Nat
  sp : Nat
  deriving DecidableEq, Repr

/-- A replay window (R412): the highest SEQ accepted, and which of the 64 below it have been. -/
structure Replay where
  high : Nat
  seen : BitVec 64
  deriving DecidableEq, Repr

/-- The service address of a port (Table 22.3): UDP port, MAC and IPv6 address. -/
structure ServiceAddr where
  udp : Nat
  mac : Nat
  ipv6 : Nat
  deriving DecidableEq, Repr

/-- A packet of a channel that has not been acknowledged (R417): number, its bytes as they were first sent, when last sent,
retransmissions, interval. -/
structure SentPacket where
  num : Nat
  bytes : List Byte
  sentAt : Nat
  retries : Nat
  interval : Nat
  deriving DecidableEq, Repr

/-- A reliable channel to a peer (R417): next packet number, unacknowledged packets, fragments that wait for the window, the highest
number received in order, packets held out of order, the message being put together and the messages delivered. -/
structure Channel where
  next : Nat
  unacked : List SentPacket
  waiting : List (List Byte)
  cum : Nat
  held : List (Nat × List Byte)
  partly : List Byte
  inbox : List (List Byte)
  deriving DecidableEq, Repr

/-- States of a peer entry (R415, R418). -/
inductive PeerState where
  | down
  | hello
  | up
  | lost
  deriving DecidableEq, Repr

/-- A peer table entry (Table 21.12, R418). -/
structure Peer where
  index : Nat
  ports : Nat
  enabled : Bool
  keySlot : Nat
  mac : Nat
  ipv6 : Nat
  udp : Nat
  state : PeerState
  epoch : Nat
  heardHello : Bool
  acked : Bool
  next0 : Nat
  ctl : List (List Byte)
  chans : Map Channel
  heardAt : Nat
  ackDue : Option Nat
  lostAt : Nat
  deriving DecidableEq, Repr

/-- A member of a collective group on this module (R285): a unit by its TEAM.INDEX, its die, and its next ordinal. -/
structure Member where
  team : Nat
  die : Nat
  next : Nat
  deriving DecidableEq, Repr

/-- Another package of a collective group: its package rank, its entry in the peer table, and the number of its members. -/
structure PeerShare where
  rank : Nat
  peer : Nat
  count : Nat
  deriving DecidableEq, Repr

/-- A partial that a peer package contributed to a collective (Table 21.15). -/
structure Contribution where
  ordinal : Nat
  rank : Nat
  op : Nat
  type : Nat
  count : Nat
  data : List Byte
  deriving DecidableEq, Repr

/-- A collective group as the runtime assigned it (R285): its micro-context, its members on this module, this package's rank, the other
packages, the contributions received, and the ordinals for which this module has sent its own. -/
structure Group where
  handle : Nat
  members : List Member
  rank : Nat
  peers : List PeerShare
  contribs : List Contribution
  sent : List Nat
  lost : List Nat
  deriving DecidableEq, Repr

/-- A migration that this module sends (R450): the command's operands and its step: 0 it waits for the job to end, 1 it has asked the
peer, 2 it has made the cut and transfers -/
structure Migration where
  handle : Nat
  peer : Nat
  phandle : Nat
  frames : List (Nat × Nat)
  step : Nat
  deriving DecidableEq, Repr

/-- A partial copy that a migration to this module has brought (R450): the peer, the handle there and here, the key slot, the frames as
source and copy, the stream records, and the control block once it has come, with its replay window and the bytes of the ring slots in
use. -/
structure Incoming where
  peer : Nat
  source : Nat
  handle : Nat
  keySlot : Nat
  frames : List (Nat × Nat)
  streams : List Nat
  block : Option MicroContext
  window : Option Replay
  ringBytes : List (Nat × List Byte)
  deriving DecidableEq, Repr

/-- An image in a bank (R444, R445): its SHAKE256-256 hash, security version, Ladle interface number, whether its signature
verifies, and whether the bank holds an image at all. -/
structure FwImage where
  hash : Nat
  version : Nat
  iface : Nat
  good : Bool
  deriving DecidableEq, Repr

/-- Firmware of one kind on one die: the banks A and B, the selected bank, and the image that runs (R446). -/
structure Firmware where
  a : FwImage
  b : FwImage
  selB : Bool
  running : FwImage
  deriving DecidableEq, Repr

/-- A recalibration that runs on a die (R448): its stack, the slices so far, and when the last began. -/
structure Recal where
  stack : Nat
  slices : Nat
  last : Nat
  deriving DecidableEq, Repr

/-- A die: whether it runs or is held in reset (Table 22.2), fenced clusters and stacks as bit sets, the ramp and power cap registers
(Tables 14.5, 23.3), the activity of the last window, the effective cap and whether the temperature has lowered it (R350, R453), error
counts (Table 23.4), its recalibration, an outstanding Jalcen switch with its tag, and the records that wait (R439). -/
structure Die where
  up : Bool
  bad : Bool
  fencedClusters : Nat
  fencedStacks : Nat
  rampOff : Bool
  step : Nat
  tlim : Nat
  cap : Nat
  activity : Nat
  effCap : Nat
  throttled : Bool
  corr : Nat
  uncorr : Nat
  recal : Option Recal
  jalcenSwitch : Option Nat
  records : List Record
  deriving DecidableEq, Repr

/-- A direction of a die-to-die boundary (R409): its key, key epoch, group counter, consecutive failures, and whether it is down. -/
structure DieLink where
  key : List Byte
  epoch : Nat
  counter : Nat
  failures : Nat
  down : Bool
  deriving DecidableEq, Repr

/-- A flash drive on a root port (R433): the bytes of one of its logical blocks, 512 or 4,096, and whether Jalcen has configured it, as it
does at a start. -/
structure Drive where
  block : Nat
  ready : Bool
  deriving DecidableEq, Repr

/-- A reset rung that runs (R435, R436): its number and target, when it started, the jobs in its scope, the handles it drained,
those of them that are to end INVALID, those to whose jobs MEMLOST applies (R442), and whether the command in CCMD reports with it. -/
structure Rung where
  rung : Nat
  target : Nat
  since : Nat
  jobs : List Nat
  handles : List Nat
  invalid : List Nat
  lost : List Nat
  reply : Bool
  deriving DecidableEq, Repr

/-- A record of why a job ends, for its completion record (R438). -/
inductive EndReason where
  | plain
  | deadline
  | reset
  | memlost
  deriving DecidableEq, Repr

/-- What leaves the module: a frame from a port, a peer packet from a port with the addresses of both ends (R415), a Read command to a flash
drive as namespace, first block and number of blocks (R433), or a message to the PF driver. -/
inductive Output where
  | frame (port : Nat) (bytes : List Byte)
  | peerPacket (port : Nat) (from_ to_ : ServiceAddr) (bytes : List Byte)
  | flashRead (drive namespace_ lba blocks : Nat)
  | message (vf : Nat) (code : Nat) (data : List Byte)
  deriving DecidableEq, Repr

/-- What the firmware's handler may do with the trap it handles, beside running its own code (R312, R315, R332). -/
inductive FwChoice where
  /-- R332: deal with ACCFIRST and return -/
  | accFirst
  /-- end the unit as failed, or as cancelled for CANCEL -/
  | fail
  /-- return at the recorded resume PC -/
  | resume
  /-- return after setting the raising stream's resume PC to the successor (R206, R262) -/
  | skip
  deriving DecidableEq, Repr

/-- What the runtime may do with a job that is not closed (R34, Tables 1.12 and 1.14). -/
inductive RunOp where
  /-- it creates a phase -/
  | addPhase
  /-- it starts a graph in a phase, with a launch from a record and its parameter block -/
  | addGraph (phase : Nat) (lrec param : Word)
  /-- it closes a phase -/
  | closePhase (phase : Nat)
  /-- it closes the job -/
  | closeJob
  deriving DecidableEq, Repr

/-- A unit of the firmware as the start sequence places it (R313): its slot, the entry lines of S and V, its translation root, the
partition whose memory it reaches, and its save area. -/
structure FwUnit where
  place : SlotId
  sentry : Nat
  ventry : Nat
  root : Nat
  part : Nat
  tsave : Word
  deriving DecidableEq, Repr

/-- What the outside world or the order of events does next. -/
inductive Act where
  /-- the stream at a cursor moves -/
  | issue (c : Cursor)
  /-- an event of the table takes place -/
  | event (i : Instr)
  /-- the M instruction in progress of a slot makes one update -/
  | mUpdate (u : SlotId)
  /-- command `k` of a slot's X queue processes its next driving element -/
  | xElem (u : SlotId) (k : Nat)
  /-- a stream reads the next line of its chain early (R110) -/
  | readAhead (c : Cursor)
  /-- `n` main-clock cycles pass -/
  | tick (n : Nat)
  /-- the firmware's handler on a slot acts -/
  | firmware (u : SlotId) (f : FwChoice)
  /-- running rung `k` takes its next step (R436) -/
  | rung (k : Nat)
  /-- the byte at a store address gets an uncorrectable error -/
  | upset (addr : Nat)
  /-- a host agent writes host memory at a bus address -/
  | hostWrite (addr : Nat) (data : List Byte)
  /-- the runtime defines a collective group, or a die-to-die queue's users -/
  | setGroup (n : Nat) (g : Group)
  | setQueue (n : Nat) (sender receiver : Nat)
  /-- a flash drive with blocks of some bytes is attached to a root port, or it is taken away (R11, R433) -/
  | setDrive (drive : Nat) (block : Option Nat)
  /-- WAKE of a micro-context's FLAGS is set: no rule names what sets it -/
  | setWake (handle : Nat) (wake : Bool)
  /-- streams of a slot move in one and the same cycle (R178, R311) -/
  | together (u : SlotId) (streams : List Stream)
  /-- S of a slot moves, and what it has accessed stays in flight: it retires in a later cycle (Table 12.4) -/
  | issueLong (u : SlotId)
  /-- S access `k` of those in flight on a slot retires -/
  | sRetires (u : SlotId) (k : Nat)
  /-- the start that runs reaches its end, with what fails in it beside what its event has named (R424, R426), and the firmware's units
  that it has placed (R313) -/
  | startEnds (faults : StartFaults) (units : List FwUnit)
  /-- groups of beats pass good over a direction of a die-to-die boundary (R409) -/
  | linkGroups (link n : Nat)
  /-- memory or SRAM of a die corrects an error at a store address (Table 22.6) -/
  | corrected (die addr : Nat)
  /-- the runtime keeps the jobs of a micro-context's queue entries open, or not (Table 1.12) -/
  | setBatch (handle : Nat) (batch : Bool)
  /-- the runtime works on a job that is still open (Table 1.12) -/
  | runtime (job : Nat) (op : RunOp)
  deriving DecidableEq, Repr

/-- The whole module. -/
structure State where
  /-- choices of the outside world and of the order of events -/
  agenda : List Act
  /-- the stream that moves when the agenda is empty -/
  cur : Cursor
  /-- CYC (Table 1.11) -/
  cyc : Nat
  /-- every store, device memory and host memory (R41, R45), one byte a cell; an unlisted byte is 0 -/
  mem : List Host.Cell
  /-- bytes that carry an uncorrectable error -/
  upsets : Map Bool
  cells : Map CellSt
  granules : Map Granule
  claims : Map Claim
  /-- cluster buffers (keys 0 to 63) and pantry buffers (64 to 67) of Table 2.8 -/
  buffers : Map (List BufferEntry)
  launches : Map Launch
  jobs : Map Job
  /-- counters of the jobs that have ended -/
  finished : Map EndedJob
  reasons : Map EndReason
  mcs : Map MicroContext
  /-- next launch, job and command numbers and order stamps -/
  fresh : Nat
  streams : Map StreamRec
  prefixes : Map PrefixEntry
  queues : Map DieQueue
  groups : Map Group
  commands : List Command
  results : List Result
  residency : Map Residency
  segments : Map (List Segment)
  /-- flash drives that are attached: 0 on D2's port, 1 on D3's (R431, R433) -/
  drives : Map Drive
  partitions : Map Partition
  keys : Map Nat
  frameKeys : Map Nat
  tables : Map (List Nat)
  sweeps : List Sweep
  ide : Map IdeStream
  /-- posted writes to host memory that wait for their function's sub-stream P (R410), oldest first: the function and the bytes -/
  posted : List (Nat × List Host.Cell)
  mailboxes : Map Mailbox
  vfs : Map VfWalker
  ccmd : List Byte
  cres : List Byte
  cgo : Bool
  ctlRuns : Bool
  rings : Map Ring
  hostUp : Bool
  ports : Map ServiceAddr
  portDown : Map Bool
  replay : Map Replay
  replayStream : Map Replay
  peers : Map Peer
  localIndex : Nat
  migration : Option Migration
  /-- migrations to this module that have begun, one for each peer at most -/
  incoming : List Incoming
  forwards : Map Nat
  migrated : Map Nat
  firmware : Map Firmware
  dies : Map Die
  links : Map DieLink
  telemetry : Map (List Word)
  jobsDone : Map Nat
  rungs : List Rung
  phase : Nat
  warm : Bool
  /-- the start that runs (PHASE 1): what fails in it -/
  starting : Option StartFaults
  starts : Nat
  refused : Nat
  out : List Output
  deriving DecidableEq, Repr

/-- Why the machine stops with a fault. -/
inductive Fault where
  /-- an instruction is to be executed on a slot that holds no bound unit: no stream of it exists to run anything; raised by the
  execution of any instruction; safe, since the module runs nothing there -/
  | noUnit
  deriving DecidableEq, Repr

/-- Why the model answers no meaning. -/
inductive Refusal where
  /-- an instruction not yet given its meaning; raised by Dispatch only; safe -/
  | notModelled (mnemonic : String)
  deriving DecidableEq, Repr

/-- No line. -/
def Line.none : Line := { va := 0, data := 0 }

/-- A stream with nothing bound: halted, every register 0. -/
def StreamSt.blank : StreamSt :=
  { pc := 0, entry := .fresh, line := Line.none, ahead := [], halted := true, notStarted := false, sup := false, retired := 0,
    g := [], q := [], vq := [], l := [], e := [], waiting := none, buffer := [] }

/-- Special registers at reset (Tables 8.6, 9.1, 10.2, 13.2, 13.3, 13.5). -/
def Specials.blank : Specials :=
  { vflags := 0, mprog := 0, cslive := 0x20000000000, level := 0, ceil := 0, tvec := 0, tcause := 0, tval := 0, tsave := 0,
    img0 := false, img1 := false }

/-- A slot that holds no unit. -/
def Slot.blank : Slot :=
  { bound := none, s := StreamSt.blank, v := StreamSt.blank, m := StreamSt.blank, x := StreamSt.blank, fifo := [], vflight := [],
    mflight := none, xqueue := [], mstack := [], heap := [], hloss := false, hpopped := 0, vrows := [], sr := Specials.blank,
    attached := none, window := none, handler := none, submitted := none, cancel := false, tookCancel := false, deadline := false,
    activated := false, mpoison := 0, sspans := [], forced := false, lastTrap := 0, cancelOrder := 0, beside := false }

/-- A tile that no slot holds (R330). -/
def Tile.blank : Tile := { rows := [], poison := 0, held := false, dirty := false, own := false }

/-- A cell in which nothing has run. -/
def CellSt.blank : CellSt :=
  { h0 := Slot.blank, h1 := Slot.blank, active := false, a0 := Tile.blank, a1 := Tile.blank, recs := [], lastMc := none,
    lastUnit := none, activeSince := 0, freed := none }

/-- A partition entry at reset (Tables 14.4, 21.1). -/
def Partition.blank : Partition :=
  { clusters := 0, dies := 0, enable := false, prot := false, err := 0, ceil := 31, age := 2000, tslice := 100, keyBase := 0,
    keyCount := 0 }

/-- An IDE stream at reset (Table 21.4). -/
def IdeStream.blank : IdeStream :=
  { thr := [24, 24, 24], count := [0, 0, 0], want := [false, false, false], stop := [false, false, false], refreshes := [0, 0, 0], keys := [0, 0, 0],
    secure := false }

/-- A mailbox at reset. -/
def Mailbox.blank : Mailbox := { go := false, delivered := false, cls := 0, code := 0, status := 0, len := 0, data := [] }

/-- The walker registers of a VF at reset. -/
def VfWalker.blank : VfWalker := { wcmd := [], wres := [], wgo := false }

/-- A die in reset (Tables 14.5, 22.2, 23.3). -/
def Die.blank : Die :=
  { up := false, bad := false, fencedClusters := 0, fencedStacks := 0, rampOff := false, step := 8, tlim := 100, cap := 64,
    activity := 0, effCap := 64, throttled := false, corr := 0, uncorr := 0, recal := none, jalcenSwitch := none, records := [] }

/-- A link before its first start (R409). -/
def DieLink.blank : DieLink := { key := [], epoch := 0, counter := 0, failures := 0, down := false }

/-- A micro-context slot of the control-block table that is INVALID (R334, R336). -/
def MicroContext.blank : MicroContext :=
  { home := 0, part := 0, base := 0, state := .invalid, written := false, pend := false, wake := false, savel := 0, lrec := 0, root := 0, keySlot := 0,
    quota := 0, dline := 0, tsave := 0, windows := [(0, 0), (0, 0), (0, 0), (0, 0)], rqring := 0, qbase := 0, qlog := 0, qsrc := 0,
    parks := 0, rqdrop := 0, authfail := 0, dlmiss := 0, readyAt := 0, level := 0, risenAt := 0, ring := [], waiting := [],
    job := none, mapped := false, mapUsed := 0, head := 0, tail := 0, skipped := 0, notes := [], batch := false }

/-- An unowned stream record (R265, Table 22.4): KPOS reads 0xFFFF_FFFF while no checkpoint is held. -/
def StreamRec.blank : StreamRec :=
  { owner := 0xFFFF, regions := [(0, 0, 0), (0, 0, 0), (0, 0, 0), (0, 0, 0)], live := 0, fbuf := 0, len0 := 0, len1 := 0, c := 0,
    p := 0, ckpts := [], knext := 0, queue := [], held := none, delivery := [], notices := [], drops := 0, oseq := 0 }

/-- An empty prefix entry (R281). -/
def PrefixEntry.blank : PrefixEntry :=
  { used := false, digest := 0, blocks := 0, npages := 0, pages := [], gen := 0, pins := 0, matched := 0 }

/-- A die-to-die queue that no micro-context uses (R284). -/
def DieQueue.blank : DieQueue := { sender := none, receiver := none, entries := [], sends := 0, receives := 0 }

/-- A granule that no unit has held since start (R43). -/
def Granule.blank : Granule := { holder := none, last := none }

/-- A channel at packet number 1 (R418). -/
def Channel.blank : Channel := { next := 1, unacked := [], waiting := [], cum := 0, held := [], partly := [], inbox := [] }

/-- A peer entry that has never been configured (R415). -/
def Peer.blank : Peer :=
  { index := 0, ports := 0, enabled := false, keySlot := 0, mac := 0, ipv6 := 0, udp := 0, state := .down, epoch := 0,
    heardHello := false, acked := false, next0 := 1, ctl := [], chans := [], heardAt := 0, ackDue := none, lostAt := 0 }

/-- A bank that holds an image that does not verify. -/
def FwImage.blank : FwImage := { hash := 0, version := 0, iface := 0, good := false }

/-- The state right after reset, before any start has run (PHASE 0 of Table 22.2): every register at its reset value, nothing bound,
every store empty. Values that the spec leaves open are named in notes/assumptions. -/
def State.reset : State :=
  { agenda := [], cur := { slot := { cell := 0, h1 := false }, stream := .s }, cyc := 0, mem := [], upsets := [], cells := [],
    granules := [], claims := [], buffers := [], launches := [], jobs := [], finished := [], reasons := [], mcs := [], fresh := 1, streams := [],
    prefixes := [], queues := [], groups := [], commands := [], results := [], residency := [], segments := [], drives := [], partitions := [],
    keys := [], frameKeys := [], tables := [], sweeps := [], ide := [], posted := [], mailboxes := [], vfs := [], ccmd := [], cres := [],
    cgo := false, ctlRuns := false, rings := [], hostUp := true, ports := [], portDown := [], replay := [], replayStream := [], peers := [],
    localIndex := 0, migration := none, incoming := [], forwards := [], migrated := [], firmware := [], dies := [], links := [],
    telemetry := [], jobsDone := [], rungs := [], phase := 0, warm := false, starting := none, starts := 0, refused := 0, out := [] }

end Sys2Proof.Machine
end

