-- ==== Sys2Proof/Machine/Memory.lean ====
section
/-! DEFINITION. The stores as bytes at numbered addresses (R41). Physical addresses of device memory and die stores number themselves
(Table 2.2); cell stores, cluster stores and host memory follow above 2^53. A write keeps the canonical form of the list. -/

namespace Sys2Proof.Machine

/-- The byte at an address; a byte that nothing has written is 0 (every start clears the stores: Table 22.4, steps 5 and 6). -/
def Memory.byte (m : List Host.Cell) (a : Nat) : Byte :=
  match m with
  | [] => 0
  | (k, b) :: t => if k = a then b else Memory.byte t a

/-- n bytes from an address. -/
def Memory.read (m : List Host.Cell) (a n : Nat) : List Byte :=
  match n with
  | 0 => []
  | k + 1 => Memory.byte m a :: Memory.read m (a + 1) k

/-- The cells that list the non-zero bytes of a byte string placed at an address. -/
def Memory.cellsAt (a : Nat) : List Byte → List Host.Cell
  | [] => []
  | b :: t => if b = 0 then Memory.cellsAt (a + 1) t else (a, b) :: Memory.cellsAt (a + 1) t

/-- Write a byte string at an address. -/
def Memory.write (m : List Host.Cell) (a : Nat) (bs : List Byte) : List Host.Cell :=
  m.filter (fun c => decide (c.1 < a)) ++ Memory.cellsAt a bs ++ m.filter (fun c => decide (a + bs.length ≤ c.1))

/-- Set n bytes from an address to 0. -/
def Memory.clear (m : List Host.Cell) (a n : Nat) : List Host.Cell :=
  m.filter (fun c => decide (c.1 < a) || decide (a + n ≤ c.1))

/-- The canonical form: addresses strictly rising, from `lo` on, and no byte listed that is 0. -/
def Memory.wfFrom (lo : Nat) : List Host.Cell → Bool
  | [] => true
  | (k, b) :: t => decide (lo ≤ k) && decide (b ≠ 0) && Memory.wfFrom (k + 1) t

/-- The canonical form of memory. -/
def Memory.wf (m : List Host.Cell) : Bool := Memory.wfFrom 0 m

/-- First byte of the store of a cell (compute cells 0 to 511, pantry cells 512 to 543). -/
def cellStoreAt (c : Nat) : Nat := 2 ^ 53 + c * 2 ^ 20

/-- First byte of the store of a cluster, numbered 16 × die + cluster. -/
def clusterStoreAt (k : Nat) : Nat := 2 ^ 54 + k * 2 ^ 23

/-- The byte of host memory at a bus address. -/
def hostAt (a : Nat) : Nat := 2 ^ 55 + a

/-- First byte of the store of a die (Table 2.2). -/
def dieStoreAt (d : Nat) : Nat := 2 ^ 40 + d * 2 ^ 31

/-- Whether an address is one of device memory. -/
def isDevice (a : Nat) : Bool := decide (a < 2 ^ 40)

/-- The home die of an address of device memory or of a die store; 0 for others. -/
def homeDie (a : Nat) : Nat := if a < 2 ^ 40 then a / 2 ^ 38 else if a < 2 ^ 40 + 2 ^ 33 then (a - 2 ^ 40) / 2 ^ 31 else 0

/-- The 2 MiB frame of a device-memory address (R60). -/
def frameOf (a : Nat) : Nat := a / 2 ^ 21

/-- The part of the machine that a die is. -/
def State.die (s : State) (d : Nat) : Die := Map.get Die.blank s.dies d

/-- Change a die. -/
def State.withDie (s : State) (d : Nat) (f : Die → Die) : State := { s with dies := Map.put Die.blank s.dies d (f (s.die d)) }

/-- Stacks of a die that are not fenced (R442). -/
def Die.stackCount (d : Die) : Nat := 4 - countOnes 4 d.fencedStacks

/-- Whether a physical address is reserved (Table 2.2, R442). -/
def State.reserved (s : State) (pa : Nat) : Bool :=
  if pa < 2 ^ 40 then decide ((s.die (pa / 2 ^ 38)).stackCount * 2 ^ 36 ≤ pa % 2 ^ 38)
  else decide (2 ^ 40 + 2 ^ 33 ≤ pa)

/-- The slot of Lid and the firmware, and the slot number that stands for a segment's own key (R404, R406). -/
def segmentSlot : Nat := 1024

/-- The key slot that a line of device memory is under, with the sweep rule (R404, R408). The line at SP is being rewritten: an access to
it waits for that and uses the new slot, so in every state it is under the new slot already. -/
def State.lineSlot (s : State) (pa : Nat) : Nat :=
  match s.sweeps.find? (fun w => decide (w.first ≤ frameOf pa ∧ frameOf pa < w.first + w.count ∧ w.sp < (w.first + w.count) * 2 ^ 21)) with
  | some w => if pa / 64 * 64 ≤ w.sp then w.newSlot else w.oldSlot
  | none => Map.get 0 s.frameKeys (frameOf pa)

/-- Whether the slot of a line holds a key: slot 0 and segment keys always do (R404, R406). -/
def State.keyed (s : State) (a : Nat) : Bool :=
  !isDevice a ||
  (let k := s.lineSlot a
   decide (k = 0) || decide (k = segmentSlot) || (Map.find s.keys k).isSome)

/-- Read bytes that lie within one line or outside device memory: a line whose slot holds no key reads as zeros (R404). -/
def State.load (s : State) (a n : Nat) : List Byte := if s.keyed a then Memory.read s.mem a n else zeros n

/-- Count refused accesses, saturating at 64 bits (R397, R404). -/
def State.refuse (s : State) (n : Nat) : State := { s with refused := min (s.refused + n) (2 ^ 64 - 1) }

/-- Count an access to a line whose slot holds no key (R404). -/
def State.countLoad (s : State) (a : Nat) : State := if s.keyed a then s else s.refuse 1

/-- Count accesses to bytes as one for each of their lines whose slot holds no key (R404). -/
def State.countEach (s : State) (ks : List Nat) : State :=
  match ((ks.filter (fun a => !s.keyed a)).map (· / 64)).eraseDups with
  | [] => s
  | lines => s.refuse lines.length

/-- Whether a byte of a range carries an uncorrectable error. -/
def State.upsetIn (s : State) (a n : Nat) : Bool := s.upsets.any (fun e => decide (a ≤ e.1 ∧ e.1 < a + n))

/-- Write bytes that lie within one line or outside device memory: a line whose slot holds no key ignores the write (R404). Bytes
written carry no uncorrectable error any more. -/
def State.store (s : State) (a : Nat) (bs : List Byte) : State :=
  if s.keyed a then
    { s with mem := Memory.write s.mem a bs
             upsets := s.upsets.filter (fun e => decide (e.1 < a) || decide (a + bs.length ≤ e.1)) }
  else s.refuse 1

/-- Set n bytes from an address to 0, whatever their key. -/
def State.wipe (s : State) (a n : Nat) : State :=
  { s with mem := Memory.clear s.mem a n
           upsets := s.upsets.filter (fun e => decide (e.1 < a) || decide (a + n ≤ e.1)) }

/-- Read bytes one by one, each under its own line's key. -/
def State.loadEach (s : State) : List Nat → List Byte
  | [] => []
  | a :: t => (s.load a 1).getD 0 0 :: s.loadEach t

/-- Write the bytes of a list whose lines' slots hold keys. -/
def State.putEach (s : State) : List (Nat × Byte) → State
  | [] => s
  | (a, b) :: t => (if s.keyed a then s.store a [b] else s).putEach t

/-- Write bytes one by one, each under its own line's key; each line whose slot holds none counts as one refused access. -/
def State.storeEach (s : State) (es : List (Nat × Byte)) : State := (s.putEach es).countEach (es.map (·.1))

end Sys2Proof.Machine
end

