-- ==== Sys2Proof/Machine/Parts.lean ====
section
/-! DEFINITION. Reaching the parts of the state: cells, slots, streams, tiles, launches, micro-contexts; and the facts of place that
Table 1.6 and R14 give a cell. -/

namespace Sys2Proof.Machine

/-- A cell. -/
def State.cell (s : State) (c : Nat) : CellSt := Map.get CellSt.blank s.cells c

/-- Change a cell. -/
def State.withCell (s : State) (c : Nat) (f : CellSt → CellSt) : State :=
  { s with cells := Map.put CellSt.blank s.cells c (f (s.cell c)) }

/-- A slot of a cell. -/
def CellSt.slot (c : CellSt) (h1 : Bool) : Slot := if h1 then c.h1 else c.h0

/-- Change a slot of a cell. -/
def CellSt.withSlot (c : CellSt) (h1 : Bool) (f : Slot → Slot) : CellSt :=
  if h1 then { c with h1 := f c.h1 } else { c with h0 := f c.h0 }

/-- A slot. -/
def State.slot (s : State) (u : SlotId) : Slot := (s.cell u.cell).slot u.h1

/-- Change a slot. -/
def State.withSlot (s : State) (u : SlotId) (f : Slot → Slot) : State := s.withCell u.cell (fun c => c.withSlot u.h1 f)

/-- A stream of a slot. -/
def Slot.stream (l : Slot) : Stream → StreamSt
  | .s => l.s
  | .v => l.v
  | .m => l.m
  | .x => l.x

/-- Change a stream of a slot. -/
def Slot.withStream (l : Slot) (st : Stream) (f : StreamSt → StreamSt) : Slot :=
  match st with
  | .s => { l with s := f l.s }
  | .v => { l with v := f l.v }
  | .m => { l with m := f l.m }
  | .x => { l with x := f l.x }

/-- The stream at a cursor. -/
def State.stream (s : State) (c : Cursor) : StreamSt := (s.slot c.slot).stream c.stream

/-- Change the stream at a cursor. -/
def State.withStream (s : State) (c : Cursor) (f : StreamSt → StreamSt) : State :=
  s.withSlot c.slot (fun l => l.withStream c.stream f)

/-- The slot of the stream that moves. -/
def State.here (s : State) : Slot := s.slot s.cur.slot

/-- Change the slot of the stream that moves. -/
def State.withHere (s : State) (f : Slot → Slot) : State := s.withSlot s.cur.slot f

/-- The stream that moves. -/
def State.me (s : State) : StreamSt := s.stream s.cur

/-- Change the stream that moves. -/
def State.withMe (s : State) (f : StreamSt → StreamSt) : State := s.withStream s.cur f

/-- The other slot of the same cell. -/
def otherSlot (u : SlotId) : SlotId := { u with h1 := !u.h1 }

/-- Whether a cell is a pantry cell (R13, R15). -/
def isPantry (cell : Nat) : Bool := decide (512 ≤ cell)

/-- The die of a cell (R14; pantry cells eight to a die). -/
def dieOf (cell : Nat) : Nat := if isPantry cell then (cell - 512) / 8 else cell / 128

/-- The cluster rank of a cell on its die; 0 in a pantry cell (Table 1.6). -/
def clusterOf (cell : Nat) : Nat := if isPantry cell then 0 else cell / 8 % 16

/-- The rank of a cell in its cluster, or the pantry index (Table 1.6). -/
def rankOf (cell : Nat) : Nat := if isPantry cell then (cell - 512) % 8 else cell % 8

/-- The number of a compute cell's cluster: 16 × die + rank. -/
def clusterNumber (cell : Nat) : Nat := cell / 8

/-- Whether the bound unit runs in supervisor mode in a stream (R313). -/
def State.userMode (s : State) (c : Cursor) : Bool := !(s.stream c).sup

/-- What decoding depends on at a cursor. -/
def State.ctx (s : State) (c : Cursor) : DecodeCtx :=
  { stream := c.stream, pantry := isPantry c.slot.cell, user := s.userMode c }

/-- A micro-context. -/
def State.mc (s : State) (h : Nat) : MicroContext := Map.get MicroContext.blank s.mcs h

/-- Change a micro-context. -/
def State.withMc (s : State) (h : Nat) (f : MicroContext → MicroContext) : State :=
  { s with mcs := Map.put MicroContext.blank s.mcs h (f (s.mc h)) }

/-- Change a launch, if it exists. -/
def State.withLaunch (s : State) (n : Nat) (f : Launch → Launch) : State := { s with launches := Map.alter s.launches n f }

/-- Change a job, if it exists. -/
def State.withJob (s : State) (n : Nat) (f : Job → Job) : State := { s with jobs := Map.alter s.jobs n f }

/-- Change a unit of a launch. -/
def Launch.withUnit (l : Launch) (i : Nat) (f : UnitSt → UnitSt) : Launch :=
  { l with units := l.units.mapIdx (fun j u => if j = i then f u else u) }

/-- Change a unit. -/
def State.withUnit (s : State) (r : UnitRef) (f : UnitSt → UnitSt) : State := s.withLaunch r.launch (fun l => l.withUnit r.index f)

/-- A unit of a launch. -/
def State.unit (s : State) (r : UnitRef) : Option UnitSt :=
  match Map.find s.launches r.launch with
  | some l => l.units[r.index]?
  | none => none

/-- The launch of the unit bound in a slot. -/
def State.launchOf (s : State) (l : Slot) : Option (Nat × Launch) :=
  match l.bound with
  | some b => (Map.find s.launches b.unit.launch).map (fun x => (b.unit.launch, x))
  | none => none

/-- A partition (Table 21.1). -/
def State.partition (s : State) (p : Nat) : Partition := Map.get Partition.blank s.partitions p

/-- Change a partition. -/
def State.withPartition (s : State) (p : Nat) (f : Partition → Partition) : State :=
  { s with partitions := Map.put Partition.blank s.partitions p (f (s.partition p)) }

/-- A stream record by 1024 × die + index (R264). -/
def State.srec (s : State) (n : Nat) : StreamRec := Map.get StreamRec.blank s.streams n

/-- Change a stream record. -/
def State.withSrec (s : State) (n : Nat) (f : StreamRec → StreamRec) : State :=
  { s with streams := Map.put StreamRec.blank s.streams n (f (s.srec n)) }

/-- The number of the enabled protected partition that holds a die, if any (R393, R397). -/
def State.protector (s : State) (d : Nat) : Option Nat :=
  (s.partitions.find? (fun e => e.2.enable && e.2.prot && bitOf e.2.dies d)).map (·.1)

/-- Whether memory at an address is protected against a partition (R397). -/
def State.protectedFrom (s : State) (part : Nat) (a : Nat) : Bool :=
  decide (a < 2 ^ 40 + 2 ^ 33) &&
  (match s.protector (homeDie a) with
   | some p => decide (p ≠ part)
   | none => false)

/-- Whether two slots of a cell hold units of different micro-contexts (R329). -/
def State.foreignNeighbour (s : State) (u : SlotId) : Bool :=
  match (s.slot u).bound, (s.slot (otherSlot u)).bound with
  | some a, some b => decide (a.handle ≠ b.handle)
  | _, _ => false

/-- First offset of a slot's CSLIVE window and its length (Table 8.6). -/
def Slot.window_ (l : Slot) : Nat × Nat := (l.sr.cslive.field 0 20, l.sr.cslive.field 21 21)

/-- Cells of a unit's tile group that lie in a cluster: the slice start and size of its share of the cluster store (R43), where its
group has fewer than eight cells, and the whole store otherwise. -/
def Binding.slice (b : Binding) : Nat × Nat :=
  if b.size < 8 then (2 ^ 20 * (b.base % 8), 2 ^ 20 * b.size) else (0, 2 ^ 23)

/-- The rank of a unit's cluster-store granules: those of its share, numbered 8 × cluster + MiB (R43). -/
def Binding.shares (b : Binding) (pantry : Bool) : List Nat :=
  if pantry then [] else (List.range b.size).map (fun i => b.base + i)

/-- The tile of an accumulator number. -/
def CellSt.tile (c : CellSt) (t : Nat) : Tile := if t = 0 then c.a0 else c.a1

/-- Change a tile. -/
def CellSt.withTile (c : CellSt) (t : Nat) (f : Tile → Tile) : CellSt :=
  if t = 0 then { c with a0 := f c.a0 } else { c with a1 := f c.a1 }

/-- A row of a tile. -/
def Tile.row (t : Tile) (r : Nat) : Row := Map.get 0 t.rows r

/-- A tile with a row set. -/
def Tile.setRow (t : Tile) (r : Nat) (v : Row) : Tile := { t with rows := Map.put 0 t.rows r v }

/-- FIFO of a producer and a consumer (R19): the tokens it holds. -/
def Slot.tokens (l : Slot) (p c : Stream) : Nat := Map.get 0 l.fifo (4 * p.code + c.code)

/-- Change the tokens that a FIFO holds. -/
def Slot.withTokens (l : Slot) (p c : Stream) (f : Nat → Nat) : Slot :=
  { l with fifo := Map.put 0 l.fifo (4 * p.code + c.code) (f (l.tokens p c)) }

/-- Places of a FIFO that instructions in flight have reserved (R20). -/
def Slot.reserved (l : Slot) (p c : Stream) : Nat :=
  match p with
  | .s => 0
  | .v => (l.vflight.filter (fun e => decide (e.post = some c))).length
  | .m => (match l.mflight with
    | some m => if m.post = some c then 1 else 0
    | none => 0)
  | .x => (l.xqueue.filter (fun k => decide (k.post = some c))).length

/-- A number not used before, and the state that has used it. -/
def State.next (s : State) : Nat × State := (s.fresh, { s with fresh := s.fresh + 1 })

end Sys2Proof.Machine
end

