-- ==== Sys2Proof/Machine/Access.lean ====
section
/-! DEFINITION. Generic addresses and their checks (Tables 2.3 to 2.5), page walks and translation checks (Tables 2.6, 2.7), and the
barrier-interval discipline of the shared stores (12.4). An address that passes is the number of the byte in `State.mem`. -/

namespace Sys2Proof.Machine

/-- SPACE, RANK and OFFSET of a generic address (Table 2.3). -/
def space (a : Word) : Nat := a.field 61 3
def rankField (a : Word) : Nat := a.field 57 4
def offset (a : Word) : Nat := a.field 0 57

/-- Trap causes (Table 13.1). -/
def causeIllop : Nat := 0x01
def causeIlllen : Nat := 0x02
def causeIllstream : Nat := 0x03
def causeIllreg : Nat := 0x04
def causePriv : Nat := 0x05
def causeAlign : Nat := 0x06
def causeSpace : Nat := 0x07
def causeXfault : Nat := 0x08
def causePerm : Nat := 0x09
def causePoison : Nat := 0x0A
def causeMme : Nat := 0x0B
def causeAccfirst : Nat := 0x0C
def causeHeapovf : Nat := 0x0D
def causeSpecside : Nat := 0x0E
def causeLateframe : Nat := 0x0F
def causeSeqerr : Nat := 0x10
def causeDeadline : Nat := 0x11
def causeSwtrap : Nat := 0x12
def causeBkpt : Nat := 0x13
def causeCancel : Nat := 0x14

/-- What an access is for (Table 2.7, rows 8 to 10). -/
inductive Access where
  | load
  | store
  | atomic
  | fetch
  deriving DecidableEq, Repr

/-- Why an access does not take place: a trap, a park on a frame of a SEG page (R61), or a wait for the host link (R410). -/
inductive Stop where
  | trap (t : TrapInfo)
  | park (frame : Nat)
  | hold
  deriving DecidableEq, Repr

/-- A trap with subcode 0. -/
def trap0 (cause : Nat) (tval : Word) : Stop := .trap { cause := cause, sub := 0, tval := tval }

/-- Bytes of a page whose leaf stands at level `lv` (R53). -/
def pageSize (lv : Nat) (leaf : Nat) : Nat := 2 ^ (12 + 9 * lv + (if bitOf leaf 9 then 4 else 0))

/-- The physical address of the first byte of a leaf's page (R53): PA bits below the page's alignment are ignored. -/
def pageBase (lv leaf : Nat) : Nat := alignDown (bitsOf leaf 12 40 * 2 ^ 12) (pageSize lv leaf)

/-- Rows 1 to 5 of Table 2.7 for an entry read at a level: the subcode of the first that fails. An L4 or L3 entry with LEAF set is a leaf,
which fails as LEVEL whatever its other leaf bits are (log entry 86). -/
def State.entryFault (s : State) (lv e : Nat) : Option Nat :=
  let leaf := decide (lv = 0) || bitOf e 1
  let base := pageBase lv e
  if !bitOf e 0 then some 0
  else if decide (bitsOf e 10 2 ≠ 0) || (!leaf && decide (bitsOf e 2 10 ≠ 0)) then some 1
  else if decide (3 ≤ lv) && bitOf e 1 then some 2
  else if leaf && ((bitOf e 7 && bitOf e 8) || (bitOf e 6 && (bitOf e 3 || decide (pageSize lv e ≠ 2 ^ 21)))) then some 3
  else if leaf && !bitOf e 7 && (s.reserved base || s.reserved (base + pageSize lv e - 1)) then some 4
  else if !leaf && s.reserved (bitsOf e 12 40 * 2 ^ 12) then some 4
  else none

/-- What a walk answers where a table lies in memory that is protected against the walking partition, beside the subcodes of XFAULT: the
walker's read is refused as the stream's own access would be (R397). -/
def walkProt : Nat := 0x100

/-- A walk for a partition from a table at a level: the level and the leaf, or the subcode of XFAULT (R51, R57). -/
def State.walkFrom (s : State) (part va table : Nat) : Nat → Except Nat (Nat × Nat)
  | 0 => .error 0
  | lv + 1 =>
    if s.protectedFrom part table then .error walkProt else
    let e := natOf (s.load (table + 8 * bitsOf va (12 + 9 * lv) 9) 8)
    match s.entryFault lv e with
    | some sub => .error sub
    | none =>
      if lv = 0 ∨ bitOf e 1 then .ok (lv, e)
      else s.walkFrom part va (bitsOf e 12 40 * 2 ^ 12) lv

/-- A walk of a virtual address from a root (R51): rows 1 to 5 of Table 2.7. A root in a reserved range fails as PHYS; one that is not
aligned is walked from as it stands (log entry 106). -/
def State.walk (s : State) (part root va : Nat) : Except Nat (Nat × Nat) :=
  if s.reserved root then .error 4 else s.walkFrom part va root 5

/-- The trap of a walk that fails. -/
def walkTrap (sub : Nat) (tval : Word) : TrapInfo :=
  if sub = walkProt then { cause := causePerm, sub := 1, tval := tval } else { cause := causeXfault, sub := sub, tval := tval }

/-- The addresses of the entries that a walk reads from a table at a level. -/
def State.walkReads (s : State) (part va table : Nat) : Nat → List Nat
  | 0 => []
  | lv + 1 =>
    let a := table + 8 * bitsOf va (12 + 9 * lv) 9
    let e := natOf (s.load a 8)
    if s.protectedFrom part table then []
    else a :: (if (s.entryFault lv e).isSome ∨ lv = 0 ∨ bitOf e 1 then [] else s.walkReads part va (bitsOf e 12 40 * 2 ^ 12) lv)

/-- Count a walk's reads of tables that lie in lines whose slots hold no key (R404). Such an entry reads as 0, so the walk fails there. -/
def State.countWalk (s : State) (part root va : Nat) : State := if s.reserved root then s else s.countEach (s.walkReads part va root 5)

/-- The number of the shared translation buffer that serves a cell (Table 2.8). -/
def bufferOf (cell : Nat) : Nat := if isPantry cell then 64 + dieOf cell else clusterNumber cell

/-- The entry of a buffer that covers an address of a handle (R55). -/
def findEntry (es : List BufferEntry) (handle va : Nat) : Option BufferEntry :=
  es.find? (fun e => decide (e.handle = handle ∧ e.va ≤ va ∧ va < e.va + e.size))

/-- The translation that an access of a stream uses: a buffer entry that covers it, or else a walk; as the physical address (or
bus address) of the byte, the leaf entry, and the size of the page. -/
def State.translation (s : State) (c : Cursor) (b : Binding) (va : Nat) : Except Nat (Nat × Nat × Nat) :=
  let first := findEntry (s.stream c).buffer b.handle va
  let shared := findEntry (Map.get [] s.buffers (bufferOf c.slot.cell)) b.handle va
  let at_ (base leaf size : Nat) : Nat × Nat × Nat := (base + va % size, leaf, size)
  match first, shared with
  | some e, _ => .ok (at_ (alignDown (bitsOf e.leaf 12 40 * 2 ^ 12) e.size) e.leaf e.size)
  | none, some e => .ok (at_ (alignDown (bitsOf e.leaf 12 40 * 2 ^ 12) e.size) e.leaf e.size)
  | none, none =>
    match s.walk b.part b.root va with
    | .error sub => .error sub
    | .ok (lv, e) => .ok (at_ (pageBase lv e) e (pageSize lv e))

/-- Rows 6 to 12 of Table 2.7, and the refusal of R397 at row 7, for a leaf that serves an access. A leaf with SEG whose page is not in device
memory finds no frame in the map, so its accesses park (log entry 105). -/
def State.leafCheck (s : State) (b : Binding) (user : Bool) (kind : Access) (pa leaf : Nat) (tval : Word) : Except Stop Unit :=
  let perm (sub : Nat) : Except Stop Unit := .error (.trap { cause := causePerm, sub := sub, tval := tval })
  let h := bitOf leaf 7
  if bitOf leaf 5 && user then perm 0
  else if (bitOf leaf 8 && !b.prot) || (!h && s.protectedFrom b.part pa) then perm 1
  else if (decide (kind = .load) && !bitOf leaf 2) || (decide (kind = .store) && !bitOf leaf 3) ||
          (decide (kind = .atomic) && !(bitOf leaf 2 && bitOf leaf 3)) then perm 2
  else if decide (kind = .fetch) && (!bitOf leaf 4 || h) then perm 3
  else if decide (kind = .atomic) && h then perm 4
  else if bitOf leaf 6 then
    match Map.find s.residency (frameOf pa) with
    | some .failed => .error (.trap { cause := causeXfault, sub := 5, tval := tval })
    | some .resident => .ok ()
    | none => .error (.park (frameOf pa))
  else .ok ()

/-- The IDE stream of a function. -/
def State.ideStream (s : State) (func : Nat) : IdeStream := Map.get IdeStream.blank s.ide func

/-- Whether the sub-stream that carries a partition's accesses of a kind to host memory has stopped (R410): NP (1) for reads, P (0) for
writes. A read also waits behind posted writes of its function that wait (log entry 103). -/
def State.linkHeld (s : State) (part : Nat) (kind : Access) : Bool :=
  (s.ideStream (part + 1)).stop.getD (if kind = .store then 0 else 1) false ||
  (decide (kind ≠ .store) && s.posted.any (fun e => decide (e.1 = part + 1)))

/-- Bytes of host memory that a die's mechanisms write for a partition wait while sub-stream P is stopped (R410); bytes that lie elsewhere
do not. -/
def State.postEach (s : State) (part : Nat) (es : List (Nat × Byte)) : State :=
  if s.linkHeld part .store ∧ es.any (fun e => decide (hostAt 0 ≤ e.1)) then
    { s.storeEach (es.filter (fun e => decide (e.1 < hostAt 0))) with
      posted := s.posted ++ [(part + 1, es.filter (fun e => decide (hostAt 0 ≤ e.1)))] }
  else s.storeEach es

/-- A byte string that a die's mechanisms write within one line or one page of host memory, or elsewhere. -/
def State.postAt (s : State) (part k : Nat) (bs : List Byte) : State :=
  if hostAt 0 ≤ k then s.postEach part (((List.range bs.length).map (k + ·)).zip bs) else s.store k bs

/-- The posted writes of a function that wait are made. -/
def State.drained (s : State) (func : Nat) : State :=
  (s.posted.filter (fun e => decide (e.1 = func))).foldl (fun s e => s.storeEach e.2) { s with posted := s.posted.filter (fun e => decide (e.1 ≠ func)) }

/-- A byte that an access reaches, unless it lies in host memory and its packet waits (R410). -/
def State.throughLink (s : State) (part : Nat) (kind : Access) (k : Nat) : Except Stop Nat :=
  if hostAt 0 ≤ k ∧ s.linkHeld part kind then .error .hold else .ok k

/-- Translate a virtual address for a stream and check it (R54): the number of the byte. TVAL is the given address. -/
def State.virtual (s : State) (c : Cursor) (b : Binding) (kind : Access) (va : Nat) (tval : Word) : Except Stop Nat :=
  match s.translation c b va with
  | .error sub => .error (.trap (walkTrap sub tval))
  | .ok (pa, leaf, _) =>
    match s.leafCheck b (s.userMode c) kind pa leaf tval with
    | .error e => .error e
    | .ok () => s.throughLink b.part kind (if bitOf leaf 7 then hostAt pa else pa)

/-- Whether a unit holds the cluster-store granule (R43). -/
def State.holds (s : State) (b : Binding) (granule : Nat) : Bool :=
  decide ((Map.get Granule.blank s.granules granule).holder = some b.handle) &&
  decide (b.base ≤ granule ∧ granule < b.base + b.size)

/-- Whether every byte of a range of a cluster store is held (R43, R47). -/
def State.holdsRange (s : State) (b : Binding) (cluster off n : Nat) : Bool :=
  s.holds b (8 * cluster + off / 2 ^ 20) && s.holds b (8 * cluster + (off + n - 1) / 2 ^ 20)

/-- The spaces that a stream reaches (Table 2.5). -/
def reaches (st : Stream) (sp : Nat) : Bool :=
  match st with
  | .s | .x => decide (sp ≤ 5)
  | .v | .m => decide (sp = 1)

/-- Whether an own-cell-store access of n bytes from an offset stays where the slot may reach it: below 1 MiB, and, beside another
micro-context, inside the CSLIVE window (R47, R50, R329). -/
def State.ownStoreOk (s : State) (u : SlotId) (off n : Nat) : Bool :=
  let w := (s.slot u).window_
  decide (off + n ≤ 2 ^ 20) && (!s.foreignNeighbour u || (decide (w.1 ≤ off) && decide (off + n ≤ w.1 + w.2)))

/-- Where an access outside space 0 lies (Table 2.4): the number of its first byte, or none if it raises SPACE. -/
def State.onChip (s : State) (c : Cursor) (b : Binding) (a : Word) (n : Nat) : Option Nat :=
  let cell := c.slot.cell
  let off := offset a
  let rk := rankField a
  let pantry := isPantry cell
  match space a with
  | 1 => if rk = 0 ∧ s.ownStoreOk c.slot off n then some (cellStoreAt cell + off) else none
  | 2 =>
    let target := cell / 8 * 8 + rk
    if pantry ∨ 8 ≤ rk ∨ 2 ^ 20 < off + n then none
    else if target < b.base ∨ b.base + b.size ≤ target then none
    else if target = cell ∧ !s.ownStoreOk c.slot off n then none
    else some (cellStoreAt target + off)
  | 3 =>
    let k := clusterNumber cell
    if pantry ∨ rk ≠ 0 ∨ b.slice.2 < off + n then none
    else if s.holdsRange b k (b.slice.1 + off) n then some (clusterStoreAt k + b.slice.1 + off) else none
  | 4 =>
    let k := 16 * dieOf cell + rk
    if pantry ∨ 2 ^ 23 < off + n ∨ 8 * k < b.base ∨ b.base + b.size < 8 * k + 8 then none
    else if s.holdsRange b k off n then some (clusterStoreAt k + off) else none
  | 5 =>
    match b.windows[rk]? with
    | none => none
    | some (base, size) => if size * 2 ^ 21 < off + n then none else some (dieStoreAt rk + base * 2 ^ 21 + off)
  | _ => none

/-- Row 1 of R179 and R48: whether an access raises SPACE before anything else. -/
def State.spaceOk (s : State) (c : Cursor) (b : Binding) (a : Word) (n : Nat) : Bool :=
  reaches c.stream (space a) &&
  (if space a = 0 then decide (rankField a = 0) && decide (offset a + n ≤ 2 ^ 57) else (s.onChip c b a n).isSome)

/-- The number of the first byte of an access that has passed `spaceOk` (R47, R54). A die-store window onto a protected die is
refused as R397 says. -/
def State.place (s : State) (c : Cursor) (b : Binding) (kind : Access) (a : Word) (n : Nat) : Except Stop Nat :=
  if space a = 0 then s.virtual c b kind (offset a) a
  else
    match s.onChip c b a n with
    | none => .error (trap0 causeSpace a)
    | some k =>
      if space a = 5 ∧ s.protectedFrom b.part k then .error (.trap { cause := causePerm, sub := 1, tval := a }) else .ok k

/-- The binding of the unit of a slot; for a slot that holds none, one that reaches nothing. -/
def State.binding (s : State) (u : SlotId) : Binding :=
  (s.slot u).bound.getD
    { unit := { launch := 0, index := 0 }, handle := 0, home := 0, part := 0, prot := false, base := 0, size := 0, root := 0,
      keySlot := 0, windows := [], area := 0, boundAt := 0 }

/-- The checks of R179 for an aligned access of n bytes (the alignment m may differ, as for records): the number of its first
byte. -/
def State.access (s : State) (c : Cursor) (kind : Access) (a : Word) (n m : Nat) : Except Stop Nat :=
  let b := s.binding c.slot
  if !s.spaceOk c b a n then .error (trap0 causeSpace a)
  else if offset a % m ≠ 0 then .error (trap0 causeAlign a)
  else s.place c b kind a n

/-- Numbers of the n bytes of an access without alignment, each byte checked as its own access with its own TVAL (R64). -/
def State.accessEach (s : State) (c : Cursor) (kind : Access) (a : Word) : Nat → Except Stop (List Nat)
  | 0 => .ok []
  | n + 1 =>
    let b := s.binding c.slot
    if !s.spaceOk c b a 1 then .error (trap0 causeSpace a)
    else
      match s.place c b kind a 1 with
      | .error e => .error e
      | .ok k =>
        match s.accessEach c kind (a + 1) n with
        | .error e => .error e
        | .ok ks => .ok (k :: ks)

/-- Count the walk of an access that has failed in it (R404). -/
def State.countFault (s : State) (b : Binding) (t : TrapInfo) : State :=
  if t.cause = causeXfault ∧ t.sub ≠ 5 ∧ space t.tval = 0 then s.countWalk b.part b.root (offset t.tval) else s

/-- Whether a byte number lies in the own cell store of a cell. -/
def inCellStore (cell k : Nat) : Bool := decide (cellStoreAt cell ≤ k ∧ k < cellStoreAt cell + 2 ^ 20)

/-- Whether the barrier-interval discipline checks an access by a unit of a cell (R297): cluster stores, die stores, and cell stores
of other cells. -/
def lineChecked (cell k : Nat) : Bool :=
  (decide (2 ^ 40 ≤ k ∧ k < 2 ^ 40 + 2 ^ 33)) || (decide (2 ^ 53 ≤ k ∧ k < 2 ^ 54) && !inCellStore cell k) ||
  decide (2 ^ 54 ≤ k ∧ k < 2 ^ 55)

/-- The next state of a line under Table 12.6; none for MME LINE. -/
def lineNext (st : Option LineState) (u : Nat) (write : Bool) : Option LineState :=
  match st with
  | none => some (if write then .write u else .read u)
  | some (.read v) => if write then (if v = u then some (.write u) else none) else (if v = u then some (.read u) else some .shared)
  | some .shared => if write then none else some .shared
  | some (.write v) => if v = u then some (.write u) else none

/-- The claim on a line that still holds (R300): its team has not ended and its interval is the team's current one. -/
def State.claim (s : State) (line : Nat) : Option Claim :=
  match Map.find s.claims line with
  | some c =>
    match Map.find s.launches c.team with
    | some l => if l.interval = c.interval ∧ l.state = 0 then some c else none
    | none => none
  | none => none

/-- The check of one line for a plain access (R299, R300): the state with the line's claim updated, or none for MME LINE. -/
def State.touchLine (s : State) (b : Binding) (line : Nat) (write : Bool) : Option State :=
  let team := b.unit.launch
  let interval := ((Map.find s.launches team).map (·.interval)).getD 0
  match s.claim line with
  | some c =>
    if c.team = team then
      (lineNext (some c.st) b.unit.index write).map (fun st => { s with claims := Map.set s.claims line { c with st := st } })
    else some s
  | none =>
    (lineNext none b.unit.index write).map
      (fun st => { s with claims := Map.set s.claims line { team := team, interval := interval, st := st } })

/-- The barrier-interval check of a plain access of n bytes from byte number k (R297 to R300): TVAL is the address of its first
byte in the failing line. -/
def State.lineCheck (s : State) (c : Cursor) (write : Bool) (a : Word) (k n : Nat) : Except Stop State :=
  if !lineChecked c.slot.cell k then .ok s
  else
    let b := s.binding c.slot
    let l0 := k / 64
    let l1 := (k + n - 1) / 64
    let mme (t : Word) : Except Stop State := .error (.trap { cause := causeMme, sub := 2, tval := t })
    match s.touchLine b l0 write with
    | none => mme a
    | some s1 =>
      if l1 = l0 then .ok s1
      else
        match s1.touchLine b l1 write with
        | none => mme (a + BitVec.ofNat 64 (64 * l1 - k))
        | some s2 => .ok s2

end Sys2Proof.Machine
end

