-- ==== Sys2Proof/Machine/Snapshot.lean ====
section
/-! DEFINITION. The trap record in a save area (R318 to R321): its bytes from a slot at a cut, and a slot from its bytes with the
checks of R324. -/

namespace Sys2Proof.Machine

/-- KIND codes of a V snapshot entry (R320). -/
def VKind.code : VKind → Nat
  | .vreg => 0
  | .greg => 1
  | .qreg => 2
  | .store => 3
  | .load => 4
  | .heapPair => 5
  | .bare => 6

/-- The kind of a code; none for 7 and above (R324). -/
def VKind.ofCode : Nat → Option VKind
  | 0 => some .vreg
  | 1 => some .greg
  | 2 => some .qreg
  | 3 => some .store
  | 4 => some .load
  | 5 => some .heapPair
  | 6 => some .bare
  | _ => none

/-- The 512 bytes of a V snapshot entry (R320). -/
def VEntry.bytes (e : VEntry) : List Byte :=
  bytesOf 128 e.data.toNat ++ bytesOf 128 e.data2.toNat ++
  bytesOf 1 e.kind.code ++ bytesOf 1 e.dest ++ bytesOf 1 e.dest2 ++ bytesOf 1 e.offset ++
  bytesOf 1 (match e.post with | some p => p.code + 1 | none => 0) ++ bytesOf 1 e.width ++ bytesOf 1 (bit01 e.stoinc) ++ zeros 1 ++
  bytesOf 4 e.flags.toNat ++ zeros 4 ++ bytesOf 8 e.addr.toNat ++ bytesOf 8 e.stride.toNat ++ bytesOf 16 e.mask.toNat ++ zeros 208

/-- A V snapshot entry from its bytes, with the checks of R324 that concern it. -/
def VEntry.ofBytes (pantry : Bool) (bs : List Byte) : Option VEntry :=
  let post := byteAt bs 260
  match VKind.ofCode (byteAt bs 256) with
  | none => none
  | some kind =>
    if 14 < byteAt bs 259 ∨ post = 2 ∨ 4 < post ∨ (pantry ∧ 3 ≤ post) ∨ 1 < byteAt bs 262 ∨ !zeroAt bs 263 1 ∨
       2 ^ 8 ≤ natAt bs 264 4 ∨ !zeroAt bs 268 4 ∨ !zeroAt bs 304 208 then none
    else some
      { kind := kind, data := BitVec.ofNat 1024 (natAt bs 0 128), data2 := BitVec.ofNat 1024 (natAt bs 128 128), dest := byteAt bs 257,
        dest2 := byteAt bs 258, offset := byteAt bs 259, post := if post = 0 then none else some (Stream.ofCode (post - 1)),
        width := byteAt bs 261, stoinc := bitOf (byteAt bs 262) 0, flags := BitVec.ofNat 8 (byteAt bs 264),
        addr := BitVec.ofNat 64 (natAt bs 272 8), stride := BitVec.ofNat 64 (natAt bs 280 8), mask := BitVec.ofNat 128 (natAt bs 288 16), reads := 0 }

/-- The cursor by which the entry of a void command is known: a command whose cursor is complete retires without access (R253). -/
def voidCursor : Nat := 2 ^ 64 - 1

/-- The 64 bytes of an X queue entry (R321); a void command shows a cursor that is complete. -/
def XCommand.bytes (k : XCommand) : List Byte :=
  bytesOf 4 (k.words.getD 0 0) ++ bytesOf 4 (k.words.getD 1 0) ++ bytesOf 4 (k.words.getD 2 0) ++ zeros 4 ++
  bytesOf 8 k.pc ++ bytesOf 8 (if k.void then voidCursor else k.cursor) ++ bytesOf 8 k.opD.toNat ++ bytesOf 8 k.opA.toNat ++ bytesOf 8 k.opB.toNat ++ zeros 8

/-- Whether an instruction is one of the commands XMOV to XAPP (R251). -/
def isCommand : Instr → Bool
  | .xmov _ _ _ | .xmovs _ _ _ _ | .xgath _ _ _ _ | .xscat _ _ _ _ | .xunpk _ _ _ | .xfill _ _ _ | .xhash _ _ _ _ | .xapp _ _ _ => true
  | _ => false

/-- An X queue entry from its bytes, with the check of R324 that its words decode as a command. -/
def XCommand.ofBytes (bs : List Byte) : Option XCommand :=
  let ws := [natAt bs 0 4, natAt bs 4 4, natAt bs 8 4]
  let n := match Len.ofCode (bitsOf (natAt bs 0 4) 30 2) with
    | some l => l.words
    | none => 0
  if !zeroAt bs 12 4 ∨ !zeroAt bs 56 8 ∨ (ws.drop n).any (fun w => w != 0) then none
  else
    match decode { stream := .x, pantry := false, user := true } (ws.take n) with
    | .ok i =>
      if isCommand i then
        some { instr := i, words := ws.take n, pc := natAt bs 16 8, cursor := natAt bs 24 8, opD := BitVec.ofNat 64 (natAt bs 32 8),
               opA := BitVec.ofNat 64 (natAt bs 40 8), opB := BitVec.ofNat 64 (natAt bs 48 8), recD := 0, recA := 0, recB := 0, total := 0,
               post := (match i.hdr with | some h => h.post | none => none), fresh := true, fault := none, parked := none,
               void := decide (natAt bs 24 8 = voidCursor) }
      else none
    | .error _ => none

/-- TVEC with its writable bits from a word (Table 13.3): EN of codes 0, 0x0C and 0x15 to 0x1F stays 0. -/
def tvecOf (w : Word) : Word := w &&& 0x001FEFFEFFFFFFC0

/-- TSAVE with its writable bits: bits [15:0] read 0 (R318). -/
def tsaveOf (w : Word) : Word := w &&& 0xFFFFFFFFFFFF0000

/-- CSLIVE for a window of whole pages (Table 8.6). -/
def windowWord (off len : Nat) : Word := BitVec.ofNat 64 (off + len * 2 ^ 21)

/-- The window that a write of CSLIVE makes (Table 8.6, R205): it ends at 2^20 at the latest. -/
def windowOfWord (w : Word) : Nat × Nat :=
  let off := w.field 12 8 * 4096
  (off, min (w.field 33 9 * 4096) (2 ^ 20 - off))

/-- VSTAT as software reads it (Table 9.1). -/
def Slot.vstat (l : Slot) : Word :=
  BitVec.ofNat 64 (l.sr.vflags.toNat + l.mstack.length * 2 ^ 24 + l.heap.length * 2 ^ 32 + bit01 l.hloss * 2 ^ 41)

/-- PRIO as software reads it (Table 1.10). -/
def Slot.prio (l : Slot) : Word := BitVec.ofNat 64 (l.sr.level + l.sr.ceil * 2 ^ 8)

/-- g register n of a stream, g0 as 0 (R26). -/
def StreamSt.gReg (t : StreamSt) (n : Nat) : Word := if n = 0 then 0 else Map.get 0 t.g n

/-- A stream with g register n written; a write of g0 is discarded (R26). -/
def StreamSt.setG (t : StreamSt) (n : Nat) (v : Word) : StreamSt := if n = 0 then t else { t with g := Map.put 0 t.g n v }

/-- Predicate n of S, M or X, q0 as true (R25). -/
def StreamSt.qReg (t : StreamSt) (n : Nat) : Bool := if n = 0 then true else Map.get false t.q n

/-- A stream with predicate n of S, M or X written; a write of q0 is discarded. -/
def StreamSt.setQ (t : StreamSt) (n : Nat) (v : Bool) : StreamSt := if n = 0 then t else { t with q := Map.put false t.q n v }

/-- Predicate n of V, q0 as all ones (R25). -/
def StreamSt.vqReg (t : StreamSt) (n : Nat) : Mask := if n = 0 then Mask.full else Map.get 0 t.vq n

/-- A stream with predicate n of V written; a write of q0 is discarded. -/
def StreamSt.setVq (t : StreamSt) (n : Nat) (v : Mask) : StreamSt := if n = 0 then t else { t with vq := Map.put 0 t.vq n v }

/-- Loop register n (R25). -/
def StreamSt.lReg (t : StreamSt) (n : Nat) : BitVec 32 := Map.get 0 t.l n

/-- A stream with loop register n written. -/
def StreamSt.setL (t : StreamSt) (n : Nat) (v : BitVec 32) : StreamSt := { t with l := Map.put 0 t.l n v }

/-- Shape-record pointer n (R25). -/
def StreamSt.eReg (t : StreamSt) (n : Nat) : Word := Map.get 0 t.e n

/-- A stream with shape-record pointer n written. -/
def StreamSt.setE (t : StreamSt) (n : Nat) (v : Word) : StreamSt := { t with e := Map.put 0 t.e n v }

/-- Bytes of n registers. -/
def regBytes (n w : Nat) (f : Nat → Nat) : List Byte := (List.range n).flatMap (fun i => bytesOf w (f i))

/-- A stream block (Table 13.4). -/
def streamBlock (t : StreamSt) (count : Nat) : List Byte :=
  bytesOf 8 t.pc ++ bytesOf 8 t.retired.toNat ++ regBytes 4 4 (fun i => (t.lReg i).toNat) ++
  bytesOf 1 (bit01 t.halted + 2 * bit01 t.notStarted) ++ zeros 7 ++ bytesOf 2 count ++ zeros 22

/-- A stream handle with bit 63 set, or 0 where no record is attached (Table 13.4). -/
def handleImage (o : Option Nat) : Nat :=
  match o with
  | some h => h + 2 ^ 63
  | none => 0

/-- Window state (Table 13.4). -/
def windowBytes : Option Window → List Byte
  | none => zeros 128
  | some w =>
    bytesOf 8 w.block.toNat ++ bytesOf 1 w.w ++ bytesOf 1 w.i ++ bytesOf 1 (1 + 2 * bit01 w.verdict + 4 * bit01 w.carryPending) ++
    bytesOf 1 w.faulted.toNat ++ bytesOf 1 w.acmpD ++ zeros 3 ++ bytesOf 8 w.body ++ bytesOf 8 w.acmpAt ++
    bytesOf 8 w.pcV ++ bytesOf 8 w.pcM ++ bytesOf 8 w.pcX ++ bytesOf 8 (handleImage w.handle) ++
    bytesOf 8 w.len0 ++ bytesOf 8 w.len1 ++ bytesOf 4 w.app0 ++ bytesOf 4 w.app1 ++ zeros 40

/-- The header of a trap record (Table 13.4). -/
structure RecordHeader where
  tcause : Word
  tval : Word
  kind : Nat
  pend : Bool
  cyc : Nat
  succ : Nat
  gpos : Nat
  shalt : Bool
  deriving DecidableEq, Repr

/-- The 64 bytes of a header. -/
def RecordHeader.bytes (h : RecordHeader) : List Byte :=
  bytesOf 8 h.tcause.toNat ++ bytesOf 8 h.tval.toNat ++ bytesOf 8 (h.kind + 2 ^ 8 * bit01 h.pend) ++ bytesOf 8 h.cyc ++
  bytesOf 8 h.succ ++ bytesOf 8 h.gpos ++ bytesOf 1 (bit01 h.shalt) ++ zeros 15

/-- The X operands and V results of a list, padded to a whole number of entries. -/
def padEntries (size max : Nat) (es : List (List Byte)) : List Byte := es.flatten ++ zeros (size * (max - es.length))

/-- The bytes of a trap record (R319): those of a pantry cell end with its v registers. -/
def recordBytes (pantry : Bool) (h : RecordHeader) (l : Slot) : List Byte :=
  h.bytes ++
  streamBlock l.s 0 ++ streamBlock l.v l.vflight.length ++ streamBlock l.m 0 ++ streamBlock l.x l.xqueue.length ++
  regBytes 16 1 (fun i => Map.get 0 l.fifo i) ++ zeros 48 ++
  windowBytes l.window ++
  bytesOf 8 l.vstat.toNat ++ bytesOf 8 l.sr.mprog.toNat ++ bytesOf 8 l.sr.cslive.toNat ++ bytesOf 8 l.prio.toNat ++
  bytesOf 8 (handleImage l.attached) ++ bytesOf 8 l.sr.tvec.toNat ++ zeros 16 ++
  regBytes 8 8 (fun i => (l.s.eReg i).toNat) ++ regBytes 8 8 (fun i => (l.m.eReg i).toNat) ++ regBytes 8 8 (fun i => (l.x.eReg i).toNat) ++
  bytesOf 8 ((List.range 48).foldr (fun i acc => bit01 (l.s.qReg i) * 2 ^ i + acc) 0) ++
  bytesOf 8 ((List.range 48).foldr (fun i acc => bit01 (l.m.qReg i) * 2 ^ i + acc) 0) ++
  bytesOf 8 ((List.range 48).foldr (fun i acc => bit01 (l.x.qReg i) * 2 ^ i + acc) 0) ++ zeros 40 ++ zeros 192 ++
  regBytes 64 8 (fun i => (l.s.gReg i).toNat) ++
  regBytes 16 8 (fun i => (l.v.gReg i).toNat) ++ regBytes 16 8 (fun i => (l.m.gReg i).toNat) ++ regBytes 16 8 (fun i => (l.x.gReg i).toNat) ++
  zeros 128 ++
  regBytes 48 16 (fun i => (l.v.vqReg i).toNat) ++
  padEntries 16 16 (l.mstack.reverse.map (fun m => bytesOf 16 m.toNat)) ++
  padEntries 64 16 (l.xqueue.map XCommand.bytes) ++
  padEntries 512 32 (l.vflight.map VEntry.bytes) ++
  padEntries 8 256 (l.heap.map (fun e => bytesOf 4 e.1.toNat ++ bytesOf 4 e.2.toNat)) ++
  (if pantry then regBytes 64 128 (fun i => (Map.get 0 l.vrows i).toNat) else [])

/-- The header of a record from its bytes; none for a KIND or reserved bits that R324 rejects. -/
def RecordHeader.ofBytes (bs : List Byte) : Option RecordHeader :=
  let kind := natAt bs 16 8
  if kind % 4 = 3 ∨ kind / 4 % 64 ≠ 0 ∨ 2 ≤ kind / 256 ∨ 2 ^ 22 ≤ natAt bs 0 8 ∨ 1 < byteAt bs 48 ∨ !zeroAt bs 49 15 then none
  else some
    { tcause := BitVec.ofNat 64 (natAt bs 0 8), tval := BitVec.ofNat 64 (natAt bs 8 8), kind := kind % 4, pend := bitOf kind 8,
      cyc := natAt bs 24 8, succ := natAt bs 32 8, gpos := natAt bs 40 8, shalt := bitOf (byteAt bs 48) 0 }

/-- Registers of a map with default 0 from their images. -/
def regsFrom {w : Nat} (bs : List Byte) (off size n : Nat) : Map (BitVec w) :=
  (List.range n).foldl (fun m i => Map.put 0 m i (BitVec.ofNat w (natAt bs (off + size * i) size))) []

/-- Predicates of S, M or X from their image; q0 is not stored. -/
def predsFrom (v : Nat) : Map Bool := (List.range 48).foldl (fun m i => if i = 0 then m else Map.put false m i (bitOf v i)) []

/-- A register map without register 0, which is hard-wired (R26). -/
def noZero {α : Type} (m : Map α) : Map α := Map.drop m 0

/-- A stream restored from a record: it reads its line afresh at its resume PC (R110, R322). -/
def streamFrom (bs : List Byte) (st : Stream) (sup : Bool) (buffer : List BufferEntry) : StreamSt :=
  let o := 0x40 + 64 * st.code
  { pc := natAt bs o 8, entry := .fresh, line := Line.none, ahead := [], halted := bitOf (byteAt bs (o + 32)) 0,
    notStarted := bitOf (byteAt bs (o + 32)) 1, sup := sup, retired := BitVec.ofNat 64 (natAt bs (o + 8) 8),
    g := noZero (match st with
      | .s => regsFrom bs 0x400 8 64
      | .v => regsFrom bs 0x600 8 16
      | .m => regsFrom bs 0x680 8 16
      | .x => regsFrom bs 0x700 8 16),
    q := (match st with
      | .s => predsFrom (natAt bs 0x300 8)
      | .m => predsFrom (natAt bs 0x308 8)
      | .x => predsFrom (natAt bs 0x310 8)
      | .v => []),
    vq := (match st with
      | .v => noZero (regsFrom bs 0x800 16 48)
      | _ => []),
    l := regsFrom bs (o + 16) 4 4,
    e := (match st with
      | .s => regsFrom bs 0x240 8 8
      | .m => regsFrom bs 0x280 8 8
      | .x => regsFrom bs 0x2C0 8 8
      | .v => []),
    waiting := none, buffer := buffer }

/-- A handle with its bit 63 as a validity mark. -/
def handleFrom (v : Nat) : Option Nat := if bitOf v 63 then some (v % 2 ^ 63) else none

/-- The window state of a record; facts that the record does not hold come from the slot's own window. -/
def windowFrom (bs : List Byte) (old : Option Window) : Option Window :=
  let o := 0x180
  if !bitOf (byteAt bs (o + 10)) 0 then none
  else some
    { id := (old.map (·.id)).getD 0, block := BitVec.ofNat 64 (natAt bs o 8), w := byteAt bs (o + 8), i := byteAt bs (o + 9), verdict := bitOf (byteAt bs (o + 10)) 1,
      carryPending := bitOf (byteAt bs (o + 10)) 2, faulted := BitVec.ofNat 8 (byteAt bs (o + 11)),
      cause := (old.map (·.cause)).getD 0, accepted := (old.map (·.accepted)).getD 0, acmpAt := natAt bs (o + 24) 8,
      acmpD := byteAt bs (o + 12), body := natAt bs (o + 16) 8, at_ := (old.map (·.at_)).getD 0, pcV := natAt bs (o + 32) 8,
      pcM := natAt bs (o + 40) 8, pcX := natAt bs (o + 48) 8, handle := handleFrom (natAt bs (o + 56) 8), len0 := natAt bs (o + 64) 8,
      len1 := natAt bs (o + 72) 8, app0 := natAt bs (o + 80) 4, app1 := natAt bs (o + 84) 4,
      appends := (old.map (·.appends)).getD [] }

/-- All values of a list of options, if every one is there. -/
def allSome {α : Type} : List (Option α) → Option (List α)
  | [] => some []
  | none :: _ => none
  | some a :: t => (allSome t).map (fun l => a :: l)

/-- Entries of a fixed size from a place of the record. -/
def entriesFrom (bs : List Byte) (off size n : Nat) : List (List Byte) :=
  (List.range n).map (fun i => (bs.drop (off + size * i)).take size)

/-- Whether the reserved bytes and bits of a record are 0 (R324). -/
def reservedZero (pantry : Bool) (bs : List Byte) : Bool :=
  let block (o : Nat) : Bool := decide (byteAt bs (o + 32) < 4) && zeroAt bs (o + 33) 7 && zeroAt bs (o + 42) 22
  let fifoOk (i : Nat) : Bool :=
    if i / 4 = i % 4 ∨ (pantry ∧ (2 ≤ i / 4 ∨ 2 ≤ i % 4)) then byteAt bs (0x140 + i) == 0 else true
  let vstat := natAt bs 0x200 8
  let mprog := natAt bs 0x208 8
  let cslive := natAt bs 0x210 8
  let prio := natAt bs 0x218 8
  block 0x40 && block 0x80 && block 0xC0 && block 0x100 && natAt bs 0x68 2 == 0 && natAt bs 0xE8 2 == 0 &&
  (List.range 16).all fifoOk && zeroAt bs 0x150 48 &&
  decide (byteAt bs 0x18A < 8) && zeroAt bs 0x18D 3 && zeroAt bs 0x1D8 40 && zeroAt bs 0x230 16 &&
  decide (vstat < 2 ^ 42) && bitsOf vstat 29 3 == 0 && bitsOf vstat 8 16 == 0 && bitsOf mprog 8 16 == 0 && !bitOf mprog 6 && !bitOf mprog 1 &&
  decide (cslive < 2 ^ 42) && !bitOf cslive 20 && bitsOf (natAt bs 0x1B8 8) 12 51 == 0 &&
  decide (prio < 2 ^ 13) && bitsOf prio 5 3 == 0 && bitsOf (natAt bs 0x228 8) 0 6 == 0 && bitsOf (natAt bs 0x220 8) 12 51 == 0 &&
  decide (natAt bs 0x300 8 < 2 ^ 48) && decide (natAt bs 0x308 8 < 2 ^ 48) && decide (natAt bs 0x310 8 < 2 ^ 48) &&
  zeroAt bs 0x318 40 && zeroAt bs 0x340 192 && zeroAt bs 0x780 128

/-- A slot restored from a record (R322, step 1 and 2), or none where R324 calls the record invalid. The binding, TCAUSE and TVAL
excepted, PRIO, modes, image marks and pending causes stay as they are in the slot. -/
def slotFrom (pantry : Bool) (bs : List Byte) (old : Slot) : Option Slot :=
  let vcount := natAt bs (0x80 + 40) 2
  let xcount := natAt bs (0x100 + 40) 2
  let vstat := natAt bs 0x200 8
  let depth := bitsOf vstat 24 5
  let hcnt := bitsOf vstat 32 9
  match RecordHeader.ofBytes bs with
  | none => none
  | some h =>
    if 32 < vcount ∨ 16 < xcount ∨ 16 < depth ∨ 256 < hcnt ∨ !reservedZero pantry bs ∨
       (List.range 16).any (fun i => decide (16 < byteAt bs (0x140 + i))) then none
    else
      match allSome ((entriesFrom bs 0x1000 512 vcount).map (VEntry.ofBytes pantry)),
            allSome ((entriesFrom bs 0xC00 64 xcount).map XCommand.ofBytes) with
      | some vs, some xs =>
        let l : Slot :=
          { old with
            s := streamFrom bs .s old.s.sup old.s.buffer, v := streamFrom bs .v old.v.sup old.v.buffer
            m := streamFrom bs .m old.m.sup old.m.buffer, x := streamFrom bs .x old.x.sup old.x.buffer
            fifo := (List.range 16).foldl (fun m i => Map.put 0 m i (byteAt bs (0x140 + i))) []
            vflight := vs, mflight := none, xqueue := xs
            mstack := ((entriesFrom bs 0xB00 16 depth).map (fun e => BitVec.ofNat 128 (natOf e))).reverse
            heap := (entriesFrom bs 0x5000 8 hcnt).map (fun e => (BitVec.ofNat 32 (natAt e 0 4), BitVec.ofNat 32 (natAt e 4 4)))
            hloss := bitOf vstat 41
            vrows := if pantry then regsFrom bs 0x5800 128 64 else []
            sr := { old.sr with
              vflags := BitVec.ofNat 8 vstat, mprog := BitVec.ofNat 64 (natAt bs 0x208 8), 
              cslive := windowWord (windowOfWord (BitVec.ofNat 64 (natAt bs 0x210 8))).1 (windowOfWord (BitVec.ofNat 64 (natAt bs 0x210 8))).2
              tvec := tvecOf (BitVec.ofNat 64 (natAt bs 0x228 8)), tcause := h.tcause, tval := h.tval }
            attached := handleFrom (natAt bs 0x220 8), window := windowFrom bs old.window }
        if allStreams.any (fun p => allStreams.any (fun c => decide (16 < l.tokens p c + l.reserved p c))) then none else some l
      | _, _ => none

end Sys2Proof.Machine
end

