-- ==== Sys2Proof/Machine/Work.lean ====
section
/-! DEFINITION. The hierarchy of work (1.8): completion counters, the end of units, launches, graphs and jobs, cancellation (R37),
barriers (R192), the records of work (22.6), and the creation of jobs (R339). -/

namespace Sys2Proof.Machine

/-- Whether a partition is protected. -/
def State.isProtected (s : State) (p : Nat) : Bool := (s.partition p).enable && (s.partition p).prot

/-- Whether the engines, records and cells of a die serve a partition: a protected partition's dies serve it alone, and it uses no others
(R396). -/
def State.dieServes (s : State) (part die : Nat) : Bool :=
  match s.protector die with
  | some p => decide (p = part)
  | none => !s.isProtected part

/-- The handle that a record about a partition shows: the opaque one for a protected partition (R421). -/
def State.shownHandle (s : State) (p h : Nat) : Nat :=
  if s.isProtected p then (Config.opaqueHandle s.starts h).toNat else h

/-- Rings: 2 × function + kind, with kind 0 completion and 1 error (R439). -/
def ringNo (func kind : Nat) : Nat := 2 * func + kind

/-- Put a record into the buffer of a die (R439). -/
def State.record (s : State) (die : Nat) (r : Record) : State := s.withDie die (fun d => { d with records := d.records ++ [r] })

/-- What an error record says (Table 21.10); fields that do not apply are as `ErrorInfo.base`. -/
structure ErrorInfo where
  severity : Nat
  cls : Nat
  die : Nat
  cluster : Nat
  cell : Nat
  stream : Nat
  part : Option Nat
  handle : Nat
  reqseq : Nat
  addr : Word
  page : Nat
  pc : Nat
  deriving DecidableEq, Repr

/-- An error with no place, partition or address. -/
def ErrorInfo.base (severity cls die : Nat) : ErrorInfo :=
  { severity := severity, cls := cls, die := die, cluster := 0xFF, cell := 0xFF, stream := 0xFF, part := none, handle := 0,
    reqseq := 0, addr := 0, page := 0, pc := 0 }

/-- The 64 bytes of an error record, scrubbed for a protected partition (Table 21.10). SYNCLASS, COUNT and DATA are free values of the
record's number, since no rule names them (log entry 85). -/
def State.errorBytes (s : State) (e : ErrorInfo) : List Byte :=
  let prot := optAny e.part s.isProtected
  let p := e.part.getD 0
  bytesOf 1 1 ++ bytesOf 1 e.severity ++ bytesOf 1 e.cls ++ bytesOf 1 e.die ++ bytesOf 1 e.cluster ++ bytesOf 1 e.cell ++
  bytesOf 1 e.stream ++ bytesOf 1 (p + 128 * bit01 prot) ++ bytesOf 2 (if prot then s.shownHandle p e.handle else e.handle) ++
  bytesOf 2 (Config.errorSyndrome s.fresh).toNat ++ bytesOf 4 (Config.errorCount s.fresh).toNat ++ bytesOf 8 s.cyc ++ bytesOf 8 e.reqseq ++
  bytesOf 8 (if prot then e.addr.field 61 3 * 2 ^ 61 + e.page else e.addr.toNat) ++ bytesOf 8 (if prot then 0 else (Config.errorData s.fresh).toNat) ++
  bytesOf 8 (if prot then 0 else e.pc) ++ zeros 8

/-- Write an error record: to the PF's ring, and to the ring of the partition's VF (R439). -/
def State.error (s : State) (e : ErrorInfo) : State :=
  { s with fresh := s.fresh + 1 }.record e.die
    { bytes := s.errorBytes e
      rings := (match e.part with
        | some p => [ringNo (p + 1) 1]
        | none => []) ++ [ringNo 0 1] }

/-- Status of a completion record by the first row that applies (R438). -/
def jobStatus (reason : EndReason) (state : Nat) : Nat :=
  match reason with
  | .memlost => 5
  | .reset => 4
  | .deadline => 3
  | .plain => if state = 2 then 1 else if state = 3 then 2 else 0

/-- The 32 bytes of a completion record (R438). -/
def State.completionBytes (s : State) (h : Nat) (source : JobSource) (status cause seq : Nat) : List Byte :=
  let m := s.mc h
  bytesOf 2 (s.shownHandle m.part h) ++
  bytesOf 1 (match source with
    | .queue _ => 1
    | _ => 0) ++
  bytesOf 1 status ++ bytesOf 1 cause ++ zeros 3 ++
  bytesOf 8 (match source with
    | .queue i => i
    | _ => seq) ++
  bytesOf 8 s.cyc ++ zeros 8

/-- Write a completion record to the ring of the partition's VF, through the home die's buffer (R438, R439). -/
def State.complete (s : State) (h : Nat) (source : JobSource) (status cause seq : Nat) : State :=
  s.record (s.mc h).home { bytes := s.completionBytes h source status cause seq, rings := [ringNo ((s.mc h).part + 1) 0] }

/-- The STATE that ends a level with children that ended badly, and its cancel mark (R36). -/
def endState (cancelled : Bool) (bad : Nat) : Nat := if cancelled then 2 else if bad ≠ 0 then 3 else 1

/-- A counter that runs ends when it is closed, has children, and every child has ended (R36). -/
def Counter.settle (c : Counter) : Counter :=
  if c.state = 0 ∧ c.closed = true ∧ 1 ≤ c.launched ∧ c.ended = c.launched then { c with state := endState c.cancelled c.bad } else c

/-- One child of a counter has ended (R36). -/
def Counter.childEnds (c : Counter) (bad : Bool) : Counter :=
  if c.state ≠ 0 then c else { c with ended := c.ended + 1, bad := c.bad + bit01 bad }.settle

/-- A counter is closed: no more children come (Table 1.12). -/
def Counter.close (c : Counter) : Counter := { c with closed := true }.settle

/-- A counter counts one child more (R194, Table 1.12). -/
def Counter.more (c : Counter) : Counter := { c with launched := c.launched + 1 }

/-- A counter as software reads it (Table 1.13). -/
def counterWord (state launched ended : Nat) : Word := BitVec.ofNat 64 (state * 2 ^ 62 + launched * 2 ^ 30 + ended)

/-- A counter as software reads it. -/
def Counter.word (c : Counter) : Word := counterWord c.state c.launched c.ended

/-- A launch's counter as software reads it. -/
def Launch.word (l : Launch) : Word := counterWord l.state l.units.length l.ended

/-- Whether a unit takes no further part. -/
def UnitStatus.isEnded : UnitStatus → Bool
  | .ended _ => true
  | _ => false

/-- Whether a unit waits for a place: not yet bound, or out of its cell. -/
def UnitStatus.wantsPlace : UnitStatus → Bool
  | .waiting => true
  | .saved _ => true
  | _ => false

/-- The slot of a bound unit. -/
def UnitStatus.place : UnitStatus → Option SlotId
  | .bound u => some u
  | _ => none

/-- Whether a unit counts as arrived in a phase of a barrier (R192): it arrived in it, or it has completed (R18). An arrival belongs to the
team (R193), so it stands when its unit has been ended. -/
def arrivedIn (b : Barrier) (i : Nat) (u : UnitSt) : Bool :=
  decide (Map.find b.arrived i = some b.phase) || (match u.status with
    | .ended how => decide (how = 1 ∨ how = 2)
    | _ => false)

/-- Complete the current phase of every barrier in which every participant has arrived (R192); each completion closes an interval
(R298). A barrier at which no live unit has arrived waits. -/
def Launch.settleBarriers (l : Launch) : Launch :=
  let parts := l.units.zipIdx
  let full (b : Barrier) : Bool :=
    parts.all (fun e => arrivedIn b e.2 e.1) && parts.any (fun e => decide (Map.find b.arrived e.2 = some b.phase) && !e.1.status.isEnded)
  { l with
    barriers := l.barriers.map (fun e => if full e.2 then (e.1, { e.2 with phase := e.2.phase + 1 }) else e)
    interval := l.interval + (l.barriers.filter (fun e => full e.2)).length }

/-- Give the granules of a unit's share to the micro-context of a bound unit that waits for them (R43): the bytes are cleared unless
that micro-context held them last. -/
def State.takeGranule (s : State) (g handle : Nat) : State :=
  let r := Map.get Granule.blank s.granules g
  if r.holder.isSome then s
  else
    let s1 := if r.last = some handle then s else s.wipe (clusterStoreAt (g / 8) + g % 8 * 2 ^ 20) (2 ^ 20)
    { s1 with granules := Map.put Granule.blank s1.granules g { holder := some handle, last := some handle } }

/-- The micro-contexts whose bound units' shares hold a granule, other than one unit's, earliest bound first. -/
def State.claimants (s : State) (g : Nat) (out : UnitRef) : List Nat :=
  let cells := s.cells.flatMap (fun e => [e.2.h0.bound, e.2.h1.bound])
  let bs := cells.filterMap (fun o => match o with
    | some b => if b.unit ≠ out ∧ b.base ≤ g ∧ g < b.base + b.size then some b else none
    | none => none)
  (bs.foldl (fun best b => match best with
    | none => some b
    | some x => if b.boundAt < x.boundAt then some b else some x) none : Option Binding).toList.map (·.handle)

/-- A unit stops holding a granule (R43): it stays with its micro-context while another of its units shares it; otherwise the unit
that has waited longest starts holding it. -/
def State.leaveGranule (s : State) (b : Binding) (g : Nat) : State :=
  let r := Map.get Granule.blank s.granules g
  if r.holder ≠ some b.handle then s
  else
    let again := s.cells.any (fun e => [e.2.h0.bound, e.2.h1.bound].any (fun o => match o with
      | some x => decide (x.unit ≠ b.unit ∧ x.handle = b.handle ∧ x.base ≤ g ∧ g < x.base + x.size)
      | none => false))
    if again then s
    else
      let s1 := { s with granules := Map.put Granule.blank s.granules g { r with holder := none } }
      match s1.claimants g b.unit with
      | h :: _ => s1.takeGranule g h
      | [] => s1

/-- A unit stops holding its share of the cluster store (R43). -/
def State.leaveShare (s : State) (cell : Nat) (b : Binding) : State :=
  (b.shares (isPantry cell)).foldl (fun s g => s.leaveGranule b g) s

/-- The tiles that a slot owns are zeroed, their poison is cleared and HELD is set to 0 (R333); DIRTY and OWN stay as they are (R379). -/
def CellSt.releaseTiles (c : CellSt) (h1 : Bool) : CellSt :=
  let f (t : Tile) : Tile := if t.held && decide (t.own = h1) then { t with rows := [], poison := 0, held := false } else t
  { c with a0 := f c.a0, a1 := f c.a1 }

/-- Note a cell's last unit when a unit leaves it: the one that stays in the other slot, if any (R42). -/
def State.noteLast (s : State) (u : SlotId) : State :=
  s.withCell u.cell (fun c =>
    match (c.slot (!u.h1)).bound.or (c.slot u.h1).bound with
    | some b => { c with lastUnit := some b.unit, lastMc := some b.handle }
    | none => c)

/-- A stream of a slot that holds no unit any more: halted, with the registers as the unit left them (R385; log entry 100) and the
translation buffer (R55). -/
def StreamSt.left (t : StreamSt) : StreamSt :=
  { StreamSt.blank with retired := t.retired, g := t.g, q := t.q, vq := t.vq, l := t.l, e := t.e, buffer := t.buffer }

/-- Empty a slot: nothing is bound, tokens left are discarded (R18), its tiles and share are released. Its registers stay as the unit left
them (R391; log entry 100), and no instruction reads them. A unit in the other slot runs after the next switch (R345). -/
def State.vacate (s : State) (u : SlotId) : State :=
  match (s.slot u).bound with
  | none => s
  | some b =>
    let s1 := ((s.noteLast u).withCell u.cell (fun c => c.releaseTiles u.h1)).withSlot u (fun l =>
      { Slot.blank with s := l.s.left, v := l.v.left, m := l.m.left, x := l.x.left, vrows := l.vrows, sr := l.sr, mstack := l.mstack
                        heap := l.heap, hloss := l.hloss, hpopped := l.hpopped })
    s1.leaveShare u.cell b

/-- Whether a micro-context has a launch that waits for a group, or a job that is still to begin and none in progress, and whether it has a
bound unit (Table 14.2). -/
def State.demands (s : State) (h : Nat) : Bool × Bool :=
  let m := s.mc h
  let ls := (Map.vals s.launches).filter (fun l => decide (l.mc = h) && decide (l.state = 0))
  (ls.any (fun l => l.units.any (fun u => u.status.wantsPlace) && l.contOf.isNone) || (m.job.isNone && !m.waiting.isEmpty),
   ls.any (fun l => l.units.any (fun u => u.status.place.isSome)))

/-- The priority ceiling of a micro-context's partition (R347). -/
def State.ceiling (s : State) (h : Nat) : Nat := (s.partition (s.mc h).part).ceil

/-- Bring STATE of a micro-context into line with its work (Table 14.2): a micro-context that becomes READY counts its age from this
cycle (R346), and takes this cycle as READYAT unless a pre-emption made it ready (R344). -/
def State.settleMc (s : State) (h : Nat) (preempted : Bool) : State :=
  let m := s.mc h
  match m.state with
  | .invalid => s
  | .drain => s
  | _ =>
    let (wants, holds) := s.demands h
    if wants then
      if m.state = .ready then s
      else s.withMc h (fun m =>
        { m with state := .ready, risenAt := s.cyc, readyAt := if preempted then m.readyAt else s.cyc
                 level := if m.state = .idle then min m.base (s.ceiling h) else m.level })
    else if holds then s.withMc h (fun m => { m with state := .bound })
    else if m.job.isSome then s
    else s.withMc h (fun m => { m with state := .idle, level := min m.base (s.ceiling h) })

/-- Binding facts for accesses that an engine or the Ladle makes for a micro-context, in user mode (R285, R356, R434). -/
def State.mcBinding (s : State) (h : Nat) : Binding :=
  let m := s.mc h
  { unit := { launch := 0, index := 0 }, handle := h, home := m.home, part := m.part, prot := s.isProtected m.part, base := 0, size := 0,
    root := m.root, keySlot := m.keySlot, windows := m.windows, area := 0, boundAt := 0 }

/-- The number of a byte that an engine reaches for a micro-context in space 0 or 5 (R47 to R54), by a walk. -/
def State.mcPlace (s : State) (h : Nat) (kind : Access) (a : Word) : Except Stop Nat :=
  let b := s.mcBinding h
  if space a = 0 then
    if rankField a ≠ 0 then .error (trap0 causeSpace a)
    else
      match s.walk b.part b.root (offset a) with
      | .error sub => .error (.trap (walkTrap sub a))
      | .ok (lv, e) =>
        let pa := pageBase lv e + offset a % pageSize lv e
        match s.leafCheck b true kind pa e a with
        | .error x => .error x
        | .ok () => .ok (if bitOf e 7 then hostAt pa else pa)
  else if space a = 5 then
    match b.windows[rankField a]? with
    | none => .error (trap0 causeSpace a)
    | some (base, size) =>
      let k := dieStoreAt (rankField a) + base * 2 ^ 21 + offset a
      if size * 2 ^ 21 ≤ offset a then .error (trap0 causeSpace a)
      else if s.protectedFrom b.part k then .error (.trap { cause := causePerm, sub := 1, tval := a }) else .ok k
  else .error (trap0 causeSpace a)

/-- Numbers of n bytes that an engine reaches for a micro-context, each byte checked. -/
def State.mcPlaces (s : State) (h : Nat) (kind : Access) (a : Word) : Nat → Except Stop (List Nat)
  | 0 => .ok []
  | n + 1 =>
    match s.mcPlace h kind a with
    | .error e => .error e
    | .ok k =>
      match s.mcPlaces h kind (a + 1) n with
      | .error e => .error e
      | .ok ks => .ok (k :: ks)

/-- Count an access that a die's mechanisms make for a micro-context (R404). -/
def State.mcCount (s : State) (h : Nat) (kind : Access) (a : Word) (n : Nat) : State :=
  match s.mcPlaces h kind a n with
  | .ok ks => s.countEach ks
  | .error (.trap t) => s.countFault (s.mcBinding h) t
  | .error _ => s

/-- Whether every cell of a group of 2^g cells from a base lies in a partition, with no fenced cluster (R341, R443). -/
def State.groupInPartition (s : State) (p base g : Nat) : Bool :=
  (List.range (2 ^ g)).all (fun i =>
    let c := base + i
    bitOf (s.partition p).clusters (clusterNumber c) && !bitOf (s.die (dieOf c)).fencedClusters (clusterOf c))

/-- Whether a partition holds an unfenced group of 2^g cells (R195, R443). -/
def State.holdsGroup (s : State) (p g : Nat) : Bool :=
  decide (g ≤ 9) && (List.range (2 ^ (9 - g))).any (fun k => s.groupInPartition p (k * 2 ^ g) g)

/-- A launch record from its 64 bytes (Table 6.2). -/
def LaunchRec.ofBytes (bs : List Byte) : LaunchRec :=
  { sentry := natAt bs 0 8, ventry := natAt bs 8 8, mentry := natAt bs 16 8, xentry := natAt bs 24 8,
    param := BitVec.ofNat 64 (natAt bs 32 8), items := natAt bs 40 8, gsize := byteAt bs 48, pantry := bitOf (byteAt bs 49) 0 }

/-- Whether a launch record is invalid, apart from the rule for LAUNCH.cont (R195). -/
def State.recordInvalid (s : State) (p : Nat) (bs : List Byte) : Bool :=
  let r := LaunchRec.ofBytes bs
  decide (r.sentry = 0) || decide (2 ≤ byteAt bs 49) || !zeroAt bs 50 14 || decide (9 < r.gsize) || !s.holdsGroup p r.gsize ||
  decide (r.items = 0) ||
  (r.pantry && (decide (r.gsize ≠ 0) || decide (r.mentry ≠ 0) || decide (r.xentry ≠ 0)))

/-- A unit of a launch that has not bound. -/
def UnitSt.blank : UnitSt :=
  { status := .waiting, area := none, cancel := false, deadline := false, modes := [false, false, false, false], hpopped := 0,
    submitted := none, left := none, mpoison := 0, tookCancel := false, cancelOrder := 0 }

/-- A unit that ended as cancelled before it was bound. -/
def UnitSt.cancelled (u : UnitSt) : UnitSt := { u with status := .ended 4, area := none }

/-- A launch of a graph of a job that waits for a group. -/
def newLaunch (n mc job graph : Nat) (r : LaunchRec) (order cyc : Nat) : Launch :=
  { handle := (Config.launchTag n) ++ BitVec.ofNat 32 n, mc := mc, job := job, graph := graph, record := r, units := List.replicate (2 ^ r.gsize) UnitSt.blank,
    group := none, barriers := [], interval := 0, cancelled := false, ended := 0, badEnds := 0, state := 0, device := false, quota := false,
    pool := false, contOf := none, contTaken := false, order := order, readyAt := cyc, boundAt := 0, request := none,
    wants := none }

/-- A counter at its creation without a child. -/
def Counter.empty : Counter := { state := 0, launched := 0, ended := 0, bad := 0, cancelled := false, closed := false }

/-- A counter at its creation with one child to come, closed at once. -/
def Counter.one : Counter := { state := 0, launched := 1, ended := 0, bad := 0, cancelled := false, closed := true }

/-- A counter at its creation with one child to come, closed at once unless the runtime keeps it open. -/
def Counter.first (open_ : Bool) : Counter := { Counter.one with closed := !open_ }

/-- Free the ring slot of a request (R338). -/
def freeRingSlot (m : MicroContext) (source : JobSource) : MicroContext :=
  match source with
  | .request k => { m with ring := m.ring.filter (fun j => j != k) }
  | _ => m

/-- Whether the buffer of records of a die is full and records of a partition wait in it, so that the Ladle starts no job of that
partition (R9, R439). -/
def State.bufferFull (s : State) (die part : Nat) : Bool :=
  let rs := (s.die die).records
  decide (4096 ≤ rs.length) && rs.any (fun r => r.rings.any (fun k => decide (k / 2 = part + 1)))

/-- Raise the urgency of the segments registered on a frame to at least u (R61, R286). -/
def State.urge (s : State) (frame u : Nat) : State :=
  let die := homeDie (frame * 2 ^ 21)
  { s with segments := Map.alter s.segments die (fun es =>
      es.map (fun e => if e.frame = frame then { e with urgency := max e.urgency u } else e)) }

/-- One access more has parked, or one SEGWT waits: PARKS saturates at 32 bits (R61, R286). -/
def State.countPark (s : State) (h : Nat) : State := s.withMc h (fun m => { m with parks := min (m.parks + 1) (2 ^ 32 - 1) })

/-- A graph of a job; a number that names none stands for a graph of one launch. -/
def Job.graph (j : Job) (g : Nat) : Graph := j.graphs.getD g { phase := 0, count := Counter.one }

/-- A phase of a job. -/
def Job.phase (j : Job) (p : Nat) : Counter := j.phases.getD p Counter.empty

/-- The counter of level 2, 3 or 4 around a launch of graph g. -/
def Job.counter (j : Job) (g level : Nat) : Counter :=
  if level = 2 then (j.graph g).count else if level = 3 then j.phase (j.graph g).phase else j.job

/-- Change a phase of a job: where it ends, the job counts it (R36). -/
def Job.withPhase (j : Job) (p : Nat) (f : Counter → Counter) : Job :=
  let j1 := { j with phases := j.phases.mapIdx (fun i c => if i = p then f c else c) }
  if (j.phase p).state = 0 ∧ (j1.phase p).state ≠ 0 then { j1 with job := j1.job.childEnds (decide ((j1.phase p).state ≠ 1)) } else j1

/-- Change a graph of a job: where it ends, its phase counts it (R36). -/
def Job.withGraph (j : Job) (g : Nat) (f : Counter → Counter) : Job :=
  let j1 := { j with graphs := j.graphs.mapIdx (fun i x => if i = g then { x with count := f x.count } else x) }
  let x := j1.graph g
  if (j.graph g).count.state = 0 ∧ x.count.state ≠ 0 then j1.withPhase x.phase (fun c => c.childEnds (decide (x.count.state ≠ 1))) else j1

/-- A job that begins, with a phase of one graph; it and its phase are closed at once, unless the runtime keeps them open (R339). -/
def newJob (h : Nat) (p : PendingJob) (open_ : Bool) : Job :=
  { mc := h, source := p.source, lrec := p.lrec, param := p.param, graphs := [{ phase := 0, count := Counter.one }], phases := [Counter.first open_], job := Counter.first open_,
    deadline := p.deadline, everBound := false, route := p.route, port := p.port, seq := p.seq, failCause := 0, failOrder := 0 }

/-- Whether a job comes from an entry of a queue. -/
def JobSource.isQueue : JobSource → Bool
  | .queue _ => true
  | _ => false

/-- The 64 bytes of a launch record at an address of a micro-context. -/
def State.recordAt (s : State) (h : Nat) (a : Word) : Except Stop (List Byte) :=
  match s.mcPlaces h .load a 64 with
  | .error e => .error e
  | .ok ks => if ks.any (fun k => decide (hostAt 0 ≤ k)) && s.linkHeld (s.mc h).part .load then .error .hold else .ok (s.loadEach ks)

/-- Whether a deadline has passed before this cycle (R348). -/
def State.passed (s : State) (deadline : Option Nat) : Bool := optAny deadline (fun d => decide (d < s.cyc))

/-- A micro-context whose job has missed its deadline without having been bound, if it has (R348). -/
def MicroContext.missed (m : MicroContext) (late : Bool) : MicroContext := if late then { m with dlmiss := min (m.dlmiss + 1) (2 ^ 32 - 1) } else m

/-- A job that cannot begin fails at once, with its completion record (R339): DEADLINE where its deadline has passed (R438). -/
def State.failStart (s : State) (h : Nat) (p : PendingJob) (cause : Nat) : State :=
  let late := s.passed p.deadline
  (s.complete h p.source (if late then 3 else 2) cause p.seq).withMc h (fun m => (freeRingSlot m p.source).missed late)

/-- The first waiting job of a micro-context begins (R339): its launch record has been read, or the read faulted; an invalid record fails
the job. Its launch starts waiting, from which cycle the level rises (R346). -/
def State.startJob (s : State) (h : Nat) (p : PendingJob) (record : Except Nat (List Byte)) : State :=
  let m := s.mc h
  match record with
  | .error cause => s.failStart h p cause
  | .ok bs =>
    if s.recordInvalid m.part bs then s.failStart h p 0
    else
      let (ln, s1) := s.next
      let r := LaunchRec.ofBytes bs
      let r1 := { r with param := (match p.source with
        | .stream => r.param
        | _ => p.param) }
      let s2 := { s1 with
        jobs := Map.set s1.jobs p.id (newJob h p (m.batch && p.source.isQueue))
        launches := Map.set s1.launches ln (newLaunch ln h p.id 0 r1 ln s.cyc) }
      (s2.withMc h (fun m => { m with job := some p.id, risenAt := s.cyc })).settleMc h false

/-- The read of the launch record of the first waiting job parks (R61): the park counts once, the segment's urgency is raised to 7
(R286), and the job waits. -/
def State.parkRecord (s : State) (h : Nat) (p : PendingJob) (frame : Nat) : State :=
  if p.parked then s
  else
    ((s.countPark h).urge frame 7).withMc h (fun m =>
      { m with waiting := m.waiting.mapIdx (fun i q => if i = 0 then { q with parked := true } else q) })

/-- Start waiting jobs of a micro-context until one is in progress (R339). -/
def State.startJobs (s : State) (h : Nat) : Nat → State
  | 0 => s
  | n + 1 =>
    let m := s.mc h
    if m.job.isSome ∨ m.state = .invalid ∨ m.state = .drain ∨ s.bufferFull m.home m.part ∨
       optAny s.migration (fun g => decide (g.handle = h)) then s
    else
      match m.waiting with
      | [] => s
      | p :: rest =>
        let s1 := s.withMc h (fun m => { m with waiting := rest })
        let s2 := s1.mcCount h .load p.lrec 64
        match s.recordAt h p.lrec with
        | .error (.park f) => s.parkRecord h p f
        | .error .hold => s
        | .error (.trap t) => (s2.startJob h p (.error t.cause)).startJobs h n
        | .ok bs => (s2.startJob h p (.ok bs)).startJobs h n

/-- Begin whatever waits at a micro-context, and bring its state into line. -/
def State.serve (s : State) (h : Nat) : State :=
  let s1 := s.startJobs h ((s.mc h).waiting.length)
  s1.settleMc h false

/-- A job has ended: its one completion record (R438), its ring slot is free, its launches' handles name nothing any more (R194), its
level is that of its start (R346), and the micro-context turns to what waits, as one that has been IDLE. -/
def State.jobEnds (s : State) (jn : Nat) : State :=
  match Map.find s.jobs jn with
  | none => s
  | some j =>
    let h := j.mc
    let reason := Map.get .plain s.reasons jn
    let late := decide (reason = .plain) && s.passed j.deadline
    let status := jobStatus (if late then .deadline else reason) j.job.state
    let s1 := s.complete h j.source status j.failCause j.seq
    let mine := s1.launches.filter (fun e => decide (e.2.job = jn))
    let s2 := { s1 with
      jobs := Map.drop s1.jobs jn
      finished := Map.set s1.finished jn { job := j, launches := mine.map (fun (e : Nat × Launch) => (e.1, e.2.word)) }
      reasons := Map.drop s1.reasons jn
      launches := s1.launches.filter (fun e => decide (e.2.job ≠ jn))
      jobsDone := if status = 0 then Map.put 0 s1.jobsDone (32 * (s.mc h).home + (s.mc h).part)
                    (Map.get 0 s1.jobsDone (32 * (s.mc h).home + (s.mc h).part) + 1) else s1.jobsDone }
    (s2.withMc h (fun m =>
      { (freeRingSlot m j.source).missed (late && !j.everBound) with
        job := none, level := min m.base (s.ceiling h), state := if m.state = .ready ∨ m.state = .bound then .idle else m.state })).serve h

/-- A job whose counter has reached its final state ends. -/
def State.settleJob (s : State) (jn : Nat) : State :=
  match Map.find s.jobs jn with
  | some j => if j.job.state ≠ 0 then s.jobEnds jn else s.settleMc j.mc false
  | none => s

/-- A launch has ended with a STATE: its graph, phase and job count it in turn (R36), its LAUNCH.cont may
bind or is cancelled (R196; log entry 93). -/
def State.launchEnds (s : State) (n : Nat) (l : Launch) (state : Nat) : State :=
  let cont := s.launches.find? (fun e => decide (e.2.contOf = some n) && decide (e.2.state = 0))
  let s1 := s.withLaunch n (fun l => { l with state := state, quota := false, pool := false, wants := none })
  let s2 := match cont with
    | none => s1
    | some (k, c) =>
      if state = 1 then s1.withLaunch k (fun c => { c with contOf := none, group := l.group })
      else
        let ended (c : Launch) : Launch :=
          { c with state := 2, ended := c.units.length, units := c.units.map UnitSt.cancelled }
        (s1.withLaunch k ended).withJob c.job (fun j => j.withGraph c.graph (·.childEnds true))
  (s2.withJob l.job (fun j => j.withGraph l.graph (·.childEnds (decide (state ≠ 1))))).settleJob l.job

/-- A launch whose units have all ended, ends (R36). -/
def State.settleLaunch (s : State) (n : Nat) : State :=
  match Map.find s.launches n with
  | some l =>
    if l.state = 0 ∧ l.ended = l.units.length then s.launchEnds n l (endState l.cancelled l.badEnds) else s.settleMc l.mc false
  | none => s

/-- The order stamp of the trap by which the unit of a slot ends: of CANCEL where it completed after it, else of the last trap (R438). -/
def Slot.endOrder (l : Slot) (how : Nat) : Nat := if how = 2 then l.cancelOrder else l.lastTrap

/-- A job notes the cause by which a unit of it has ended badly, if that trap was taken first (R438). -/
def Job.noteFail (j : Job) (cause order : Nat) : Job :=
  if cause ≠ 0 ∧ (j.failCause = 0 ∨ order < j.failOrder) then { j with failCause := cause, failOrder := order } else j

/-- A launch no unit of which is bound any more gives up its group: units that are saved wait for one again (R342). -/
def Launch.settleGroup (l : Launch) : Launch :=
  if l.state = 0 ∧ l.units.any (fun u => u.status.wantsPlace) ∧ !l.units.any (fun u => u.status.place.isSome) then
    { l with group := none, request := none } else l

/-- A unit ends: 1 completed, 2 completed after CANCEL, 3 failed, 4 cancelled without completing (R18, R36, R37), with the cause that its
job's record may show (R438). Its slot is freed, its results are discarded (R203), and its launch counts it. -/
def State.endUnit (s : State) (r : UnitRef) (how cause : Nat) : State :=
  match s.unit r with
  | none => s
  | some u =>
    if u.status.isEnded then s
    else
      let s1 := match u.status.place with
        | some sl => s.vacate sl
        | none => s
      let s2 := { s1 with results := s1.results.filter (fun x => decide (x.unit ≠ r)) }
      let order := match u.status.place with
        | some sl => (s.slot sl).endOrder how
        | none => s.fresh
      let s3 := (s2.withUnit r (fun u => { u with status := .ended how, area := none })).withLaunch r.launch (fun l =>
        { l with ended := l.ended + 1, badEnds := l.badEnds + (if how = 1 then 0 else 1) }.settleGroup)
      let s4 := s3.withLaunch r.launch (fun l => l.settleBarriers)
      let s5 := match Map.find s4.launches r.launch with
        | some l => s4.withJob l.job (fun j => if how = 1 then j else j.noteFail cause order)
        | none => s4
      s5.settleLaunch r.launch

/-- A launch that has not bound ends as cancelled (R37): its pool entry or its charge to the quota becomes free. The launch whose cont
launch it was makes no second one (R196). -/
def State.cancelPending (s : State) (n : Nat) : State :=
  match Map.find s.launches n with
  | some l =>
    if l.units.all (fun u => decide (u.status = .waiting)) then
      (s.withLaunch n (fun l =>
        { l with ended := l.units.length, cancelled := true, contOf := none, units := l.units.map UnitSt.cancelled })).settleLaunch n
    else s
  | none => s

/-- Deliver CANCEL (or DEADLINE) to a unit: pending in its slot, or kept for its resume (R37, R327). -/
def State.signal (s : State) (r : UnitRef) (deadline : Bool) : State :=
  match s.unit r with
  | none => s
  | some u =>
    match u.status with
    | .bound sl => s.withSlot sl (fun l => if deadline then { l with deadline := true } else { l with cancel := true })
    | .saved _ => s.withUnit r (fun u => if deadline then { u with deadline := true } else { u with cancel := true })
    | _ => s

/-- Deliver CANCEL or DEADLINE to every unit of a launch. -/
def State.signalLaunch (s : State) (n : Nat) (deadline : Bool) : State :=
  match Map.find s.launches n with
  | some l => (List.range l.units.length).foldl (fun s i => s.signal { launch := n, index := i } deadline) s
  | none => s

/-- CANCEL reaches a launch, of its own level or of one around it: its units, or its place among the pending launches (R37). A launch
removed before it binds ends as cancelled. -/
def State.cancelLaunch (s : State) (n : Nat) (own : Bool) : State :=
  match Map.find s.launches n with
  | some l =>
    if l.state ≠ 0 then s
    else if l.units.all (fun u => decide (u.status = .waiting)) then s.cancelPending n
    else (s.withLaunch n (fun l => { l with cancelled := l.cancelled || own })).signalLaunch n false
  | none => s

/-- The launches of a job, and those of them that lie within the level around graph g. -/
def State.launchesOf (s : State) (jn : Nat) : List Nat := (s.launches.filter (fun e => decide (e.2.job = jn))).map (·.1)
def State.launchesIn (s : State) (jn : Nat) (j : Job) (g level : Nat) : List Nat :=
  (s.launches.filter (fun e => decide (e.2.job = jn) && (decide (level = 4) || decide (e.2.graph = g) ||
    (decide (level = 3) && decide ((j.graph e.2.graph).phase = (j.graph g).phase))))).map (·.1)

/-- A counter takes a cancel mark unless its level has ended (R37). -/
def Counter.mark (c : Counter) : Counter := if c.state = 0 then { c with cancelled := true } else c

/-- Mark the level around graph g of a job, by its code 2 graph, 3 phase, 4 job (Table 1.12). -/
def Job.mark (j : Job) (g level : Nat) : Job :=
  if level = 2 then j.withGraph g Counter.mark
  else if level = 3 then j.withPhase (j.graph g).phase Counter.mark
  else { j with job := j.job.mark }

/-- Whether a level around graph g carries a cancel mark, so that launches created in it are cancelled before they bind (R37). -/
def Job.marked (j : Job) (g : Nat) : Bool := (j.counter g 2).cancelled || (j.counter g 3).cancelled || (j.counter g 4).cancelled

/-- CANCEL takes effect on the graph, phase or job around graph g (R37). -/
def State.cancelJob (s : State) (jn g level : Nat) : State :=
  match Map.find s.jobs jn with
  | none => s
  | some j => (s.launchesIn jn j g level).foldl (fun s n => s.cancelLaunch n false) (s.withJob jn (fun j => j.mark g level))

/-! ### The runtime (Tables 1.12 and 1.14) -/

/-- Nothing more is added to a job: its phases and the job are closed. -/
def Job.close (j : Job) : Job :=
  let j1 := (List.range j.phases.length).foldl (fun j p => j.withPhase p Counter.close) j
  { j1 with job := j1.job.close }

/-- Nothing more is added to a job, whose counter may end by it. -/
def State.closeJob (s : State) (jn : Nat) : State := (s.withJob jn Job.close).settleJob jn

/-- The runtime starts a graph in an open phase of a job, with a launch: where its record cannot be read or is invalid, it does not. -/
def State.addGraph (s0 : State) (jn : Nat) (j : Job) (p : Nat) (lrec param : Word) : State :=
  let s := s0.mcCount j.mc .load lrec 64
  match s0.recordAt j.mc lrec with
  | .error _ => s
  | .ok bs =>
    if s.recordInvalid (s.mc j.mc).part bs then s
    else
      let (ln, s1) := s.next
      let g := j.graphs.length
      let l := newLaunch ln j.mc jn g { LaunchRec.ofBytes bs with param := param } ln s.cyc
      let s2 := { s1 with launches := Map.set s1.launches ln l }
      let s3 := s2.withJob jn (fun (j : Job) => Job.withPhase { j with graphs := j.graphs ++ [{ phase := p, count := Counter.one }] } p Counter.more)
      if (j.phase p).cancelled || j.job.cancelled || decide (Map.get .plain s.reasons jn ≠ .plain) then s3.cancelPending ln
      else s3.settleMc j.mc false

/-- What the runtime does with a job that is not closed; on a closed or ended level it has no effect. -/
def State.runtimeActs (s : State) (jn : Nat) (op : RunOp) : State :=
  match Map.find s.jobs jn with
  | none => s
  | some j =>
    let live (p : Nat) : Bool := decide (p < j.phases.length) && !(j.phase p).closed && decide ((j.phase p).state = 0)
    match op with
    | .addPhase => if j.job.closed ∨ j.job.state ≠ 0 then s
        else s.withJob jn (fun (j : Job) => { j with phases := j.phases ++ [Counter.empty], job := j.job.more })
    | .addGraph p lrec param => if live p then s.addGraph jn j p lrec param else s
    | .closePhase p => if live p then (s.withJob jn (fun j => j.withPhase p Counter.close)).settleJob jn else s
    | .closeJob => if j.job.closed then s else (s.withJob jn (fun j => { j with job := j.job.close })).settleJob jn

end Sys2Proof.Machine
end

