-- ==== Sys2Proof/Machine/Ops.lean ====
section
/-! DEFINITION. The operations that instructions share: lines and program counters (4.1 to 4.3), taking a trap and returning from one
(R314, R322), the landing of V results (R210), and the issue of an instruction: waits, posts, guard, retirement (R17 to R20, R119). -/

namespace Sys2Proof.Machine

/-- The link word of a line (Table 4.1). -/
def Line.link (l : Line) : Nat := bitsOf l.data.toNat 0 32
def Line.owner (l : Line) : Nat := bitsOf l.link 30 2
def Line.next (l : Line) : Int := signed 25 (bitsOf l.link 5 25)
def Line.last (l : Line) : Bool := bitOf l.link 4
def Line.count (l : Line) : Nat := bitsOf l.link 0 4

/-- Instruction word w of a line (R103). -/
def Line.word (l : Line) (w : Nat) : Nat := bitsOf l.data.toNat (32 + 32 * w) 32

/-- The words in use of a line from word w on. -/
def Line.wordsFrom (l : Line) (w : Nat) : List Nat := (List.range (l.count - w)).map (fun i => l.word (w + i))

/-- The index in its line of the word at a code address (R104). -/
def wordIndex (pc : Nat) : Nat := (pc % 64 - 4) / 4

/-- Word 0 of the line that a line's link names; 0 where that line lies outside [0, 2^57 − 64] (R106, R172). -/
def Line.nextPc (l : Line) : Nat :=
  let t := (l.va : Int) + 64 * l.next
  if 0 ≤ t ∧ t ≤ 2 ^ 57 - 64 then t.toNat + 4 else 0

/-- The successor of the instruction of n words at word w of a line, by the link rule of R172; and whether it is the halt of a line
with LAST set (R206). -/
def Line.successor (l : Line) (w n : Nat) : Nat × Bool :=
  if w + n < l.count then (l.va + 4 + 4 * (w + n), false)
  else if l.last then (0, true)
  else (l.nextPc, false)

/-- A trap's cause and subcode with a number as TVAL. -/
def trapAt (cause sub tval : Nat) : TrapInfo := { cause := cause, sub := sub, tval := BitVec.ofNat 64 tval }

/-- The check of an operand or a saved pc as a code address (R104). -/
def codeAddressFault (a : Nat) : Option TrapInfo :=
  if bitsOf a 61 3 ≠ 0 then some (trapAt causeSpace 0 a)
  else if a % 4 ≠ 0 ∨ a % 64 < 4 then some (trapAt causeAlign 0 a)
  else none

/-- Read a line and make the checks of rows 1 and 2 of Table 4.6 (R106). -/
def State.readLine (s : State) (c : Cursor) (va : Nat) : Except Stop Line :=
  if 2 ^ 57 ≤ va + 63 then .error (.trap (trapAt causeSpace 0 va))
  else
    match s.virtual c (s.binding c.slot) .fetch va (BitVec.ofNat 64 va) with
    | .error e => .error e
    | .ok k =>
      let l : Line := { va := va, data := BitVec.ofNat 512 (natOf (s.load k 64)) }
      if l.owner ≠ c.stream.code then .error (.trap (trapAt causeIllstream 1 va)) else .ok l

/-- Count a fetch from a line of memory whose slot holds no key (R404). -/
def State.fetched (s : State) (c : Cursor) (va : Nat) : State :=
  match s.virtual c (s.binding c.slot) .fetch va (BitVec.ofNat 64 va) with
  | .ok k => s.countLoad k
  | .error _ => s

/-- Enter the line of a code address at its word, as a taken branch or a resume does (rows 1 to 3, R109): the word must lie below
COUNT. -/
def State.enterAt (s : State) (c : Cursor) (pc : Nat) : Except Stop Line :=
  match s.readLine c (alignDown pc 64) with
  | .error e => .error e
  | .ok l => if l.count ≤ wordIndex pc then .error (.trap (trapAt causeIllop 4 pc)) else .ok l

/-- A stream that stands at a word of a line it has entered. -/
def StreamSt.enter (t : StreamSt) (pc : Nat) (l : Line) : StreamSt := { t with pc := pc, entry := .inLine, line := l, ahead := [] }

/-- A stream whose instruction of n words has been executed moves past it (R105): in its line, by its link, or to its halt. -/
def StreamSt.advance (t : StreamSt) (n : Nat) : StreamSt :=
  let w := wordIndex t.pc
  if w + n < t.line.count then { t with pc := t.pc + 4 * n }
  else if t.line.last then { t with halted := true, ahead := [] }
  else { t with pc := t.line.nextPc, entry := .fall t.line.va 0 }

/-- Note that a stream waits; a wait that goes on keeps the cycle at which it began. -/
def State.setWait (s : State) (c : Cursor) (w : WaitOn) : State :=
  s.withStream c (fun t =>
    match t.waiting with
    | some x => if x.on = w then t else { t with waiting := some { on := w, since := s.cyc } }
    | none => { t with waiting := some { on := w, since := s.cyc } })

/-- A stream parks on a frame (R61): counted once per park, and the segment's urgency is raised to 7 (R286). -/
def State.park (s : State) (c : Cursor) (frame : Nat) : State :=
  let already := optAny (s.stream c).waiting (fun w => decide (w.on = .segment frame))
  let s1 := if already then s else (s.countPark (s.binding c.slot).handle).urge frame 7
  s1.setWait c (.segment frame)

/-! ### The end of a unit (R18) -/

/-- Whether every stream of a slot has halted and nothing is in flight (R18). -/
def Slot.complete (l : Slot) : Bool :=
  l.s.halted && l.v.halted && l.m.halted && l.x.halted && l.vflight.isEmpty && l.mflight.isNone && l.xqueue.isEmpty

/-- A unit all of whose streams have halted completes; one that has taken CANCEL ends as cancelled (R18, R37). -/
def State.settleUnit (s : State) (u : SlotId) : State :=
  let l := s.slot u
  match l.bound with
  | some b => if l.complete then s.endUnit b.unit (if l.tookCancel then 2 else 1) causeCancel else s
  | none => s

/-! ### Taking a trap and returning (13.1 to 13.4) -/

/-- An instruction of S, M or X retires: its post is made and it counts (R17, R20). -/
def Slot.retireIn (l : Slot) (st : Stream) (h : Hdr) : Slot :=
  (match h.post with
   | some p => l.withTokens st p (· + 1)
   | none => l).withStream st (fun t => { t with retired := t.retired + 1, waiting := none })

/-- MPROG with no position, its flags kept (Table 10.2). -/
def progClear (w : Word) : Word := BitVec.ofNat 64 (w.field 0 8)

/-- The counter step that the retirement of an STO instruction of M makes (R86). -/
def stoStep (r : Rounding) (t : StreamSt) : StreamSt := if r = .sto then t.setG 15 (t.gReg 15 + 1) else t

/-- Whether no update of an M instruction remains (R242). -/
def MInFlight.ended (m : MInFlight) : Bool := decide (m.total ≤ m.step)

/-- The M instruction in progress of a slot retires (R242): MPROG loses its position, and M moves past the instruction. -/
def Slot.mRetire (l : Slot) (m : MInFlight) : Slot :=
  match m.instr.hdr with
  | none => l
  | some h =>
    let t := match m.instr with
      | .mcvt _ _ _ _ _ r => stoStep r l.m
      | _ => l.m
    ({ l with mflight := none, mpoison := 0, sr := { l.sr with mprog := progClear l.sr.mprog }, m := t }.retireIn .m h).withStream .m
      (fun t => t.advance h.words)

/-- TCAUSE (Table 13.2). -/
def tcauseWord (t : TrapInfo) (st : Stream) (user report async nest : Bool) : Word :=
  BitVec.ofNat 64 (t.cause + t.sub * 2 ^ 8 + st.code * 2 ^ 16 + bit01 report * 2 ^ 18 + bit01 user * 2 ^ 19 + bit01 nest * 2 ^ 20 +
    bit01 async * 2 ^ 21)

/-- M stops at a cut (R316): an instruction that has made its last update retires, unless it is to trap POISON (R246); any other stops
at its update boundary, so it has not issued, and its popped token returns. -/
def Slot.cutM (l : Slot) : Slot :=
  match l.mflight with
  | none => l
  | some m =>
    if m.ended ∧ m.poisoned = 0 then l.mRetire m
    else
      let l1 := { l with mflight := none, mpoison := m.poisoned }
      match m.wait with
      | some p => l1.withTokens p .m (· + 1)
      | none => l1

/-- Whether a command has processed every driving element (R252), or has none to process. -/
def XCommand.ended (k : XCommand) : Bool := k.void || (!k.fresh && decide (k.total ≤ k.cursor))

/-- A command stops at its element boundary: on resume it takes its records afresh, unless its cursor is complete, and its check again
(R253). -/
def XCommand.stopped (k : XCommand) : XCommand := { k with fresh := !k.ended, fault := none, parked := none }

/-- The streams of a slot stop at a cut (R316). -/
def Slot.cut (l : Slot) : Slot :=
  let l1 := l.cutM
  { l1 with xqueue := l1.xqueue.map XCommand.stopped, sspans := [] }

/-- The pages of a save-area range that are mapped for an access: each with its place in memory and in the range. -/
def State.savePages (s : State) (u : SlotId) (kind : Access) (va n : Nat) : List (Option (Nat × Nat)) :=
  let b := s.binding u
  (List.range (ceilDiv n 4096)).map (fun i =>
    let a := va + 4096 * i
    match s.translation { slot := u, stream := .s } b a with
    | .error _ => none
    | .ok (pa, leaf, _) =>
      match s.leafCheck b false kind pa leaf 0 with
      | .error _ => none
      | .ok () => some (if bitOf leaf 7 then hostAt pa else pa, 4096 * i))

/-- Count the walk for a page of a save area where it fails at a table without a key (R404). -/
def State.countPage (s : State) (u : SlotId) (va : Nat) : State :=
  let b := s.binding u
  match s.translation { slot := u, stream := .s } b va with
  | .error _ => s.countWalk b.part b.root va
  | .ok _ => s

/-- Write bytes to a save area; pages of it that the driver has not mapped keep nothing (R318: mapping them is the driver's duty). -/
def State.saveBytes (s : State) (u : SlotId) (va : Nat) (bs : List Byte) : State :=
  (s.savePages u .store va bs.length).zipIdx.foldl (fun s e => match e.1 with
    | some (k, o) => s.postAt (s.binding u).part k ((bs.drop o).take 4096)
    | none => s.countPage u (va + 4096 * e.2)) s

/-- Read bytes of a save area; none if a page of the range is not mapped. What is read stands behind every write of the area. -/
def State.savedBytes (s : State) (u : SlotId) (va n : Nat) : Option (List Byte) :=
  let ps := s.savePages u .load va n
  let s1 := if s.posted.isEmpty then s else s.drained ((s.binding u).part + 1)
  if ps.any (fun e => e.isNone) then none
  else some ((ps.flatMap (fun e => match e with
    | some (k, o) => s1.load k (min 4096 (n - o))
    | none => [])))

/-- Whether a page of a save area lies in host memory. -/
def State.areaOnHost (s : State) (part root tsave : Nat) : Bool :=
  (List.range 0x110).any (fun i => match s.walk part root (tsave + 4096 * i) with
    | .ok (_, e) => bitOf e 7
    | .error _ => false)

/-- Whether reads of the save area of a slot's unit wait for the host link (R410). -/
def State.areaHeld (s : State) (u : SlotId) : Bool :=
  let b := s.binding u
  (s.slot u).bound.isSome && s.linkHeld b.part .load && s.areaOnHost b.part b.root (s.slot u).sr.tsave.toNat

/-- Whether reads of the save area of either unit of a cell wait for the host link, so that the cell can make no switch. -/
def State.cellHeld (s : State) (cell : Nat) : Bool := s.areaHeld { cell := cell, h1 := false } || s.areaHeld { cell := cell, h1 := true }

/-- Count the read of a save area whose lines' slots hold no key (R404). -/
def State.countSaved (s : State) (u : SlotId) (va n : Nat) : State :=
  (s.savePages u .load va n).zipIdx.foldl (fun s e => match e.1 with
    | some (k, o) => s.countEach ((List.range (ceilDiv (min 4096 (n - o)) 64)).map (fun i => k + 64 * i))
    | none => s.countPage u (va + 4096 * e.2)) s

/-- Bytes of a trap record: those of a compute cell end before the v registers (Table 13.4). -/
def recordSize (cell : Nat) : Nat := if isPantry cell then 0x7800 else 0x5800

/-- The trap record of a slot is written at TSAVE (R314 step 2, R318). -/
def State.writeRecord (s : State) (u : SlotId) (h : RecordHeader) : State :=
  s.saveBytes u (s.slot u).sr.tsave.toNat (recordBytes (isPantry u.cell) h (s.slot u))

/-- The image of the firmware that runs on a die. -/
def State.jalcen (s : State) (die : Nat) : Nat :=
  match Map.find s.firmware (3 * die) with
  | some f => f.running.hash
  | none => 0

/-- Whether a trap of a cause, raised in user mode or not, goes to the user handler (R312); ACCFIRST never does (R331). -/
def Slot.vectors (l : Slot) (cause : Nat) (user : Bool) : Bool :=
  l.sr.tvec.bit (32 + cause) && decide (cause ≠ causeAccfirst) && decide (cause < 32) && decide (l.sr.tvec.field 6 26 ≠ 0) && user

/-- S enters the handler of the trap that TCAUSE and TVAL describe (R312, R314 step 4): the user handler if its EN bit is set, HLINE is
not 0 and the trap was raised in user mode; else the firmware, in supervisor mode. -/
def State.enterHandler (s : State) (u : SlotId) : State :=
  let l := s.slot u
  let cause := l.sr.tcause.field 0 8
  let hline := l.sr.tvec.field 6 26 * 64
  let user := l.vectors cause (l.sr.tcause.bit 19)
  let pc := if user then hline + 4 else (s.jalcen (dieOf u.cell) |> Config.handlerLine).toNat / 64 * 64 + 4
  { s with fresh := s.fresh + 1 }.withSlot u (fun l =>
    { l with
      lastTrap := s.fresh
      s := { ((l.s.setG 1 l.sr.tsave).setG 2 l.sr.tcause).setG 3 l.sr.tval with
             pc := pc, entry := .start, ahead := [], halted := false, notStarted := false, waiting := none, sup := !user }
      v := { l.v with waiting := none, ahead := [] }
      m := { l.m with waiting := none, ahead := [] }
      x := { l.x with waiting := none, ahead := [] }
      handler := some { firmware := !user, sMode := l.s.sup, since := s.cyc, retired := l.s.retired } })

/-- The code of a page's size in an error record (Table 21.10). -/
def pageCode (size : Nat) : Nat := (([2 ^ 12, 2 ^ 16, 2 ^ 21, 2 ^ 25, 2 ^ 30, 2 ^ 34].findIdx? (· = size)).elim 0 (· + 1))

/-- The page size class of an address that an error record of a stream names: that of the page which maps an address of space 0, and none
elsewhere (Table 21.10). -/
def State.pageClass (s : State) (c : Cursor) (a : Word) : Nat :=
  if space a ≠ 0 then 0
  else
    match s.translation c (s.binding c.slot) (offset a) with
    | .ok (_, _, size) => pageCode size
    | .error _ => 0

/-- An error record of class UNIT about a slot (Table 22.6). -/
def State.unitError (s : State) (u : SlotId) (st : Stream) : State :=
  let b := s.binding u
  s.error { ErrorInfo.base 1 6 (dieOf u.cell) with
    cluster := (if isPantry u.cell then 0xFF else clusterOf u.cell), cell := rankOf u.cell, stream := st.code, part := some b.part,
    handle := b.handle, addr := (s.slot u).sr.tval, page := s.pageClass { slot := u, stream := st } (s.slot u).sr.tval, pc := ((s.slot u).stream st).pc }

/-- A stream of a slot consumes an uncorrectable error: an error record of class 2 and the die's count UNCORR (Tables 22.6, 23.4). -/
def State.consumed (s : State) (c : Cursor) (addr : Word) : State :=
  let u := c.slot
  let b := s.binding u
  let d := dieOf u.cell
  (s.error { ErrorInfo.base 1 2 d with
    cluster := (if isPantry u.cell then 0xFF else clusterOf u.cell), cell := rankOf u.cell, stream := c.stream.code, part := some b.part,
    handle := b.handle, addr := addr, page := s.pageClass c addr, pc := (s.stream c).pc }).withDie d (fun d => { d with uncorr := min (d.uncorr + 1) (2 ^ 64 - 1) })

/-- The unit of a slot ends as failed, with an error record (R315, R324). -/
def State.failUnit (s : State) (u : SlotId) (st : Stream) (cause : Nat) : State :=
  (s.unitError u st).endUnit (s.binding u).unit 3 cause

/-- What accompanies a trap that is taken: whether it is reporting or asynchronous, and SUCC and SHALT (R206, R262, R319). -/
structure TrapMode where
  report : Bool
  async : Bool
  succ : Nat
  shalt : Bool
  deriving DecidableEq, Repr

/-- A precise trap without a successor. -/
def TrapMode.precise : TrapMode := { report := false, async := false, succ := 0, shalt := false }

/-- The restore of a slot from the record at TSAVE (R322), on ERET and on a resuming bind. A recorded trap with PEND is taken again.
A record that R324 rejects, or that cannot be read, ends the unit as failed. -/
def State.restore (s : State) (u : SlotId) : State :=
  let l := s.slot u
  let pantry := isPantry u.cell
  let s := s.countSaved u l.sr.tsave.toNat (recordSize u.cell)
  match s.savedBytes u l.sr.tsave.toNat (recordSize u.cell) with
  | none => s.failUnit u .s (l.sr.tcause.field 0 8)
  | some bs =>
    match RecordHeader.ofBytes bs, slotFrom pantry bs l with
    | some h, some l1 =>
      let s1 := s.withSlot u (fun _ => { l1 with handler := none })
      if h.pend then (s1.saveBytes u l.sr.tsave.toNat (overlay (bs.take 64) 17 [0])).enterHandler u else s1
    | _, _ => s.failUnit u .s (l.sr.tcause.field 0 8)

/-- Return from a handler (R207, R322): the mode recorded for the trap, then the restore; a unit whose streams have all halted by then
completes (R18). -/
def State.returnFrom (s : State) (u : SlotId) : State :=
  match (s.slot u).handler with
  | none => s
  | some h => ((s.withSlot u (fun l => { l with s := { l.s with sup := h.sMode } })).restore u).settleUnit u

/-- Whether a trap that would go to the firmware stays pending, because its die waits for the switch point of a new image (R446). -/
def State.trapHeld (s : State) (u : SlotId) (st : Stream) (cause : Nat) : Bool :=
  let l := s.slot u
  l.handler.isNone && (s.die (dieOf u.cell)).jalcenSwitch.isSome && !l.vectors cause (!(l.stream st).sup)

/-- Take a trap (R314); one that stays pending changes nothing yet. A trap raised while a handler runs is nested (R315): SWTRAP with TVAL 0
returns from a user handler, and any other ends the unit as failed. -/
def State.raiseTrap (s : State) (u : SlotId) (st : Stream) (t : TrapInfo) (m : TrapMode) : State :=
  match (s.slot u).handler with
  | some h =>
    if !h.firmware ∧ t.cause = causeSwtrap ∧ t.tval = 0 then (if s.areaHeld u then s else s.returnFrom u)
    else
      let tc := tcauseWord t st (!((s.slot u).stream st).sup) m.report m.async true
      ({ s with fresh := s.fresh + 1 }.withSlot u (fun l => { l with lastTrap := s.fresh, sr := { l.sr with tcause := tc, tval := t.tval } })).failUnit u st t.cause
  | none =>
    if s.trapHeld u st t.cause then s else
    let tc := tcauseWord t st (!((s.slot u).stream st).sup) m.report m.async false
    let s1 := s.withSlot u (fun l => { l.cut with sr := { l.sr with tcause := tc, tval := t.tval } })
    let h : RecordHeader := { tcause := tc, tval := t.tval, kind := 0, pend := false, cyc := s.cyc, succ := m.succ, gpos := 0,
                              shalt := m.shalt }
    (s1.writeRecord u h).enterHandler u

/-- Take the trap of an access that is made now: the reads of its walk that were refused are counted (R404), unless it stays pending. -/
def State.takeTrap (s : State) (u : SlotId) (st : Stream) (t : TrapInfo) (m : TrapMode) : State :=
  if s.trapHeld u st t.cause then s else (s.countFault (s.binding u) t).raiseTrap u st t m

/-! ### Landing of V results (R210) -/

/-- The v registers of a slot: rows of the accumulators, or a pantry slot's own (R28, R31). -/
def State.vReg (s : State) (u : SlotId) (n : Nat) : Row :=
  if isPantry u.cell then Map.get 0 (s.slot u).vrows n else ((s.cell u.cell).tile (n / 32)).row (n % 32)

/-- The IMG bit of a tile (Table 13.5). -/
def Slot.img (l : Slot) (t : Nat) : Bool := if t = 0 then l.sr.img0 else l.sr.img1

/-- Change the IMG bit of a tile. -/
def Slot.setImg (l : Slot) (t : Nat) (b : Bool) : Slot :=
  if t = 0 then { l with sr := { l.sr with img0 := b } } else { l with sr := { l.sr with img1 := b } }

/-- Whether an access by a slot to a tile traps ACCFIRST (R331). -/
def State.accFirst (s : State) (u : SlotId) (t : Nat) : Bool :=
  let k := (s.cell u.cell).tile t
  if k.held then decide (k.own ≠ u.h1) else (s.slot u).img t

/-- The silent take of a tile that no slot holds (R331). -/
def State.takeTile (s : State) (u : SlotId) (t : Nat) : State :=
  s.withCell u.cell (fun c => c.withTile t (fun k =>
    if k.held then k else { rows := [], poison := 0, held := true, dirty := false, own := u.h1 }))

/-- The access of a slot to tiles, in order (R331): the state that has taken them, or the tile that traps ACCFIRST. -/
def State.ownTiles (s : State) (u : SlotId) : List Nat → Except Nat State
  | [] => .ok s
  | t :: ts => if s.accFirst u t then .error t else (s.takeTile u t).ownTiles u ts

/-- Write a v register; a write of an accumulator row sets DIRTY (R330). -/
def State.setVReg (s : State) (u : SlotId) (n : Nat) (v : Row) : State :=
  if isPantry u.cell then s.withSlot u (fun l => { l with vrows := Map.put 0 l.vrows n v })
  else (s.takeTile u (n / 32)).withCell u.cell (fun c => c.withTile (n / 32) (fun t => { t.setRow (n % 32) v with dirty := true }))

/-- The v registers that a result writes when it lands. -/
def VEntry.dests (e : VEntry) : List Nat :=
  if e.mask = 0 then []
  else match e.kind with
    | .vreg => [e.dest]
    | .load => [e.dest]
    | .heapPair => [e.dest, e.dest2]
    | _ => []

/-- A result due to land in a tile that the slot no longer owns: its landing is an access that traps ACCFIRST (R32, R331). -/
def State.landingTrap (s : State) (u : SlotId) : Option TrapInfo :=
  if isPantry u.cell then none
  else
    (((s.slot u).vflight.filter (fun e => decide (e.offset = 0))).flatMap VEntry.dests).findSome? (fun n =>
      if s.accFirst u (n / 32) then some { cause := causeAccfirst, sub := 0, tval := BitVec.ofNat 64 (n / 32) } else none)

/-- Elements of `new` where the mask is set, and of `old` elsewhere, for width w bits (R27). -/
def mergeRow (w : Nat) (mask : Mask) (old new : Row) : Row :=
  Row.ofElems w ((List.range (1024 / w)).map (fun i => if mask.getLsbD i then new.elem w i else old.elem w i))

/-- The address of element i of a V access (R228, R320). -/
def VEntry.elemAddr (e : VEntry) (i : Nat) : Nat := Machine.offset (e.addr + BitVec.ofNat 64 i * e.stride)

/-- Write v register elements that a mask allows. -/
def State.writeElems (s : State) (u : SlotId) (n w : Nat) (mask : Mask) (v : Row) : State :=
  if mask = 0 then s else s.setVReg u n (mergeRow w mask ((s.takeTile u (n / 32)).vReg u n) v)

/-- The row that a load brings as it lands: the elements that its mask allows (R228). -/
def State.loadedRow (s : State) (u : SlotId) (e : VEntry) : Row :=
  Row.ofElems (8 * e.width) ((List.range (1024 / (8 * e.width))).map (fun i =>
    if e.mask.getLsbD i then natOf (s.load (cellStoreAt u.cell + e.elemAddr i) e.width) else 0))

/-- Store the elements of a V store that its mask allows, lowest first (R228). -/
def State.storeElems (s : State) (u : SlotId) (e : VEntry) : State :=
  ((List.range (1024 / (8 * e.width))).filter (fun i => e.mask.getLsbD i)).foldl
    (fun s i => s.store (cellStoreAt u.cell + e.elemAddr i) (bytesOf e.width (e.data.elem (8 * e.width) i))) s

/-- The register or memory access of a V result as it lands (R210, R228). -/
def State.landAccess (s : State) (u : SlotId) (e : VEntry) : State :=
  match e.kind with
  | .vreg => s.writeElems u e.dest (8 * e.width) e.mask e.data
  | .greg => s.withSlot u (fun l => { l with v := l.v.setG e.dest (BitVec.ofNat 64 e.data.toNat) })
  | .qreg => s.withSlot u (fun l =>
      { l with v := l.v.setVq e.dest ((l.v.vqReg e.dest &&& ~~~ e.mask) ||| (BitVec.ofNat 128 e.data.toNat &&& e.mask)) })
  | .store => s.storeElems u e
  | .load => s.writeElems u e.dest (8 * e.width) e.mask (s.loadedRow u e)
  | .heapPair => (s.writeElems u e.dest (8 * e.width) e.mask e.data).writeElems u e.dest2 (8 * e.width) e.mask e.data2
  | .bare => s

/-- The STO increment of g15 as a V result lands (R237); a result for g15 itself overrides it. -/
def Slot.landIncrement (l : Slot) (e : VEntry) : Slot :=
  if e.stoinc && !(decide (e.kind = .greg) && decide (e.dest = 15)) then { l with v := l.v.setG 15 (l.v.gReg 15 + 1) } else l

/-- Post, flags (R215) and retirement (R17) of a V result that lands. -/
def Slot.landRetire (l : Slot) (e : VEntry) : Slot :=
  let l1 := match e.post with
    | some p => l.withTokens .v p (· + 1)
    | none => l
  { l1 with sr := { l1.sr with vflags := l1.sr.vflags ||| e.flags }
            v := { l1.v with retired := if e.width = 0 then l1.v.retired else l1.v.retired + 1 } }

/-- A V result lands: its access, its increment, then its post, flags and retirement. -/
def State.landEntry (s : State) (u : SlotId) (e : VEntry) : State :=
  (s.landAccess u e).withSlot u (fun l => (l.landIncrement e).landRetire e)

/-- Land the oldest V result that has no beats left. -/
def State.landOldest (s : State) (u : SlotId) : State :=
  match (s.slot u).vflight.find? (fun e => decide (e.offset = 0)) with
  | none => s
  | some e => (s.withSlot u (fun l => { l with vflight := l.vflight.eraseP (fun e => decide (e.offset = 0)) })).landEntry u e

/-- Land every V result that has no beats left, in issue order (R24, R210). -/
def State.landDue (s : State) (u : SlotId) : Nat → State
  | 0 => s
  | n + 1 => if (s.slot u).vflight.any (fun e => decide (e.offset = 0)) then (s.landOldest u).landDue u n else s

/-- One beat passes for the V results in flight (R24). -/
def Slot.beat (l : Slot) : Slot := { l with vflight := l.vflight.map (fun e => { e with offset := e.offset - 1 }) }

/-! ### Issue -/

/-- The destination that a deferred fault writes 0 to (R279). -/
inductive Dest where
  | none
  | g (n : Nat)
  | gq (n : Nat) (m : Nat)
  deriving DecidableEq, Repr

/-- What the body of an instruction answers. -/
inductive Eff where
  /-- its effect is made; it retires and the stream moves past it -/
  | done (s : State)
  /-- V: a result enters flight with a latency in beats -/
  | land (s : State) (e : VEntry) (latency : Nat)
  /-- a branch is taken to a code address -/
  | goto (s : State) (target : Nat)
  /-- the stream halts -/
  | halt (s : State)
  /-- it cannot issue yet -/
  | wait (w : WaitOn)
  /-- it makes part of its effect, from the state before its token was popped, and waits -/
  | pause (f : State → State) (w : WaitOn)
  /-- it traps before it takes effect -/
  | trap (t : TrapInfo)
  /-- it traps before it takes effect, in a speculative window too: the trap is one of the checks of a line's entry (R170, R279) -/
  | stop (t : TrapInfo)
  /-- TRAP and BKPT: it traps, with its successor noted (R206) -/
  | soft (t : TrapInfo)
  /-- its access parks -/
  | park (frame : Nat)
  /-- its effect is made, it retires, and a reporting trap follows (R262) -/
  | report (s : State) (t : TrapInfo)
  /-- it retires, and has itself placed the stream -/
  | away (s : State)
  /-- M: it has begun and will retire by its last update -/
  | begun (s : State)
  /-- X: its command has entered the queue -/
  | queued (s : State)

/-- A Stop as the answer of a body. -/
def Stop.eff : Stop → Eff
  | .trap t => .trap t
  | .park f => .park f
  | .hold => .wait .link

/-- The mask-stack top of a slot (R27): all ones when the stack is empty. -/
def Slot.maskTop (l : Slot) : Mask := l.mstack.headD Mask.full

/-- The guard of an instruction other than a vector instruction (R119, R125): bit 0 decides for the whole instruction, PLOG and MOV fn 1 in
V among them (log entry 90). -/
def State.guardHolds (s : State) (h : Hdr) : Bool :=
  let l := s.here
  match s.cur.stream with
  | .v => ((l.v.vqReg h.guard).getLsbD 0 != h.sense) && l.maskTop.getLsbD 0
  | st => (l.stream st).qReg h.guard != h.sense

/-- The elements that a vector instruction may write (R27, R209). -/
def State.allowed (s : State) (h : Hdr) : Mask :=
  let l := s.here
  (if h.sense then ~~~ (l.v.vqReg h.guard) else l.v.vqReg h.guard) &&& l.maskTop

/-- A V result that only posts (R320, KIND 6). -/
def VEntry.bare : VEntry :=
  { kind := .bare, data := 0, data2 := 0, dest := 0, dest2 := 0, offset := 0, post := none, width := 4, stoinc := false, flags := 0,
    addr := 0, stride := 0, mask := 0, reads := 0 }

/-- A V instruction with no result retires: its post lands with an entry of its own in the next beat; without a post it counts at once. -/
def Slot.retireV (l : Slot) (h : Hdr) : Slot :=
  match h.post with
  | some p => { l.beat with vflight := l.beat.vflight ++ [{ VEntry.bare with post := some p }], v := { l.v with waiting := none } }
  | none => { l.beat with v := { l.v with retired := l.v.retired + 1, waiting := none } }

/-- An instruction with no result in flight retires. -/
def State.retire (s : State) (h : Hdr) : State :=
  s.withHere (fun l => if s.cur.stream = .v then l.retireV h else l.retireIn s.cur.stream h)

/-- The stream moves past the instruction. -/
def State.moveOn (s : State) (h : Hdr) : State := s.withMe (fun t => { t.advance h.words with waiting := none })

/-- The answer to a fault of S in a speculative window (R279): deferred in iterations from 1 on, before the verdict, for the causes
named there. -/
def State.defers (s : State) (t : TrapInfo) : Bool :=
  decide (s.cur.stream = .s) && [causeXfault, causePerm, causeSpace, causeAlign, causePoison].contains t.cause && s.here.handler.isNone &&
  optAny s.here.window (fun w => decide (1 ≤ w.i) && !w.verdict)

/-- A deferred fault: the destination reads 0 and the iteration is marked (R279). -/
def State.defer (s : State) (d : Dest) (t : TrapInfo) : State :=
  s.withHere (fun l =>
    let l1 := match d with
      | .none => l
      | .g n => { l with s := l.s.setG n 0 }
      | .gq n m => { l with s := (l.s.setG n 0).setQ m false }
    match l1.window with
    | some w => { l1 with window := some { w with faulted := w.faulted ||| (1 <<< w.i : BitVec 8),
                                                  cause := if w.cause = 0 then t.cause else w.cause } }
    | none => l1)

/-- Whether the places that an instruction needs to issue are there: tokens, room, and room in flight (R20, R211, R238). -/
def State.blocked (s : State) (h : Hdr) : Option WaitOn :=
  let l := s.here
  let st := s.cur.stream
  match h.wait, h.post with
  | some p, _ =>
    if l.tokens p st = 0 then some (.token p)
    else match h.post with
      | some q => if 16 ≤ l.tokens st q + l.reserved st q then some (.room q) else none
      | none => none
  | none, some q => if 16 ≤ l.tokens st q + l.reserved st q then some (.room q) else none
  | none, none => none

/-- Whether M has an instruction in progress (R238). -/
def State.streamBusy (s : State) : Option WaitOn :=
  match s.cur.stream with
  | .m => if s.here.mflight.isSome then some .earlier else none
  | _ => none

/-- The token that an instruction waits for is popped at issue (R20). -/
def State.popToken (s : State) (h : Hdr) : State :=
  match h.wait with
  | some p => s.withHere (fun l => l.withTokens p s.cur.stream (· - 1))
  | none => s

/-- Whether the retirement of an instruction of V would put a 33rd result in flight (R211): its post travels as one. -/
def State.overfull (s : State) (h : Hdr) : Bool := decide (s.cur.stream = .v) && decide (32 < (s.retire h).here.vflight.length)

/-- The state after the body of an instruction has answered; `s0` is the state before its token was popped. A V instruction that would make
a 33rd result in flight does not issue (R211). One whose fault is deferred (R279) gives up its token, posts and retires (log entry 97). -/
def State.conclude (s0 : State) (h : Hdr) (d : Dest) (r : Eff) : State :=
  let c := s0.cur
  let trap (t : TrapInfo) (m : TrapMode) : State := s0.takeTrap c.slot c.stream t m
  let held (t : TrapInfo) : Bool := s0.trapHeld c.slot c.stream t.cause
  match r with
  | .done s => if s.overfull h then s0.setWait c .results else ((s.retire h).moveOn h).settleUnit c.slot
  | .land s e lat =>
    if 32 ≤ s0.here.vflight.length then s0.setWait c .results
    else (s.withHere (fun l =>
      let l1 := l.beat
      { l1 with vflight := l1.vflight ++ [{ e with offset := lat - 1, post := h.post }], v := { l1.v with waiting := none } })).moveOn h
  | .goto s target =>
    if s.overfull h then s0.setWait c .results else
    (match s0.enterAt c target with
     | .error (.trap t) => (s0.fetched c (alignDown target 64)).takeTrap c.slot c.stream t TrapMode.precise
     | .error (.park f) => s0.park c f
     | .error .hold => s0.setWait c .link
     | .ok l => (s.retire h).withMe (fun t => t.enter target l))
  | .halt s =>
    if s.overfull h then s0.setWait c .results
    else ((s.retire h).withMe (fun t => { t with halted := true, ahead := [] })).settleUnit c.slot
  | .wait w => s0.setWait c w
  | .pause f w => (f s0).setWait c w
  | .trap t =>
    if held t ∧ !s0.defers t then s0 else
    let s1 := if c.stream = .s ∧ t.cause = causePoison then s0.consumed c t.tval else s0
    if s1.defers t then (((((s1.countFault (s1.binding c.slot) t).popToken h).defer d t).retire h).moveOn h).settleUnit c.slot else s1.takeTrap c.slot c.stream t TrapMode.precise
  | .stop t => trap t TrapMode.precise
  | .soft t =>
    let succ := s0.me.line.successor (wordIndex s0.me.pc) h.words
    trap t { report := false, async := false, succ := succ.1, shalt := succ.2 }
  | .park f => s0.park c f
  | .report s t =>
    if held t then s0 else
    let succ := s0.me.line.successor (wordIndex s0.me.pc) h.words
    ((s.retire h).moveOn h).takeTrap c.slot c.stream t { report := true, async := false, succ := succ.1, shalt := succ.2 }
  | .away s => s
  | .begun s => s.withMe (fun t => { t with waiting := none })
  | .queued s => s.moveOn h

/-- A change made for a stream as if it moved. -/
def State.atCursor (s : State) (c : Cursor) (f : State → State) : State := { f { s with cur := c } with cur := s.cur }

/-- In V, the results due land first (R24); in the other streams nothing precedes an issue. -/
def State.whenLanded (s : State) (k : State → State) : State :=
  if s.cur.stream = .v then
    (match s.landingTrap s.cur.slot with
     | some t => s.takeTrap s.cur.slot .v t TrapMode.precise
     | none => k (s.landDue s.cur.slot 40))
  else k s

/-- Issue of an instruction whose guard decides as a whole (R20, R119): its waits, then its guard, then its body. A false guard leaves
only the token fields. In V, results due land first (R24). -/
def State.issueTo (h : Hdr) (d : Dest) (body : State → Eff) (s : State) : State :=
  s.whenLanded (fun s0 =>
    match s0.blocked h, s0.streamBusy with
    | some w, _ => s0.setWait s0.cur w
    | none, some w => s0.setWait s0.cur w
    | none, none =>
      let s1 := s0.popToken h
      s0.conclude h d (if s1.guardHolds h then body s1 else .done s1))

/-- Issue of a vector instruction: its guard acts by element in its body (R119). -/
def State.issueVector (h : Hdr) (body : State → Eff) (s : State) : State :=
  s.whenLanded (fun s0 =>
    match s0.blocked h, s0.streamBusy with
    | some w, _ => s0.setWait s0.cur w
    | none, some w => s0.setWait s0.cur w
    | none, none => s0.conclude h .none (body (s0.popToken h)))

/-- Whether a unit is bound where an instruction is to run: without one there is nothing to run it. -/
def State.whenBound (s : State) (k : State → State) : Host.Outcome State Fault Refusal :=
  if s.here.bound.isSome then .next (k s) else .fault .noUnit

/-- Run an instruction with a whole guard. -/
def run (h : Hdr) (body : State → Eff) (s : State) : Host.Outcome State Fault Refusal := s.whenBound (State.issueTo h .none body)

/-- Run an instruction with a whole guard and a destination that a deferred fault clears. -/
def runTo (h : Hdr) (d : Dest) (body : State → Eff) (s : State) : Host.Outcome State Fault Refusal := s.whenBound (State.issueTo h d body)

/-- Run a vector instruction. -/
def runVector (h : Hdr) (body : State → Eff) (s : State) : Host.Outcome State Fault Refusal := s.whenBound (State.issueVector h body)

end Sys2Proof.Machine
end

