-- ==== Sys2Proof/Machine/Operands.lean ====
section
/-! DEFINITION. The operand forms of instructions: register operands of each stream (R25, R125), results by the stream's own rule
(R17, R213), addresses (R124, R182), and branch targets (R108, R170). -/

namespace Sys2Proof.Machine

/-- g register n of the stream that moves. -/
def State.rg (s : State) (n : Nat) : Word := s.me.gReg n

/-- Predicate n as a scalar instruction reads it: bit 0 in V (R125). -/
def State.rq (s : State) (n : Nat) : Bool := if s.cur.stream = .v then (s.me.vqReg n).getLsbD 0 else s.me.qReg n

/-- Predicate n of V, all 128 bits. -/
def State.rvq (s : State) (n : Nat) : Mask := s.me.vqReg n

/-- e register n of the stream that moves. -/
def State.re (s : State) (n : Nat) : Word := s.me.eReg n

/-- v register n of the slot that moves. -/
def State.rv (s : State) (n : Nat) : Row := s.vReg s.cur.slot n

/-- A result for g[d]: at once in S, M and X; a landing one beat later in V (R155, R157, R213). -/
def writeG (d : Nat) (v : Word) (s : State) : Eff :=
  if s.cur.stream = .v then .land s { VEntry.bare with kind := .greg, dest := d, data := BitVec.ofNat 1024 v.toNat } 1
  else .done (s.withMe (fun t => t.setG d v))

/-- An instruction whose result is not written: in V it retires one beat later, as with its result (R213). -/
def writeNone (s : State) : Eff := if s.cur.stream = .v then .land s VEntry.bare 1 else .done s

/-- A 128-bit result for predicate d of V. -/
def landQ (d : Nat) (v : Mask) (latency : Nat) (s : State) : Eff :=
  .land s { VEntry.bare with kind := .qreg, dest := d, data := BitVec.ofNat 1024 v.toNat, mask := Mask.full } latency

/-- A one-bit result for q[d]; in V it goes to all 128 bits (R125). -/
def writeQ (d : Nat) (v : Bool) (s : State) : Eff :=
  if s.cur.stream = .v then landQ d (if v then Mask.full else 0) 1 s else .done (s.withMe (fun t => t.setQ d v))

/-- Both results of an S instruction. -/
def writeGQ (d : Nat) (v : Word) (q : Nat) (b : Bool) (s : State) : State := s.withMe (fun t => (t.setG d v).setQ q b)

/-- The address of a load or store (R124, R182): g[a] + g[b] + disp, modulo 2^64. -/
def State.memAddr (s : State) (a b : Nat) (disp : Int) : Word := s.rg a + s.rg b + wordOf disp

/-- The code address of a target relative to the line of the branch (R108), as an integer. -/
def State.targetAddr (s : State) (t : Target) : Int := (s.me.line.va : Int) + 64 * t.line + 4 + 4 * (t.word : Int)

/-- Take a branch to a target of its own line's neighbourhood (R170): a line outside [0, 2^57 − 64] raises SPACE at the branch, with
TVAL the line address from which it was to be followed (R106). -/
def branchTo (s : State) (t : Target) : Eff :=
  let line := (s.me.line.va : Int) + 64 * t.line
  if 0 ≤ line ∧ line ≤ 2 ^ 57 - 64 then .goto s (line.toNat + 4 + 4 * t.word)
  else .stop (trapAt causeSpace 0 s.me.line.va)

/-- Take a branch to the code address in a register (R104, R171). -/
def branchReg (s : State) (v : Word) : Eff :=
  match codeAddressFault v.toNat with
  | some t => .trap t
  | none => .goto s v.toNat

/-- The link that CALL and CALLR write (R172). -/
def State.linkAddr (s : State) (h : Hdr) : Word :=
  BitVec.ofNat 64 (s.me.line.successor (wordIndex s.me.pc) h.words).1

/-- Offset and width of BFX, BFXS and BFI (R163). -/
def State.fieldSrc (s : State) : FieldSrc → Nat × Nat
  | .regs b c => ((s.rg b).toNat, (s.rg c).toNat)
  | .imm off wid => (off, wid)

/-- The effective width of a bit field (R163). -/
def effectiveWidth (o w : Nat) : Nat := if 64 ≤ o then 0 else min w (64 - o)

end Sys2Proof.Machine
end

