-- ==== Sys2Proof/Machine/Flags.lean ====
section
/-! DEFINITION. Conditions and sticky flags: the conditions of CMP and CMPI (Table 5.3), and the flag bits that VSTAT and MPROG share
(Tables 3.11, 9.1, 10.2). -/

namespace Sys2Proof.Machine

/-- A condition of CMP or CMPI (Table 5.3). -/
def condHolds (c : Cond) (a b : Word) : Bool :=
  match c with
  | .eq => a == b
  | .ne => a != b
  | .lt => a.slt b
  | .le => a.sle b
  | .gt => b.slt a
  | .ge => b.sle a
  | .ltu => a.ult b
  | .leu => a.ule b
  | .gtu => b.ult a
  | .geu => b.ule a
  | .tst => (a &&& b) != 0
  | .ntst => (a &&& b) == 0

/-- Flags that an operation raises, at the bits they have in VSTAT (Table 9.1). -/
structure Flags where
  nv : Bool := false
  dz : Bool := false
  of : Bool := false
  uf : Bool := false
  nx : Bool := false
  sat : Bool := false
  rr : Bool := false
  an : Bool := false
  deriving DecidableEq, Repr

/-- No flag. -/
def Flags.none : Flags := {}

/-- The flags of two operations together. -/
def Flags.join (a b : Flags) : Flags :=
  { nv := a.nv || b.nv, dz := a.dz || b.dz, of := a.of || b.of, uf := a.uf || b.uf, nx := a.nx || b.nx, sat := a.sat || b.sat,
    rr := a.rr || b.rr, an := a.an || b.an }

/-- Flags as bits [7:0] of VSTAT. -/
def Flags.bits (f : Flags) : BitVec 8 :=
  BitVec.ofNat 8 (bit01 f.nv + 2 * bit01 f.dz + 4 * bit01 f.of + 8 * bit01 f.uf + 16 * bit01 f.nx + 32 * bit01 f.sat + 64 * bit01 f.rr +
    128 * bit01 f.an)

/-- The flags of a list of operations together. -/
def Flags.joinAll (fs : List Flags) : Flags := fs.foldl Flags.join Flags.none

end Sys2Proof.Machine
end

