-- ==== Sys2Proof/Machine/Scalar.lean ====
section
/-! DEFINITION. Opcodes 0x00 to 0x2C: integer arithmetic, logic, shifts, fields, selection, moves, comparison and predicate logic
(7.2 to 7.7). Each meaning is an operation on operand values run by the shared issue. -/

namespace Sys2Proof.Machine

/-- A two-register operation into g[d]. -/
def runBinary (h : Hdr) (d a b : Nat) (f : Word → Word → Word) (s : State) : Host.Outcome State Fault Refusal :=
  run h (fun s => writeG d (f (s.rg a) (s.rg b)) s) s

/-- A register and immediate operation into g[d]. -/
def runImm (h : Hdr) (d a : Nat) (imm : Word) (f : Word → Word → Word) (s : State) : Host.Outcome State Fault Refusal :=
  run h (fun s => writeG d (f (s.rg a) imm) s) s

/-- A one-register operation into g[d]. -/
def runUnary (h : Hdr) (d a : Nat) (f : Word → Word) (s : State) : Host.Outcome State Fault Refusal :=
  run h (fun s => writeG d (f (s.rg a)) s) s

/-- NOP: the token fields alone (R118). -/
def execNop (h : Hdr) (s : State) : Host.Outcome State Fault Refusal := run h .done s

/-- R158 -/
def execAdd (h : Hdr) (d a b : Nat) (s : State) := runBinary h d a b (· + ·) s
def execAddi (h : Hdr) (d a : Nat) (imm : Int) (s : State) := runImm h d a (wordOf imm) (· + ·) s
def execSub (h : Hdr) (d a b : Nat) (s : State) := runBinary h d a b (· - ·) s
def execMul (h : Hdr) (d a b : Nat) (s : State) := runBinary h d a b (· * ·) s

/-- The upper half of the signed product (R158). -/
def mulHighSigned (a b : Word) : Word := wordOf (a.toInt * b.toInt / 2 ^ 64)

/-- The upper half of the unsigned product (R158). -/
def mulHighUnsigned (a b : Word) : Word := BitVec.ofNat 64 (a.toNat * b.toNat / 2 ^ 64)

def execMulhs (h : Hdr) (d a b : Nat) (s : State) := runBinary h d a b mulHighSigned s
def execMulhu (h : Hdr) (d a b : Nat) (s : State) := runBinary h d a b mulHighUnsigned s

/-- Signed division (R159): −2^63 by −1 wraps to −2^63. -/
def divSigned (a b : Word) : Word := if b = 0 then BitVec.allOnes 64 else wordOf (a.toInt.tdiv b.toInt)

/-- Unsigned division (R159). -/
def divUnsigned (a b : Word) : Word := if b = 0 then BitVec.allOnes 64 else BitVec.ofNat 64 (a.toNat / b.toNat)

/-- Signed remainder, with the sign of a (R159). -/
def remSigned (a b : Word) : Word := if b = 0 then a else wordOf (a.toInt.tmod b.toInt)

/-- Unsigned remainder (R159). -/
def remUnsigned (a b : Word) : Word := if b = 0 then a else BitVec.ofNat 64 (a.toNat % b.toNat)

def execDivs (h : Hdr) (d a b : Nat) (s : State) := runBinary h d a b divSigned s
def execDivu (h : Hdr) (d a b : Nat) (s : State) := runBinary h d a b divUnsigned s
def execRems (h : Hdr) (d a b : Nat) (s : State) := runBinary h d a b remSigned s
def execRemu (h : Hdr) (d a b : Nat) (s : State) := runBinary h d a b remUnsigned s

/-- R160 -/
def execAnd (h : Hdr) (d a b : Nat) (s : State) := runBinary h d a b (· &&& ·) s
def execAndi (h : Hdr) (d a : Nat) (imm : Int) (s : State) := runImm h d a (wordOf imm) (· &&& ·) s
def execOr (h : Hdr) (d a b : Nat) (s : State) := runBinary h d a b (· ||| ·) s
def execOri (h : Hdr) (d a : Nat) (imm : Int) (s : State) := runImm h d a (wordOf imm) (· ||| ·) s
def execXor (h : Hdr) (d a b : Nat) (s : State) := runBinary h d a b (· ^^^ ·) s
def execXori (h : Hdr) (d a : Nat) (imm : Int) (s : State) := runImm h d a (wordOf imm) (· ^^^ ·) s
def execAndn (h : Hdr) (d a b : Nat) (s : State) := runBinary h d a b (fun a b => a &&& ~~~ b) s

/-- Left shift by a whole unsigned amount (R161). -/
def shiftLeft (a n : Word) : Word := if n.toNat < 64 then a <<< n.toNat else 0

/-- Right shift with zeros entering (R161). -/
def shiftRight (a n : Word) : Word := if n.toNat < 64 then a >>> n.toNat else 0

/-- Right shift with copies of bit 63 entering (R161). -/
def shiftArith (a n : Word) : Word := a.sshiftRight (min n.toNat 63)

/-- Rotations by the amount modulo 64 (R161). -/
def rotateLeft (a n : Word) : Word := a.rotateLeft (n.toNat % 64)
def rotateRight (a n : Word) : Word := a.rotateRight (n.toNat % 64)

def execShl (h : Hdr) (d a b : Nat) (s : State) := runBinary h d a b shiftLeft s
def execShli (h : Hdr) (d a imm : Nat) (s : State) := runImm h d a (BitVec.ofNat 64 imm) shiftLeft s
def execShr (h : Hdr) (d a b : Nat) (s : State) := runBinary h d a b shiftRight s
def execShri (h : Hdr) (d a imm : Nat) (s : State) := runImm h d a (BitVec.ofNat 64 imm) shiftRight s
def execSar (h : Hdr) (d a b : Nat) (s : State) := runBinary h d a b shiftArith s
def execSari (h : Hdr) (d a imm : Nat) (s : State) := runImm h d a (BitVec.ofNat 64 imm) shiftArith s
def execRol (h : Hdr) (d a b : Nat) (s : State) := runBinary h d a b rotateLeft s
def execRor (h : Hdr) (d a b : Nat) (s : State) := runBinary h d a b rotateRight s

/-- Bit counts and reversal (R162). -/
def leadingZeroCount (a : Word) : Word := BitVec.ofNat 64 (trailingZeros 64 (reverseBits 64 a.toNat))
def trailingZeroCount (a : Word) : Word := BitVec.ofNat 64 (trailingZeros 64 a.toNat)
def popCount (a : Word) : Word := BitVec.ofNat 64 (countOnes 64 a.toNat)
def bitReverse (a : Word) : Word := BitVec.ofNat 64 (reverseBits 64 a.toNat)

def execClz (h : Hdr) (d a : Nat) (s : State) := runUnary h d a leadingZeroCount s
def execCtz (h : Hdr) (d a : Nat) (s : State) := runUnary h d a trailingZeroCount s
def execPopc (h : Hdr) (d a : Nat) (s : State) := runUnary h d a popCount s
def execBrev (h : Hdr) (d a : Nat) (s : State) := runUnary h d a bitReverse s

/-- The field of offset o and width w, extended by zeros or by its top bit (R163). -/
def extractField (sgn : Bool) (a : Word) (o w : Nat) : Word :=
  let w1 := effectiveWidth o w
  if w1 = 0 then 0 else extend w1 sgn (a.field o w1)

/-- d with the field of offset o and width w replaced by the low bits of a (R163). -/
def insertField (old a : Word) (o w : Nat) : Word :=
  let w1 := effectiveWidth o w
  let m : Word := BitVec.ofNat 64 ((2 ^ w1 - 1) * 2 ^ o)
  (old &&& ~~~ m) ||| (BitVec.ofNat 64 (a.toNat % 2 ^ w1 * 2 ^ o))

def execBfx (h : Hdr) (d a : Nat) (src : FieldSrc) (s : State) :=
  run h (fun s => writeG d (extractField false (s.rg a) (s.fieldSrc src).1 (s.fieldSrc src).2) s) s
def execBfxs (h : Hdr) (d a : Nat) (src : FieldSrc) (s : State) :=
  run h (fun s => writeG d (extractField true (s.rg a) (s.fieldSrc src).1 (s.fieldSrc src).2) s) s
/-- BFI writes g[d] only where the effective width is above 0 (R163). -/
def bfiEffect (d a : Nat) (src : FieldSrc) (s : State) : Eff :=
  let (o, w) := s.fieldSrc src
  if effectiveWidth o w = 0 then writeNone s else writeG d (insertField (s.rg d) (s.rg a) o w) s

def execBfi (h : Hdr) (d a : Nat) (src : FieldSrc) (s : State) := run h (bfiEffect d a src) s

/-- R164 -/
def execMins (h : Hdr) (d a b : Nat) (s : State) := runBinary h d a b (fun a b => if a.slt b then a else b) s
def execMinu (h : Hdr) (d a b : Nat) (s : State) := runBinary h d a b (fun a b => if a.ult b then a else b) s
def execMaxs (h : Hdr) (d a b : Nat) (s : State) := runBinary h d a b (fun a b => if a.slt b then b else a) s
def execMaxu (h : Hdr) (d a b : Nat) (s : State) := runBinary h d a b (fun a b => if a.ult b then b else a) s
def execSel (h : Hdr) (d a b c : Nat) (s : State) := run h (fun s => writeG d (if s.rq c then s.rg a else s.rg b) s) s

/-- MOV between files (R165). In V, fn 1 moves all 128 bits (R125); l registers, which no snapshot entry carries, change at issue. -/
def movEffect (d a : Nat) (k : MovKind) (s : State) : Eff :=
  match k with
  | .gg => writeG d (s.rg a) s
  | .qq => if s.cur.stream = .v then landQ d (s.rvq a) 1 s else writeQ d (s.rq a) s
  | .gl => writeG d ((s.me.lReg a).zeroExtend 64) s
  | .lg => .done (s.withMe (fun t => t.setL d (BitVec.ofNat 32 (s.rg a).toNat)))
  | .ge => writeG d (s.re a) s
  | .eg => .done (s.withMe (fun t => t.setE d (s.rg a)))

def execMov (h : Hdr) (d a : Nat) (k : MovKind) (s : State) := run h (movEffect d a k) s

/-- R166 -/
def execLi (h : Hdr) (d : Nat) (imm : Int) (s : State) := run h (writeG d (wordOf imm)) s
def execLih (h : Hdr) (d : Nat) (imm : Int) (s : State) :=
  run h (fun s => writeG d (BitVec.ofNat 64 ((s.rg d).field 0 32 + wrap 32 imm * 2 ^ 32)) s) s

/-- R167 -/
def execLea (h : Hdr) (d a b fn : Nat) (s : State) := runBinary h d a b (fun a b => a + b * BitVec.ofNat 64 (2 ^ fn)) s

/-- R168 -/
def execCmp (h : Hdr) (d a b : Nat) (c : Cond) (s : State) := run h (fun s => writeQ d (condHolds c (s.rg a) (s.rg b)) s) s
def execCmpi (h : Hdr) (d a : Nat) (imm : Int) (c : Cond) (s : State) := run h (fun s => writeQ d (condHolds c (s.rg a) (wordOf imm)) s) s

/-- The truth table t at (a, b) (R169). -/
def tableBit (t : Nat) (a b : Bool) : Bool := bitOf t (2 * bit01 a + bit01 b)

/-- PLOG: one bit in S, M and X, each of the 128 bits in V (R169), where the guard and the mask top hold by their bit 0 (log entry 90). -/
def plogEffect (d a b t : Nat) (s : State) : Eff :=
  if s.cur.stream = .v then
    landQ d (Mask.ofBits ((List.range 128).map (fun i => tableBit t ((s.rvq a).getLsbD i) ((s.rvq b).getLsbD i)))) 1 s
  else writeQ d (tableBit t (s.rq a) (s.rq b)) s

def execPlog (h : Hdr) (d a b fn : Nat) (s : State) := run h (plogEffect d a b fn) s

end Sys2Proof.Machine
end

