-- ==== Sys2Proof/Machine/Switch.lean ====
section
/-! DEFINITION. What the two slots of a cell share (13.6, 13.7): images in the save area (R318), the activation of a slot and growing
CSLIVE windows (R329), and the ownership of the tiles (R330 to R333). -/

namespace Sys2Proof.Machine

/-- Offset of the image descriptor in a save area (R318). -/
def descriptorAt : Nat := 0xA000

/-- A byte of the image descriptor of a slot's save area. -/
def State.descByte (s : State) (u : SlotId) (i : Nat) : Nat :=
  match s.savedBytes u ((s.slot u).sr.tsave.toNat + descriptorAt + i) 1 with
  | some (b :: _) => b.toNat
  | _ => 0

/-- Count a read of the image descriptor (R404, log entry 68). -/
def State.countDesc (s : State) (u : SlotId) : State := s.countSaved u ((s.slot u).sr.tsave.toNat + descriptorAt) 64

/-- Write bytes of the image descriptor. -/
def State.setDesc (s : State) (u : SlotId) (i : Nat) (bs : List Byte) : State :=
  s.saveBytes u ((s.slot u).sr.tsave.toNat + descriptorAt + i) bs

/-- A byte with one bit set or cleared. -/
def setBit (v i : Nat) (b : Bool) : Nat := v - bit01 (bitOf v i) * 2 ^ i + bit01 b * 2 ^ i

/-- Write bit j of byte i of the image descriptor. -/
def State.setDescBit (s : State) (u : SlotId) (i j : Nat) (b : Bool) : State :=
  (s.countDesc u).setDesc u i (bytesOf 1 (setBit (s.descByte u i) j b))

/-- Whether the image of a cell-store page is valid. -/
def State.pageValid (s : State) (u : SlotId) (p : Nat) : Bool := bitOf (s.descByte u (16 + p / 8)) (p % 8)

/-- Mark the image of a cell-store page. -/
def State.markPage (s : State) (u : SlotId) (p : Nat) (b : Bool) : State := s.setDescBit u (16 + p / 8) (p % 8) b

/-- Whether the image of a tile is valid. -/
def State.tileValid (s : State) (u : SlotId) (t : Nat) : Bool := bitOf (s.descByte u 0) t

/-- Mark the image of a tile. -/
def State.markTile (s : State) (u : SlotId) (t : Nat) (b : Bool) : State := s.setDescBit u 0 t b

/-- First byte of a page of a cell store. -/
def pageAt (cell p : Nat) : Nat := cellStoreAt cell + 4096 * p

/-- Write a page of the cell store to a slot's image, and mark it valid. -/
def State.savePage (s : State) (u : SlotId) (p : Nat) : State :=
  (s.saveBytes u ((s.slot u).sr.tsave.toNat + 0x10000 + 4096 * p) (s.load (pageAt u.cell p) 4096)).markPage u p true

/-- Load a page of the cell store from a slot's image, and mark the image as not valid. -/
def State.loadPage (s : State) (u : SlotId) (p : Nat) : State :=
  match s.savedBytes u ((s.slot u).sr.tsave.toNat + 0x10000 + 4096 * p) 4096 with
  | some bs => ((s.countSaved u ((s.slot u).sr.tsave.toNat + 0x10000 + 4096 * p) 4096).store (pageAt u.cell p) bs).markPage u p false
  | none => s.markPage u p false

/-- The pages of a window given as offset and length. -/
def pagesOf (w : Nat × Nat) : List Nat := (List.range (w.2 / 4096)).map (fun i => w.1 / 4096 + i)

/-- The pages of a slot's CSLIVE window. -/
def Slot.pages (l : Slot) : List Nat := pagesOf l.window_

/-- Whether the store holds a page for a slot (R329). -/
def State.holdsPage (s : State) (u : SlotId) (p : Nat) : Bool :=
  (s.slot u).bound.isSome && (s.slot u).pages.contains p && !s.pageValid u p

/-- Steps 1 to 3 of R329 for one page that slot u is to have; `zero` says whether a page that step 1 did not write is zeroed. -/
def State.takePage (s : State) (u : SlotId) (zero : Bool) (p : Nat) : State :=
  let o := otherSlot u
  let saved := s.holdsPage o p
  let s1 := if saved then s.savePage o p else s
  if s1.pageValid u p then s1.loadPage u p
  else if saved || zero then s1.wipe (pageAt u.cell p) 4096
  else s1

/-- A slot whose streams and X commands take their waits afresh. -/
def Slot.unmarked (l : Slot) : Slot :=
  { l with
    s := { l.s with waiting := none }, v := { l.v with waiting := none }, m := { l.m with waiting := none }, x := { l.x with waiting := none }
    xqueue := l.xqueue.map (fun k => { k with parked := none }) }

/-- Activation of a slot at a switch or at its first activation after a bind (R329). Its window is zeroed at the first activation beside
another micro-context, and also where the unit beside which it bound has since left (R42). -/
def State.activate (s : State) (u : SlotId) : State :=
  let l := s.slot u
  let zero := (s.foreignNeighbour u || l.beside) && !l.activated
  let s1 := l.pages.foldl (fun s p => s.takePage u zero p) s
  (s1.withSlot u (fun l => { l.unmarked with activated := true })).withCell u.cell (fun c =>
    { c with active := u.h1, activeSince := s.cyc, freed := none })

/-- Set the CSLIVE window of a slot: beside another micro-context, pages that it adds are taken as R329 states. -/
def State.setWindow (s : State) (u : SlotId) (off len : Nat) : State :=
  let old := (s.slot u).pages
  let added := (pagesOf (off, len)).filter (fun p => !old.contains p)
  let s1 := if s.foreignNeighbour u then added.foldl (fun s p => s.takePage u true p) s else s
  s1.withSlot u (fun l => { l with sr := { l.sr with cslive := windowWord off len } })

/-- Whether a new CSLIVE window waits for the host link (R410): beside another micro-context its pages move between the store and the
images. -/
def State.windowHeld (s : State) (u : SlotId) : Bool := s.foreignNeighbour u && s.cellHeld u.cell

/-- The window that CSLIVE makes from a start and a length (R205). -/
def windowOfRange (a b : Word) : Nat × Nat :=
  let start := if space a = 1 then offset a else a.toNat
  let last := min (start + b.toNat) (2 ^ 20)
  let lo := alignDown start 4096
  let hi := alignUp last 4096
  if 2 ^ 20 ≤ start ∨ last ≤ start ∨ hi ≤ lo then (0, 0) else (lo, hi - lo)

/-! ### Tiles -/

/-- The 4 KiB of a tile, row by row. -/
def Tile.bytes (t : Tile) : List Byte := (List.range 32).flatMap (fun r => bytesOf 128 (t.row r).toNat)

/-- A tile with its rows from 4 KiB. -/
def Tile.ofBytes (t : Tile) (bs : List Byte) : Tile :=
  (List.range 32).foldl (fun t r => t.setRow r (BitVec.ofNat 1024 (natAt bs (128 * r) 128))) t

/-- Write a tile and its poison mask to a slot's image, and mark it valid (R332, R333). -/
def State.spillTile (s : State) (u : SlotId) (t : Nat) : State :=
  let k := (s.cell u.cell).tile t
  let s1 := s.saveBytes u ((s.slot u).sr.tsave.toNat + 0x8000 + 0x1000 * t) k.bytes
  (s1.setDesc u (4 + 4 * t) (bytesOf 4 k.poison.toNat)).markTile u t true

/-- Load a tile and its poison bits from a slot's image; an image that cannot be read leaves zeros. -/
def State.reloadTile (s : State) (u : SlotId) (t : Nat) : State :=
  let va := (s.slot u).sr.tsave.toNat
  let poison := natOf ((List.range 4).map (fun i => BitVec.ofNat 8 (s.descByte u (4 + 4 * t + i))))
  match s.savedBytes u (va + 0x8000 + 0x1000 * t) 4096 with
  | some bs => ((s.countDesc u).countSaved u (va + 0x8000 + 0x1000 * t) 4096).withCell u.cell (fun c => c.withTile t (fun k => { (Tile.ofBytes { k with rows := [] } bs) with poison := BitVec.ofNat 32 poison }))
  | none => s.withCell u.cell (fun c => c.withTile t (fun k => { k with rows := [], poison := 0 }))

/-- What the firmware does about ACCFIRST of a slot on a tile (R332). -/
def State.handOverTile (s : State) (u : SlotId) (t : Nat) : State :=
  let k := (s.cell u.cell).tile t
  let owner : SlotId := { u with h1 := k.own }
  let s1 :=
    if !k.held then s
    else if k.dirty then (s.spillTile owner t).withSlot owner (fun l => l.setImg t true)
    else if s.tileValid owner t then s.withSlot owner (fun l => l.setImg t true)
    else s
  let s2 :=
    if (s1.slot u).img t then (s1.reloadTile u t).withSlot u (fun l => l.setImg t false)
    else s1.withCell u.cell (fun c => c.withTile t (fun k => { k with rows := [], poison := 0 }))
  s2.withCell u.cell (fun c => c.withTile t (fun k => { k with own := u.h1, held := true, dirty := false }))

/-- The tiles that a slot owns are spilled if dirty, and released (R333, forced pre-emption). -/
def State.spillOwned (s : State) (u : SlotId) : State :=
  let f (s : State) (t : Nat) : State :=
    let k := (s.cell u.cell).tile t
    if k.held ∧ k.own = u.h1 ∧ k.dirty then s.spillTile u t else s
  (f (f s 0) 1).withCell u.cell (fun c => c.releaseTiles u.h1)

end Sys2Proof.Machine
end

