-- ==== Sys2Proof/Machine/Control.lean ====
section
/-! DEFINITION. Opcodes 0x2D to 0x37: branches, calls, loops and halt (7.8), address conversion and test (7.9), and special registers
(7.10, Tables 1.5 to 1.11). -/

namespace Sys2Proof.Machine

/-- BR (R172): its guard decides. -/
def execBr (h : Hdr) (tgt : Target) (s : State) := run h (fun s => branchTo s tgt) s

/-- R171 -/
def execJmpr (h : Hdr) (a : Nat) (s : State) := run h (fun s => branchReg s (s.rg a)) s
def execRet (h : Hdr) (a : Nat) (s : State) := run h (fun s => branchReg s (s.rg a)) s

/-- A branch that also writes its link to g63; the target is checked, and read, before the link is written (R170, R172). -/
def withLink (h : Hdr) (r : Eff) : Eff :=
  match r with
  | .goto s t => .goto (s.withMe (fun m => m.setG 63 (s.linkAddr h))) t
  | e => e

/-- R172 -/
def execCall (h : Hdr) (tgt : Target) (s : State) := run h (fun s => withLink h (branchTo s tgt)) s
def execCallr (h : Hdr) (a : Nat) (s : State) := run h (fun s => withLink h (branchReg s (s.rg a))) s

/-- LOOP counts l[d] down and branches while it is not 0 (R173). -/
def loopEffect (d : Nat) (tgt : Target) (s : State) : Eff :=
  let n := s.me.lReg d
  if n = 0 then .done s
  else
    let s1 := s.withMe (fun m => m.setL d (n - 1))
    if n = 1 then .done s1 else branchTo s1 tgt

def execLoop (h : Hdr) (d : Nat) (tgt : Target) (s : State) := run h (loopEffect d tgt) s

/-- HALT (R174). -/
def execHalt (h : Hdr) (s : State) := run h .halt s

/-- A word with SPACE, RANK and OFFSET replaced (Table 2.3). -/
def address (sp rk off : Nat) : Word := BitVec.ofNat 64 (sp * 2 ^ 61 + rk * 2 ^ 57 + off % 2 ^ 57)

/-- CVTA fn 0: own forms to rank-qualified ones (R175). -/
def toRankForm (cell : Nat) (slice : Nat × Nat) (a : Word) : Word :=
  match space a with
  | 1 => address 2 (rankOf cell) (offset a)
  | 3 => address 4 (clusterOf cell) (offset a + slice.1)
  | _ => a

/-- CVTA fn 1: rank-qualified forms to own ones (R175). -/
def toOwnForm (cell : Nat) (slice : Nat × Nat) (a : Word) : Word :=
  match space a with
  | 2 => if rankField a = rankOf cell then address 1 0 (offset a) else a
  | 4 => if rankField a = clusterOf cell ∧ slice.1 ≤ offset a ∧ offset a < slice.1 + slice.2 then address 3 0 (offset a - slice.1) else a
  | _ => a

/-- CVTA (R175). -/
def convertAddress (s : State) (fn : Nat) (a : Word) : Word :=
  let cell := s.cur.slot.cell
  let b := s.binding s.cur.slot
  if isPantry cell then a else if fn = 0 then toRankForm cell b.slice a else toOwnForm cell b.slice a

def execCvta (h : Hdr) (d a fn : Nat) (s : State) := run h (fun s => writeG d (convertAddress s fn (s.rg a)) s) s

/-- TSPC (R176). -/
def execTspc (h : Hdr) (d a fn : Nat) (s : State) := run h (fun s => writeQ d (decide (space (s.rg a) = fn)) s) s

/-- UNIT (Table 1.6). -/
def unitWord (u : SlotId) : Word :=
  BitVec.ofNat 64 (bit01 (isPantry u.cell) * 2 ^ 15 + bit01 u.h1 * 2 ^ 14 + dieOf u.cell * 2 ^ 12 + clusterOf u.cell * 2 ^ 8 +
    rankOf u.cell * 2 ^ 5)

/-- TEAM (Table 1.7). -/
def teamWord (u : SlotId) (b : Binding) : Word :=
  if isPantry u.cell then BitVec.ofNat 64 (2 ^ 32)
  else BitVec.ofNat 64 (b.size * 2 ^ 32 + b.base * 2 ^ 16 + (u.cell - b.base))

/-- CTX (Table 1.8). -/
def ctxWord (b : Binding) : Word := BitVec.ofNat 64 (b.home * 2 ^ 14 + b.handle)

/-- PART (Table 1.9). -/
def partWord (b : Binding) : Word := BitVec.ofNat 64 (bit01 b.prot * 2 ^ 4 + b.part)

/-- AOWN (Table 13.5). -/
def aownWord (c : CellSt) (l : Slot) : Word :=
  let bits (t : Tile) : Nat := bit01 t.own + 2 * bit01 t.dirty + 4 * bit01 t.held
  BitVec.ofNat 64 (bits c.a0 + 8 * bits c.a1 + 2 ^ 8 * bit01 l.sr.img0 + 2 ^ 9 * bit01 l.sr.img1)

/-- The value of a special register of a slot (Table 1.5); a pantry cell's AOWN and MPROG read 0 (R15). -/
def State.special (s : State) (u : SlotId) (n : Nat) : Word :=
  let l := s.slot u
  let b := s.binding u
  let pantry := isPantry u.cell
  match n with
  | 0x00 => unitWord u
  | 0x01 => teamWord u b
  | 0x02 => ctxWord b
  | 0x03 => partWord b
  | 0x04 => l.prio
  | 0x05 => BitVec.ofNat 64 s.cyc
  | 0x08 => l.sr.tvec
  | 0x09 => l.sr.tcause
  | 0x0A => l.sr.tval
  | 0x0B => l.sr.tsave
  | 0x0C => if pantry then 0 else aownWord (s.cell u.cell) l
  | 0x0D => if pantry then 0 else l.sr.mprog
  | 0x0E => l.sr.cslive
  | 0x0F => l.vstat
  | _ => 0

/-- Whether a mode may write a special register (Table 1.5). -/
def specialWritable (user : Bool) (n : Nat) : Bool :=
  if user then decide (n = 0x08 ∨ n = 0x0E ∨ n = 0x0F) else decide (n = 0x04 ∨ (0x08 ≤ n ∧ n ≤ 0x0F))

/-- MPROG with its writable bits from a word (Table 10.2). -/
def mprogOf (w : Word) : Word := w &&& 0xFFFFFFFFFF0000BD

/-- A tile with its AOWN bits from a number. -/
def Tile.withOwn (t : Tile) (v : Nat) : Tile := { t with own := bitOf v 0, dirty := bitOf v 1, held := bitOf v 2 }

/-- The write of a special register that the mode may write: only its writable fields change (R30). Every
stream reads the new value from the next step on (log entry 92). -/
def State.setSpecial (s : State) (u : SlotId) (n : Nat) (w : Word) : State :=
  let f (g : Specials → Specials) : State := s.withSlot u (fun l => { l with sr := g l.sr })
  let pantry := isPantry u.cell
  match n with
  | 0x04 => f (fun r => { r with level := min (w.field 0 5) r.ceil })
  | 0x08 => f (fun r => { r with tvec := tvecOf w })
  | 0x09 => f (fun r => { r with tcause := w &&& 0x3FFFFF })
  | 0x0A => f (fun r => { r with tval := w })
  | 0x0B => f (fun r => { r with tsave := tsaveOf w })
  | 0x0C =>
    if pantry then s
    else (f (fun r => { r with img0 := w.bit 8, img1 := w.bit 9 })).withCell u.cell (fun c =>
      { c with a0 := c.a0.withOwn (w.field 0 3), a1 := c.a1.withOwn (w.field 3 3) })
  | 0x0D => if pantry then s else f (fun r => { r with mprog := mprogOf w })
  | 0x0E => s.setWindow u (windowOfWord w).1 (windowOfWord w).2
  | 0x0F => f (fun r => { r with vflags := BitVec.ofNat 8 w.toNat })
  | _ => s

/-- MFS (R30, R177). A number that names no register traps as its encoding does. -/
def mfsEffect (d a : Nat) (s : State) : Eff :=
  if specialNumbers.contains a then writeG d (s.special s.cur.slot a) s else .trap (trapAt causeIllreg 0 s.me.pc)

def execMfs (h : Hdr) (d a : Nat) (s : State) := run h (mfsEffect d a) s

/-- MTS (R30, R177, R178). Its effect in V, which no snapshot entry carries, is made at issue. A number that names no register traps as its
encoding does. -/
def mtsEffect (d a : Nat) (s : State) : Eff :=
  let user := s.userMode s.cur
  if !specialNumbers.contains d then .trap (trapAt causeIllreg 0 s.me.pc)
  else if d = 0x0E ∧ s.windowHeld s.cur.slot then .wait .link
  else if specialWritable user d then .done (s.setSpecial s.cur.slot d (s.rg a))
  else if user then .trap (trapAt causePriv 0 d)
  else .done s

def execMts (h : Hdr) (d a : Nat) (s : State) := run h (mtsEffect d a) s

end Sys2Proof.Machine
end

