-- ==== Sys2Proof/Machine/Numbers.lean ====
section
/-! DEFINITION. Element formats and exact arithmetic (3.1 to 3.4, 3.6, 3.7, 3.11): the value a code stands for, exact sums and
products, one rounding at the end, and the counter-based generator. -/

namespace Sys2Proof

open Machine (Flags)

/-- Parameters of a floating-point format (Table 3.2). -/
structure FloatFormat where
  exp : Nat
  frac : Nat
  bias : Nat
  inf : Bool
  nan : Bool
  deriving DecidableEq, Repr

/-- An integer format (R72). -/
structure IntFormat where
  width : Nat
  signed : Bool
  deriving DecidableEq, Repr

/-- What a format's elements are. A4 is known only with its block's type (R74). -/
inductive Kind where
  | float (f : FloatFormat)
  | int (i : IntFormat)
  | a4
  deriving DecidableEq, Repr

def fp32 : FloatFormat := { exp := 8, frac := 23, bias := 127, inf := true, nan := true }
def bf16 : FloatFormat := { exp := 8, frac := 7, bias := 127, inf := true, nan := true }
def fp16 : FloatFormat := { exp := 5, frac := 10, bias := 15, inf := true, nan := true }
def fp64 : FloatFormat := { exp := 11, frac := 52, bias := 1023, inf := true, nan := true }
def e5m2 : FloatFormat := { exp := 5, frac := 2, bias := 15, inf := true, nan := true }
def e4m3 : FloatFormat := { exp := 4, frac := 3, bias := 7, inf := false, nan := true }
def e3m2 : FloatFormat := { exp := 3, frac := 2, bias := 3, inf := false, nan := false }
def e2m3 : FloatFormat := { exp := 2, frac := 3, bias := 1, inf := false, nan := false }
def e2m1 : FloatFormat := { exp := 2, frac := 1, bias := 1, inf := false, nan := false }

/-- The kind of a format (Table 3.1). -/
def Format.kind : Format → Kind
  | .fp32 => .float Sys2Proof.fp32
  | .bf16 => .float Sys2Proof.bf16
  | .fp16 => .float Sys2Proof.fp16
  | .fp64 => .float Sys2Proof.fp64
  | .int32 => .int { width := 32, signed := true }
  | .uint32 => .int { width := 32, signed := false }
  | .int16 => .int { width := 16, signed := true }
  | .uint16 => .int { width := 16, signed := false }
  | .int8 => .int { width := 8, signed := true }
  | .uint8 => .int { width := 8, signed := false }
  | .e5m2 => .float Sys2Proof.e5m2
  | .e4m3 => .float Sys2Proof.e4m3
  | .e3m2 => .float Sys2Proof.e3m2
  | .e2m3 => .float Sys2Proof.e2m3
  | .e2m1 => .float Sys2Proof.e2m1
  | .int4 => .int { width := 4, signed := true }
  | .uint4 => .int { width := 4, signed := false }
  | .a4 => .a4

/-- Bits of a floating-point format. -/
def FloatFormat.width (f : FloatFormat) : Nat := f.exp + f.frac + 1

/-- Bits of an element (Table 3.1). -/
def Format.width (f : Format) : Nat :=
  match f.kind with
  | .float f => f.width
  | .int i => i.width
  | .a4 => 4

/-- Whether a format may be block-scaled (Table 3.1). -/
def Format.scalable : Format → Bool
  | .int8 | .uint8 | .e5m2 | .e4m3 | .e3m2 | .e2m3 | .e2m1 | .int4 | .uint4 | .a4 => true
  | _ => false

/-- An exact value: NaN, an infinity, or (−1)^neg × m × 2^e. -/
inductive FVal where
  | nan
  | inf (neg : Bool)
  | fin (neg : Bool) (m : Nat) (e : Int)
  deriving DecidableEq, Repr

/-- The value of a floating-point code (R70). -/
def FloatFormat.value (f : FloatFormat) (code : Nat) : FVal :=
  let neg := bitOf code (f.exp + f.frac)
  let e := bitsOf code f.frac f.exp
  let m := bitsOf code 0 f.frac
  let lsb : Int := 1 - (f.bias : Int) - f.frac
  if f.inf ∧ e = 2 ^ f.exp - 1 then (if m = 0 then .inf neg else .nan)
  else if !f.inf ∧ f.nan ∧ code % 2 ^ (f.exp + f.frac) = 2 ^ (f.exp + f.frac) - 1 then .nan
  else if e = 0 then .fin neg m lsb
  else .fin neg (2 ^ f.frac + m) (lsb + e - 1)

/-- The exact value of an integer. -/
def FVal.ofInt (i : Int) : FVal := .fin (decide (i < 0)) i.natAbs 0

/-- The integer that a code of an integer format holds (R72). -/
def IntFormat.value (f : IntFormat) (code : Nat) : Int :=
  if f.signed then Sys2Proof.signed f.width (code % 2 ^ f.width) else (code % 2 ^ f.width : Nat)

/-- The value of an A4 code under its block's type (Table 3.7). -/
def a4Value (type code : Nat) : FVal :=
  let neg := bitOf code 3
  let k := code % 8
  match type with
  | 0 => .ofInt (signed 4 (code % 16))
  | 1 => e2m1.value code
  | 2 => if k = 0 then .fin neg 0 0 else .fin neg 1 ((k : Int) - 3)
  | _ => .fin neg ([0, 1, 2, 3, 4, 6, 8, 12].getD k 0) 0

/-- The value of a code; `type` is the A4 type of the block (R74). -/
def Format.value (f : Format) (type code : Nat) : FVal :=
  match f.kind with
  | .float f => f.value code
  | .int i => .ofInt (i.value code)
  | .a4 => a4Value type code

/-- Whether a value is a zero. -/
def FVal.isZero : FVal → Bool
  | .fin _ 0 _ => true
  | _ => false

/-- Whether a value is NaN. -/
def FVal.isNan : FVal → Bool
  | .nan => true
  | _ => false

/-- The sign of a value. -/
def FVal.neg : FVal → Bool
  | .nan => false
  | .inf n => n
  | .fin n _ _ => n

/-- A value with its sign inverted. -/
def FVal.negate : FVal → FVal
  | .nan => .nan
  | .inf n => .inf (!n)
  | .fin n m e => .fin (!n) m e

/-- A value without its sign. -/
def FVal.abs : FVal → FVal
  | .nan => .nan
  | .inf _ => .inf false
  | .fin _ m e => .fin false m e

/-- A finite value as an integer multiple of 2^lsb, for lsb at most its exponent. -/
def scaledInt (neg : Bool) (m : Nat) (e lsb : Int) : Int :=
  let v : Int := (m * 2 ^ (e - lsb).toNat : Nat)
  if neg then -v else v

/-- The exact sum, and whether it is invalid (R217): `down` gives an exact zero of opposite signs the sign of RDN. -/
def FVal.add (down : Bool) : FVal → FVal → FVal × Bool
  | .nan, _ => (.nan, false)
  | _, .nan => (.nan, false)
  | .inf a, .inf b => if a = b then (.inf a, false) else (.nan, true)
  | .inf a, _ => (.inf a, false)
  | _, .inf b => (.inf b, false)
  | .fin n1 m1 e1, .fin n2 m2 e2 =>
    let lsb := min e1 e2
    let t := scaledInt n1 m1 e1 lsb + scaledInt n2 m2 e2 lsb
    if t = 0 then (.fin (if m1 = 0 ∧ m2 = 0 ∧ n1 = n2 then n1 else down) 0 0, false)
    else (.fin (decide (t < 0)) t.natAbs lsb, false)

/-- The exact product, and whether it is 0 × ∞ (R77). -/
def FVal.mul : FVal → FVal → FVal × Bool
  | .nan, _ => (.nan, false)
  | _, .nan => (.nan, false)
  | .inf a, .inf b => (.inf (a != b), false)
  | .inf a, .fin b m _ => if m = 0 then (.nan, true) else (.inf (a != b), false)
  | .fin a m _, .inf b => if m = 0 then (.nan, true) else (.inf (a != b), false)
  | .fin a m1 e1, .fin b m2 e2 => (.fin (a != b) (m1 * m2) (e1 + e2), false)

/-- Comparison of two values that are not NaN; −0 equals +0. -/
def FVal.compare : FVal → FVal → Ordering
  | .fin n1 m1 e1, .fin n2 m2 e2 =>
    let lsb := min e1 e2
    let a := scaledInt n1 m1 e1 lsb
    let b := scaledInt n2 m2 e2 lsb
    if a < b then .lt else if a = b then .eq else .gt
  | .inf a, .inf b => if a = b then .eq else if a then .lt else .gt
  | .inf a, _ => if a then .lt else .gt
  | _, .inf b => if b then .gt else .lt
  | _, _ => .eq

/-- m × 2^sh rounded to a whole number, and whether that is inexact (Table 3.10). `draw` is the generator word of STO (R86). -/
def roundWhole (r : Rounding) (neg : Bool) (draw m : Nat) (sh : Int) : Nat × Bool :=
  if 0 ≤ sh then (m * 2 ^ sh.toNat, false)
  else
    let k := (-sh).toNat
    let lo := m / 2 ^ k
    let rem := m % 2 ^ k
    let up := match r with
      | .rne => decide (2 ^ k < 2 * rem) || (decide (2 * rem = 2 ^ k) && decide (lo % 2 = 1))
      | .rtz => false
      | .rup => !neg
      | .rdn => neg
      | .sto => decide (draw < rem * 2 ^ 32 / 2 ^ k)
    if rem = 0 then (lo, false) else (lo + bit01 up, true)

/-- The magnitude bits of the largest finite value (Table 3.2). -/
def FloatFormat.maxMag (f : FloatFormat) : Nat :=
  if f.inf then (2 ^ f.exp - 1) * 2 ^ f.frac - 1 else 2 ^ (f.exp + f.frac) - 1 - bit01 f.nan

/-- The magnitude bits of an infinity. -/
def FloatFormat.infMag (f : FloatFormat) : Nat := (2 ^ f.exp - 1) * 2 ^ f.frac

/-- The canonical NaN; +0 in a format without NaN (R71, R89). -/
def FloatFormat.canonNan (f : FloatFormat) : Nat :=
  if f.inf then f.infMag + 2 ^ (f.frac - 1) else if f.nan then 2 ^ (f.exp + f.frac) - 1 else 0

/-- A code from its sign and magnitude bits. -/
def FloatFormat.code (f : FloatFormat) (neg : Bool) (mag : Nat) : Nat := bit01 neg * 2 ^ (f.exp + f.frac) + mag

/-- Whether an overflowing result becomes an infinity (R87). -/
def overflowsToInf (r : Rounding) (neg : Bool) : Bool :=
  match r with
  | .rne => true
  | .rtz => false
  | .rup => !neg
  | .rdn => neg
  | .sto => true

/-- A value rounded once to a format, with its flags (R85 to R89). A result overflows when the value rounded under an unbounded
exponent passes the largest finite magnitude; in a format without infinities it becomes that magnitude with OF alone, as the
example of R91 shows. -/
def FloatFormat.round (f : FloatFormat) (r : Rounding) (draw : Nat) : FVal → Nat × Flags
  | .nan => (f.canonNan, { nv := !f.nan })
  | .inf neg => if f.inf then (f.code neg f.infMag, Flags.none) else (f.code neg f.maxMag, { of := true })
  | .fin neg m e =>
    if m = 0 then (f.code neg 0, Flags.none)
    else
      let lsb : Int := 1 - (f.bias : Int) - f.frac
      let free : Int := e + bitLength m - 1 - f.frac
      let q := max free lsb
      let (k, inexact) := roundWhole r neg draw m (e - q)
      let mag := (q - lsb).toNat * 2 ^ f.frac + k
      let beyond := decide (f.maxMag < mag)
      let exceeds := beyond || (decide (mag = f.maxMag) && inexact && decide (FVal.compare (.fin false m e) (f.value f.maxMag) = .gt))
      let tiny := decide (free < lsb) &&
        !(decide (free + 1 = lsb) && decide ((roundWhole r neg draw m (e - free)).1 = 2 ^ (f.frac + 1)))
      if !f.inf ∧ (beyond ∨ (r = .sto ∧ exceeds)) then (f.code neg f.maxMag, { of := true })
      else if beyond then
        (if overflowsToInf r neg then f.code neg f.infMag else f.code neg f.maxMag, { of := true, nx := true })
      else
        (f.code neg mag, { nx := inexact, uf := inexact && tiny, of := decide (r = .sto) && exceeds })

/-- A value rounded to an integer format, with saturation (R90, R91). -/
def IntFormat.round (f : IntFormat) (r : Rounding) (draw : Nat) (x : FVal) : Nat × Flags :=
  let lo : Int := if f.signed then -(2 ^ (f.width - 1)) else 0
  let hi : Int := if f.signed then 2 ^ (f.width - 1) - 1 else 2 ^ f.width - 1
  match x with
  | .nan => (0, { nv := true })
  | .inf neg => (wrap f.width (if neg then lo else hi), { sat := true })
  | .fin neg m e =>
    let (k, inexact) := roundWhole r neg draw m e
    let v : Int := if neg then -(k : Int) else k
    if v < lo then (wrap f.width lo, { sat := true })
    else if hi < v then (wrap f.width hi, { sat := true })
    else (wrap f.width v, { nx := inexact })

/-- A value rounded to a format (R89 to R91). No conversion has A4 as its target. -/
def Format.round (f : Format) (r : Rounding) (draw : Nat) (x : FVal) : Nat × Flags :=
  match f.kind with
  | .float f => f.round r draw x
  | .int i => i.round r draw x
  | .a4 => (0, Flags.none)

/-- The format of a V element type; codes 0 to 9 are the same (R68). -/
def ElemType.format : ElemType → Format
  | .f32 => .fp32
  | .bf16 => .bf16
  | .f16 => .fp16
  | .f64 => .fp64
  | .i32 => .int32
  | .u32 => .uint32
  | .i16 => .int16
  | .u16 => .uint16
  | .i8 => .int8
  | .u8 => .uint8

/-- The width of a V element type. -/
def ElemType.width (t : ElemType) : Nat := t.format.width

/-! ### The generator (R101) -/

/-- The four words of a Philox counter or output. -/
structure Philox where
  c0 : Nat
  c1 : Nat
  c2 : Nat
  c3 : Nat
  deriving DecidableEq, Repr

/-- n rounds of the generator under a key. -/
def Philox.rounds (p : Philox) (k0 k1 : Nat) : Nat → Philox
  | 0 => p
  | n + 1 =>
    let p0 := 0xD2511F53 * p.c0
    let p1 := 0xCD9E8D57 * p.c2
    Philox.rounds
      { c0 := Nat.xor (Nat.xor (p1 / 2 ^ 32) p.c1) k0, c1 := p1 % 2 ^ 32, c2 := Nat.xor (Nat.xor (p0 / 2 ^ 32) p.c3) k1, c3 := p0 % 2 ^ 32 }
      ((k0 + 0x9E3779B9) % 2 ^ 32) ((k1 + 0xBB67AE85) % 2 ^ 32) n

/-- Philox-4×32-10 with counter (low and high half of a word, i, 0) and a word as key. -/
def philox (counter : Word) (i : Nat) (key : Word) : Philox :=
  Philox.rounds { c0 := counter.field 0 32, c1 := counter.field 32 32, c2 := i, c3 := 0 } (key.field 0 32) (key.field 32 32) 10

/-- Word j of an output. -/
def Philox.word (p : Philox) (j : Nat) : Nat := [p.c0, p.c1, p.c2, p.c3].getD j 0

/-- The generator word that STO rounding draws at element i, from g14 and g15 (R86); 0 for the other modes, which draw none. -/
def stoDraw (r : Rounding) (g14 g15 : Word) (i : Nat) : Nat := if r = .sto then (philox g15 i g14).c0 else 0

end Sys2Proof
end

