-- ==== Sys2Proof/Machine/Shape.lean ====
section
/-! DEFINITION. Shape records (2.6): taking a record through the record cache, its validation, and the places of its elements and
scale words; reading and writing elements byte by byte under the checks of R64. -/

namespace Sys2Proof.Machine

/-- A validated shape record (Tables 2.11, 2.12); extents of unused dimensions are 1 and their strides 0. -/
structure Shape where
  addr : Word
  base : Word
  fmt : Format
  scaled : Bool
  pad : Nat
  ext : Nat × Nat × Nat × Nat
  str1 : Word
  str2 : Word
  str3 : Word
  scale : Word
  deriving DecidableEq, Repr

/-- Field FMT as a format (Table 3.1). -/
def formatOf (n : Nat) : Option Format :=
  [Format.fp32, .bf16, .fp16, .fp64, .int32, .uint32, .int16, .uint16, .int8, .uint8, .e5m2, .e4m3, .e3m2, .e2m3, .e2m1, .int4, .uint4, .a4][n]?

/-- Parse a record's 64 bytes; none where R65 finds it invalid. -/
def Shape.ofRecord (addr : Word) (bits : BitVec 512) : Option Shape :=
  let v := bits.toNat
  let f := bitsOf v 64 64
  let ndim := bitsOf f 10 2
  let ext (d : Nat) : Nat := if d ≤ ndim then bitsOf v (128 + 32 * d) 32 else 1
  let str (d : Nat) : Word := if d ≤ ndim then BitVec.ofNat 64 (bitsOf v (320 + 64 * (d - 1)) 64) else 0
  let scaled := bitOf f 9
  match formatOf (bitsOf f 0 5) with
  | none => none
  | some fmt =>
    if bitsOf f 32 32 ≠ 0 ∨ bitsOf f 12 4 ≠ 0 ∨ bitsOf f 5 4 ≠ 0 then none
    else if (scaled ∧ !fmt.scalable) ∨ (!scaled ∧ fmt = .a4) then none
    else if [ext 0, ext 1, ext 2, ext 3].any (fun e => decide (e = 0 ∨ 2 ^ 31 < e)) then none
    else some { addr := addr, base := BitVec.ofNat 64 (bitsOf v 0 64), fmt := fmt, scaled := scaled, pad := bitsOf f 16 16,
                ext := (ext 0, ext 1, ext 2, ext 3), str1 := str 1, str2 := str 2, str3 := str 3, scale := BitVec.ofNat 64 (bitsOf v 256 64) }

/-- ILLOP with subcode SHAPE and the address of the record (R65). -/
def shapeTrap (addr : Word) : TrapInfo := { cause := causeIllop, sub := 2, tval := addr }

/-- The record-cache entry of a slot for an address (R66). -/
def CellSt.cached (c : CellSt) (h1 : Bool) (addr : Word) : Option (BitVec 512) :=
  (c.recs.find? (fun e => e.h1 == h1 && e.addr == addr)).map (·.data)

/-- Note the use of a record: its entry becomes the most recently used of 32 (R66). -/
def CellSt.touchRecord (c : CellSt) (h1 : Bool) (addr : Word) (data : BitVec 512) : CellSt :=
  { c with recs := ({ h1 := h1, addr := addr, data := data } :: c.recs.filter (fun e => !(e.h1 == h1 && e.addr == addr))).take 32 }

/-- Take a record (R65, R66): its space, its alignment, then the cache, or one read of 64 bytes that fills an entry. Such a read by an X
command is a plain access of X, and the barrier-interval discipline checks it (R289, R297). -/
def State.takeRecord (s : State) (c : Cursor) (addr : Word) : Except Stop (BitVec 512 × State) :=
  let u := c.slot
  if !s.spaceOk c (s.binding u) addr 64 then .error (trap0 causeSpace addr)
  else if offset addr % 64 ≠ 0 then .error (.trap (shapeTrap addr))
  else
    match (s.cell u.cell).cached u.h1 addr with
    | some d => .ok (d, s.withCell u.cell (fun k => k.touchRecord u.h1 addr d))
    | none =>
      match s.place c (s.binding u) .load addr 64 with
      | .error e => .error e
      | .ok k =>
        match (if c.stream = .x then s.lineCheck c false addr k 64 else .ok s) with
        | .error e => .error e
        | .ok s1 =>
          let d := BitVec.ofNat 512 (natOf (s1.load k 64))
          .ok (d, (s1.countLoad k).withCell u.cell (fun c => c.touchRecord u.h1 addr d))

/-- Take a record and validate it (R65). -/
def State.takeShape (s : State) (c : Cursor) (addr : Word) : Except Stop (Shape × BitVec 512 × State) :=
  match s.takeRecord c addr with
  | .error e => .error e
  | .ok (d, s1) =>
    match Shape.ofRecord addr d with
    | some sh => .ok (sh, d, s1)
    | none => .error (.trap (shapeTrap addr))

/-- Indices of an element. -/
structure Index where
  i0 : Nat
  i1 : Nat
  i2 : Nat
  i3 : Nat
  deriving DecidableEq, Repr

/-- The number of elements within the extents. -/
def Shape.count (sh : Shape) : Nat := sh.ext.1 * sh.ext.2.1 * sh.ext.2.2.1 * sh.ext.2.2.2

/-- The indices of the n-th element in element order (R252). -/
def Shape.index (sh : Shape) (n : Nat) : Index :=
  let e0 := sh.ext.1
  let e1 := sh.ext.2.1
  let e2 := sh.ext.2.2.1
  { i0 := n % e0, i1 := n / e0 % e1, i2 := n / (e0 * e1) % e2, i3 := n / (e0 * e1 * e2) }

/-- Whether an element lies within the extents. -/
def Shape.holds (sh : Shape) (i : Index) : Bool :=
  decide (i.i0 < sh.ext.1 ∧ i.i1 < sh.ext.2.1 ∧ i.i2 < sh.ext.2.2.1 ∧ i.i3 < sh.ext.2.2.2)

/-- Bits of an element. -/
def Shape.width (sh : Shape) : Nat := sh.fmt.width

/-- The bytes that an element touches: the address of the first, the bit of it at which the element begins, and their number (R64). -/
def Shape.locate (sh : Shape) (i : Index) : Word × Nat × Nat :=
  let bit := i.i0 * sh.width
  let a := sh.base + BitVec.ofNat 64 i.i1 * sh.str1 + BitVec.ofNat 64 i.i2 * sh.str2 + BitVec.ofNat 64 i.i3 * sh.str3 + BitVec.ofNat 64 (bit / 8)
  (a, bit % 8, (bit % 8 + sh.width + 7) / 8)

/-- The pattern of an element outside the extents (Table 2.12). -/
def Shape.padding (sh : Shape) : Nat := sh.pad % 2 ^ sh.width

/-- Blocks along dimension 0. -/
def Shape.blocks (sh : Shape) : Nat := ceilDiv sh.ext.1 32

/-- The address of the scale word of block j (R64). -/
def Shape.scaleAt (sh : Shape) (j : Nat) (i : Index) : Word :=
  sh.scale + BitVec.ofNat 64 (2 * (j + sh.blocks * (i.i1 + sh.ext.2.1 * (i.i2 + sh.ext.2.2.1 * i.i3))))

/-- Line checks of bytes one by one (R297, R299). -/
def State.lineChecks (s : State) (c : Cursor) (write : Bool) : Word → List Nat → Except Stop State
  | _, [] => .ok s
  | a, k :: ks =>
    match s.lineCheck c write a k 1 with
    | .error e => .error e
    | .ok s1 => s1.lineChecks c write (a + 1) ks

/-- Byte numbers of an access to n bytes, each checked, with the line states it leaves. M's accesses are not line-checked: they stay in
the own cell store. -/
def State.touch (s : State) (c : Cursor) (write : Bool) (a : Word) (n : Nat) : Except Stop (List Nat × State) :=
  match s.accessEach c (if write then .store else .load) a n with
  | .error e => .error e
  | .ok ks =>
    match s.lineChecks c write a ks with
    | .error e => .error e
    | .ok s1 => .ok (ks, s1)

/-- Whether one of some bytes carries an uncorrectable error. -/
def State.anyUpset (s : State) (ks : List Nat) : Bool := ks.any (fun k => (Map.find s.upsets k).isSome)

/-- Read an element's code; outside the extents PAD, without an access (R64). The third part says whether a byte read carries an
uncorrectable error (R246). -/
def State.readElem (s : State) (c : Cursor) (sh : Shape) (i : Index) : Except Stop (Nat × State × Bool) :=
  if !sh.holds i then .ok (sh.padding, s, false)
  else
    let (a, bit, n) := sh.locate i
    match s.touch c false a n with
    | .error e => .error e
    | .ok (ks, s1) => .ok (bitsOf (natOf (s1.loadEach ks)) bit sh.width, s1.countEach ks, s1.anyUpset ks)

/-- Write an element's code; outside the extents it is dropped (R64). -/
def State.writeElem (s : State) (c : Cursor) (sh : Shape) (i : Index) (v : Nat) : Except Stop State :=
  if !sh.holds i then .ok s
  else
    let (a, bit, n) := sh.locate i
    match s.touch c true a n with
    | .error e => .error e
    | .ok (ks, s1) =>
      let old := natOf (s1.loadEach ks)
      let new := old - bitsOf old bit sh.width * 2 ^ bit + v % 2 ^ sh.width * 2 ^ bit
      .ok (s1.storeEach (ks.zip (bytesOf n new)))

/-- Read the scale word of block j; a block that has none takes 1.0 and A4 type 00, without an access (R64). An odd address traps ALIGN before
its space is looked at (log entry 102: the spec gives no order). -/
def State.readScale (s : State) (c : Cursor) (sh : Shape) (j : Nat) (i : Index) : Except Stop (Nat × State × Bool) :=
  if sh.blocks ≤ j ∨ !sh.holds { i with i0 := 0 } then .ok (0x3F80, s, false)
  else
    let a := sh.scaleAt j i
    if offset a % 2 ≠ 0 then .error (trap0 causeAlign a)
    else
      match s.touch c false a 2 with
      | .error e => .error e
      | .ok (ks, s1) => .ok (natOf (s1.loadEach ks), s1.countEach ks, s1.anyUpset ks)

/-- The scale and the A4 type that a scale word gives a format (R73, R74). -/
def scaleOf (fmt : Format) (w : Nat) : FVal × Nat :=
  if fmt = .a4 then (bf16.value (w - w % 4), w % 4) else (bf16.value w, 0)

/-! ### Spans of the own cell store (R254) -/

/-- A span of bytes of the own cell store, from `lo` up to but not including `hi`. -/
structure Span where
  lo : Int
  hi : Int
  write : Bool
  deriving DecidableEq, Repr

/-- Whether two spans overlap with one of them writing (R295). -/
def Span.meets (a b : Span) : Bool := decide (a.lo < b.hi) && decide (b.lo < a.hi) && (a.write || b.write)

/-- Whether an address names the own cell store of a cell (R49). -/
def ownStore (cell : Nat) (a : Word) : Bool :=
  (decide (space a = 1) && decide (rankField a = 0)) || (decide (space a = 2) && !isPantry cell && decide (rankField a = rankOf cell))

/-- The span of n bytes at an address, if it names the own cell store. -/
def byteSpan (cell : Nat) (write : Bool) (a : Word) (n : Nat) : List Span :=
  if ownStore cell a then [{ lo := offset a, hi := offset a + n, write := write }] else []

/-- The least offset that an element of a tensor has, and the first offset above all of them (R64). -/
def Shape.bounds (sh : Shape) : Int × Int :=
  let reach (e : Nat) (st : Word) : Int := ((e : Int) - 1) * st.toInt
  let ds := [reach sh.ext.2.1 sh.str1, reach sh.ext.2.2.1 sh.str2, reach sh.ext.2.2.2 sh.str3]
  ((offset sh.base : Int) + (ds.map (fun d => min d 0)).foldl (· + ·) 0,
   (offset sh.base : Int) + (ds.map (fun d => max d 0)).foldl (· + ·) 0 + (ceilDiv (sh.ext.1 * sh.width) 8 : Nat))

/-- Bytes of the scale words of a tensor (R64). -/
def Shape.scaleBytes (sh : Shape) : Nat := 2 * sh.blocks * sh.ext.2.1 * sh.ext.2.2.1 * sh.ext.2.2.2

/-- Whether no element and no scale word of a tensor has an address outside the own cell store's form (R49, R278). -/
def Shape.staysOwn (cell : Nat) (sh : Shape) : Bool :=
  ownStore cell sh.base && decide (0 ≤ sh.bounds.1) && decide (sh.bounds.2 ≤ 2 ^ 57) &&
  (!sh.scaled || (ownStore cell sh.scale && decide (offset sh.scale + sh.scaleBytes ≤ 2 ^ 57)))

/-- The span of a tensor limited to some extents, and of its scale words, as one span (R254). -/
def Shape.span (cell : Nat) (write : Bool) (sh : Shape) : List Span :=
  let tensor : List Span := if ownStore cell sh.base then [{ lo := sh.bounds.1, hi := sh.bounds.2, write := write }] else []
  let scales : List Span := if sh.scaled then byteSpan cell write sh.scale sh.scaleBytes else []
  match tensor, scales with
  | [a], [b] => [{ lo := min a.lo b.lo, hi := max a.hi b.hi, write := write }]
  | _, _ => tensor ++ scales

/-- A shape limited to the 32 rows that M reads or writes (R243, R248). -/
def Shape.tileRows (sh : Shape) : Shape := { sh with ext := (sh.ext.1, min sh.ext.2.1 32, 1, 1) }

/-- A shape limited to the 32 by 32 elements of the row instructions (R248). -/
def Shape.tileBox (sh : Shape) : Shape := { sh with ext := (min sh.ext.1 32, min sh.ext.2.1 32, 1, 1) }

/-- The whole cell store, for an end addressed through an index tensor (R254). -/
def Shape.wholeSpan (cell : Nat) (write : Bool) (sh : Shape) : List Span :=
  if ownStore cell sh.base then [{ lo := 0, hi := 2 ^ 20, write := write }] else []

end Sys2Proof.Machine
end

