-- ==== Sys2Proof/Machine/Footprint.lean ====
section
/-! DEFINITION. Races within a unit (12.3): the footprints in the own cell store of accesses in flight, and accesses to accumulator
tiles by V and M. -/

namespace Sys2Proof.Machine

/-- A record that a command holds, or, after a restore, would take. -/
def State.heldShape (s : State) (c : Cursor) (fresh : Bool) (addr : Word) (rec : BitVec 512) : Option Shape :=
  if fresh then
    (match s.takeShape c addr with
     | .ok (sh, _, _) => some sh
     | .error _ => none)
  else Shape.ofRecord addr rec

/-- Bytes of a tensor packed in element order (R258). -/
def Shape.packedBytes (sh : Shape) : Nat := ceilDiv (sh.count * sh.width) 8

/-- The footprint of a command (R254). -/
def State.commandSpans (s : State) (u : SlotId) (k : XCommand) : List Span :=
  if k.void then [] else
  let c : Cursor := { slot := u, stream := .x }
  let cell := u.cell
  let d := s.heldShape c k.fresh k.opD k.recD
  let a := s.heldShape c k.fresh k.opA k.recA
  let b := s.heldShape c k.fresh k.opB k.recB
  let on (o : Option Shape) (f : Shape → List Span) : List Span := match o with
    | some sh => f sh
    | none => []
  match k.instr with
  | .xmov _ _ _ => on d (Shape.span cell true) ++ on a (Shape.span cell false)
  | .xmovs _ _ _ _ => on d (Shape.span cell true) ++ on a (Shape.span cell false)
  | .xunpk _ _ _ => on d (Shape.span cell true) ++ on a (Shape.span cell false)
  | .xfill _ _ _ => on d (Shape.span cell true)
  | .xgath _ _ _ _ => on d (Shape.span cell true) ++ on a (Shape.wholeSpan cell false) ++ on b (Shape.span cell false)
  | .xscat _ _ _ _ => on d (Shape.wholeSpan cell true) ++ on a (Shape.span cell false) ++ on b (Shape.span cell false)
  | .xhash _ _ _ _ =>
    byteSpan cell true k.opD 16 ++ on a (Shape.span cell false) ++ (if k.opB = 0 then [] else byteSpan cell false k.opB 16)
  | .xapp _ _ _ => on a (fun sh => Shape.span cell false sh ++ byteSpan cell true k.opD sh.packedBytes)
  | _ => []

/-- The footprint of an M instruction, by its records (Table 12.4). -/
def matrixSpans (cell : Nat) (i : Instr) (recA recB : Option Shape) : List Span :=
  let on (o : Option Shape) (f : Shape → List Span) : List Span := match o with
    | some sh => f sh
    | none => []
  match i with
  | .mma _ _ _ _ => on recA (fun sh => sh.tileRows.span cell false) ++ on recB (fun sh => sh.tileRows.span cell false)
  | .mmas _ _ _ _ => on recA (fun sh => sh.tileRows.span cell false) ++ on recB (fun sh => sh.tileRows.span cell false)
  | .mlda _ _ _ => on recA (fun sh => sh.tileBox.span cell false)
  | .msta _ _ _ => on recA (fun sh => sh.tileBox.span cell true)
  | .mbias _ _ _ => on recA (fun sh => Shape.span cell false { sh with ext := (min sh.ext.1 32, 1, 1, 1) })
  | _ => []

/-- The shape of a record in M. -/
def shapeOf (rec : BitVec 512) : Option Shape := Shape.ofRecord 0 rec

/-- The footprint of a V access in flight. -/
def VEntry.spans (e : VEntry) : List Span :=
  let kind : Option Bool := match e.kind with
    | .store => some true
    | .load => some false
    | _ => none
  match kind with
  | some w => ((List.range (128 / e.width)).filter (fun i => e.mask.getLsbD i)).map (fun i =>
      { lo := (e.elemAddr i : Int), hi := (e.elemAddr i : Int) + e.width, write := w })
  | none => []

/-- The footprints of the S accesses in flight (Table 12.4). -/
def Slot.sSpans (l : Slot) : List Span :=
  l.sspans.flatMap (fun f => f.spans.map (fun e => { lo := e.1, hi := e.1 + e.2.1, write := e.2.2 }))

/-- The g registers that an instruction of S names (R117), and g63 where it links. -/
def namedRegs (c : DecodeCtx) (i : Instr) : List Nat :=
  match toRaw .s i with
  | none => []
  | some r =>
    match form c r with
    | none => []
    | some f => ([(f.d, r.d), (f.a, r.a), (f.b, r.b), (f.c, r.c)].filter (fun e => decide (e.1 = gR))).map (·.2) ++ (if f.link then [63] else [])

/-- Whether every load of S has retired by the time that an instruction executes: it posts (R20, R22), or it orders, ends or leaves what S
does, or it reads registers that it does not name. -/
def closesLoads (i : Instr) : Bool :=
  match i with
  | .fence _ _ _ | .halt _ | .gpos _ _ | .trap _ _ | .bkpt _ _ | .eret _ => true
  | .specb _ _ _ _ | .acmp _ _ | .spece _ | .specx _ => true
  | _ => optAny i.hdr (fun h => h.post.isSome)

/-- S is about to execute an instruction: its earlier accesses have retired, apart from loads whose registers the instruction does not name
(R181; log entry 101). -/
def State.interlocked (s : State) (i : Instr) : State :=
  if s.cur.stream ≠ .s ∨ s.here.sspans.isEmpty then s
  else
    let names := namedRegs (s.ctx s.cur) i
    s.withHere (fun l => { l with sspans := l.sspans.filter (fun f => !closesLoads i && optAny f.awaited (fun d => !names.contains d)) })

/-- The footprints in flight of the streams of a slot other than one (R295). -/
def State.inFlight (s : State) (u : SlotId) (st : Stream) : List Span :=
  let l := s.slot u
  (if st = .s then [] else l.sSpans) ++
  (if st = .v then [] else l.vflight.flatMap VEntry.spans) ++
  (if st = .m then [] else match l.mflight with
    | some m => matrixSpans u.cell m.instr (shapeOf m.recA) (shapeOf m.recB)
    | none => []) ++
  (if st = .x then [] else l.xqueue.flatMap (s.commandSpans u))

/-- The lowest byte at which an issuing footprint meets one in flight (R295). -/
def lowestMeeting (mine held : List Span) : Option Int :=
  (mine.flatMap (fun a => (held.filter (Span.meets a)).map (fun b => max a.lo b.lo))).foldl
    (fun best x => match best with
      | none => some x
      | some y => some (min x y)) none

/-- MME CELL for a footprint of a stream that issues (R295). -/
def State.cellRace (s : State) (c : Cursor) (mine : List Span) : Option TrapInfo :=
  (lowestMeeting mine (s.inFlight c.slot c.stream)).map (fun x =>
    { cause := causeMme, sub := 0, tval := BitVec.ofNat 64 (2 ^ 61) + BitVec.ofInt 64 x })

/-! ### Tiles -/

/-- The tiles that an M instruction writes and reads (R296). -/
def tilesOf : Instr → List Nat × List Nat
  | .mma _ d _ _ => ([d], [])
  | .mmas _ d _ _ => ([d], [])
  | .mzero _ d => ([d], [])
  | .mlda _ d _ => ([d], [])
  | .mbias _ d _ => ([d], [])
  | .mcvt _ d a _ _ _ => ([d], [a])
  | .msta _ _ a => ([], [a])
  | _ => ([], [])

/-- v registers as a bit set. -/
def rowSet (rs : List Nat) : BitVec 64 := rs.foldl (fun m r => m ||| (1 <<< r : BitVec 64)) 0

/-- The v registers that a V result writes when it lands. -/
def VEntry.writes (e : VEntry) : BitVec 64 := rowSet e.dests

/-- The rows of a tile among v registers. -/
def rowsIn (t : Nat) (r : BitVec 64) : Nat := bitsOf r.toNat (32 * t) 32

/-- MME ACC of a tile and rows (R296). -/
def accTrap (t rows : Nat) : TrapInfo := trapAt causeMme 1 (t * 2 ^ 32 + rows)

/-- MME ACC for a V instruction that reads and writes v registers, against the M instruction in flight. -/
def State.accRaceV (s : State) (u : SlotId) (reads writes : BitVec 64) : Option TrapInfo :=
  match (s.slot u).mflight with
  | none => none
  | some m =>
    let (w, r) := tilesOf m.instr
    [0, 1].findSome? (fun t =>
      let all := rowsIn t (reads ||| writes)
      if (w.contains t && decide (all ≠ 0)) || (r.contains t && decide (rowsIn t writes ≠ 0)) then some (accTrap t all) else none)

/-- MME ACC for an M instruction against the V accesses in flight. -/
def State.accRaceM (s : State) (u : SlotId) (i : Instr) : Option TrapInfo :=
  let vs := (s.slot u).vflight
  let (w, r) := tilesOf i
  let all := vs.foldl (fun m e => m ||| e.reads ||| e.writes) (0 : BitVec 64)
  let writes := vs.foldl (fun m e => m ||| e.writes) (0 : BitVec 64)
  [0, 1].findSome? (fun t =>
    if w.contains t && decide (rowsIn t all ≠ 0) then some (accTrap t (rowsIn t all))
    else if r.contains t && decide (rowsIn t writes ≠ 0) then some (accTrap t (rowsIn t writes))
    else none)

/-- POISON of a tile: the rows whose poison bit is set in [31:0] and the tile in bit 32 (R239). -/
def poisonTrap (t : Nat) (rows : BitVec 32) : TrapInfo := trapAt causePoison 0 (t * 2 ^ 32 + rows.toNat)

/-! ### Accesses of S -/

/-- What an access of S finds out: the number of its first byte, and the state with its line claims. -/
abbrev Reached := Nat × State

/-- The checks of an access of S to n bytes aligned to m (R179), the races of its footprint (R295), and, for a plain access, the lines of
R299. A read of a byte that carries an uncorrectable error raises POISON (R279 lists the cause among the faults of S). -/
def State.sAccessOf (s : State) (kind : Access) (plain : Bool) (a : Word) (n m : Nat) (spans : List Span) : Except Stop Reached :=
  let c := s.cur
  match s.access c kind a n m with
  | .error e => .error e
  | .ok k =>
    let w := decide (kind ≠ .load)
    match s.cellRace c spans with
    | some t => .error (.trap t)
    | none =>
      let lines : Except Stop State := if plain then s.lineCheck c w a k n else .ok s
      match lines with
      | .error e => .error e
      | .ok s1 =>
        if kind ≠ .store ∧ s1.upsetIn k n then .error (.trap { cause := causePoison, sub := 0, tval := a }) else .ok (k, s1)

/-- An access of S whose footprint is the bytes accessed. -/
def State.sAccess (s : State) (kind : Access) (plain : Bool) (a : Word) (n m : Nat) : Except Stop Reached :=
  s.sAccessOf kind plain a n m (byteSpan s.cur.slot.cell (decide (kind ≠ .load)) a n)

/-- Read n bytes as S does, without alignment beyond m. -/
def State.sRead (s : State) (a : Word) (n m : Nat) : Except Stop (List Byte × State) :=
  match s.sAccess .load true a n m with
  | .error e => .error e
  | .ok (k, s1) => .ok (s1.load k n, (s1.countLoad k))

/-- Write bytes as S does. -/
def State.sWrite (s : State) (a : Word) (bs : List Byte) (m : Nat) : Except Stop State :=
  match s.sAccess .store true a bs.length m with
  | .error e => .error e
  | .ok (k, s1) => .ok (s1.store k bs)

end Sys2Proof.Machine
end

