-- ==== Sys2Proof/Machine/Streams.lean ====
section
/-! DEFINITION. Stream records (11.2 to 11.4): the events that a stream block applies to a record one at a time (R266), delivery
entries (R269), truncation (R267) and checkpoints (R271). A record is named by 1024 × die + index. -/

namespace Sys2Proof.Machine

/-- Bytes that a die's mechanisms read for a micro-context; none where a byte cannot be reached. -/
def State.mcLoad (s : State) (h : Nat) (a : Word) (n : Nat) : Option (List Byte) :=
  match s.mcPlaces h .load a n with
  | .ok ks => some ((if s.posted.isEmpty then s else s.drained ((s.mc h).part + 1)).loadEach ks)
  | .error _ => none

/-- Bytes that a die's mechanisms write for a micro-context; nothing where a byte cannot be reached. -/
def State.mcStore (s : State) (h : Nat) (a : Word) (bs : List Byte) : State :=
  match s.mcPlaces h .store a bs.length with
  | .ok ks => s.postEach (s.mc h).part (ks.zip bs)
  | .error _ => s.mcCount h .store a bs.length

/-- Base, entry size and capacity of a region (Table 11.3). -/
def StreamRec.region (r : StreamRec) (i : Nat) : Word × Nat × Nat := r.regions.getD i (0, 0, 0)

/-- Bytes of an entry of a region. -/
def StreamRec.esize (r : StreamRec) (i : Nat) : Nat := (r.region i).2.1

/-- Entries that a region can hold; 0 where it is not registered. -/
def StreamRec.cap (r : StreamRec) (i : Nat) : Nat := (r.region i).2.2

/-- Address of entry i of region 0 or 1. -/
def StreamRec.entryAt (r : StreamRec) (region i : Nat) : Word := (r.region region).1 + BitVec.ofNat 64 (i * r.esize region)

/-- Address of entry i of region 2 or 3, which wrap. -/
def StreamRec.ringAt (r : StreamRec) (region i : Nat) : Word :=
  (r.region region).1 + BitVec.ofNat 64 (i % max 1 (r.cap region) * r.esize region)

/-- Entries held in region 0 or 1. -/
def StreamRec.len (r : StreamRec) (region : Nat) : Nat := if region = 0 then r.len0 else r.len1

/-- The generation cursor (Table 11.4). -/
def StreamRec.g (r : StreamRec) : Nat := r.len0

/-- The truncation floor: the oldest checkpoint held, or 0 (Table 11.4). -/
def StreamRec.floor (r : StreamRec) : Nat := r.ckpts.headD 0

/-- Position of the newest checkpoint held, or 0xFFFF_FFFF. -/
def StreamRec.kpos (r : StreamRec) : Nat := r.ckpts.getLastD 0xFFFFFFFF

/-- Delivery entries that are handed, sent, and below P are released (R269). -/
def StreamRec.release (r : StreamRec) : StreamRec := { r with delivery := r.delivery.filter (fun e => !(!e.prov && e.sent && decide (e.pos < r.p))) }

/-- Withdraw the delivery entries that meet a test (R267): C falls back to the least withdrawn position, and one notice for T is due
if an entry among them had been handed to the egress engine. -/
def StreamRec.withdraw (r : StreamRec) (t : Nat) (p : Delivery → Bool) : StreamRec :=
  let gone := r.delivery.filter p
  let least := (gone.map (·.pos)).foldl min 0xFFFFFFFF
  { r with
    delivery := r.delivery.filter (fun e => !p e)
    c := if !gone.isEmpty && decide (least < r.c) then least else r.c
    notices := if gone.any (fun e => !e.prov) then r.notices ++ [t] else r.notices }

/-- Confirm delivery entries that meet a test: they are handed to the egress engine (R269). -/
def StreamRec.confirm (r : StreamRec) (p : Delivery → Bool) : StreamRec :=
  { r with delivery := r.delivery.map (fun e => if e.prov && p e then { e with prov := false, tag := none } else e) }

/-- The part of a truncation to T that concerns the record itself (R267). -/
def StreamRec.cutTo (r : StreamRec) (t : Nat) : StreamRec :=
  let r1 := ({ r with len0 := min r.len0 t, len1 := min r.len1 t }).withdraw t (fun e => decide (t ≤ e.pos))
  let gone := (r.ckpts.filter (fun p => decide (t < p))).length
  let r2 := if r.cap 2 = 8 then { r1 with ckpts := r.ckpts.filter (fun p => decide (p ≤ t)), knext := (r.knext + 2 ^ 32 - gone) % 2 ^ 32 } else r1
  ({ r2 with p := min r.p t }).release

/-- Whether a read that a die's mechanisms make for a micro-context waits for the host link (R410). -/
def State.readHeld (s : State) (h : Nat) (a : Word) : Bool :=
  s.linkHeld (s.mc h).part .load && (match s.mcPlace h .load a with
    | .ok k => decide (hostAt 0 ≤ k)
    | .error _ => false)

/-- Whether the reads of STATE and its checkpoints wait for the host link (R410). -/
def State.recordHeld (s : State) (n : Nat) : Bool :=
  let r := s.srec n
  decide (r.cap 2 = 8) && (r.live :: (List.range 8).map (r.ringAt 2)).any (s.readHeld r.owner)

/-- The shared truncation of a record to position T (R267): where checkpoints are kept, STATE becomes the newest left, or zeros. -/
def State.truncate (s : State) (n t : Nat) : State :=
  let s1 := s.withSrec n (fun r => r.cutTo t)
  let r := s1.srec n
  if r.cap 2 ≠ 8 then s1
  else if r.ckpts.isEmpty then s1.mcStore r.owner r.live (zeros (r.esize 2))
  else
    let from_ := r.ringAt 2 (r.knext + 2 ^ 32 - 1)
    let s2 := s1.mcCount r.owner .load from_ (r.esize 2)
    match s1.mcLoad r.owner from_ (r.esize 2) with
    | some bs => s2.mcStore r.owner r.live bs
    | none => s2

/-- Make a checkpoint of position p (R271): the ninth drops the oldest. -/
def State.checkpoint (s : State) (n p : Nat) : State :=
  let r := s.srec n
  let s0 := s.mcCount r.owner .load r.live (r.esize 2)
  let s1 := match s.mcLoad r.owner r.live (r.esize 2) with
    | some bs => s0.mcStore r.owner (r.ringAt 2 r.knext) bs
    | none => s0
  s1.withSrec n (fun r =>
    let held := if 8 ≤ r.ckpts.length then r.ckpts.drop 1 else r.ckpts
    { r with ckpts := held ++ [p], knext := (r.knext + 1) % 2 ^ 32 })

/-- The descriptor of a popped frame (Table 11.5). -/
def StreamFrame.descriptor (f : StreamFrame) (late : Bool) : Word :=
  BitVec.ofNat 64 (f.play * 2 ^ 32 + bit01 late * 2 ^ 28 + f.kind * 2 ^ 24 + f.len * 2 ^ 12 + f.buf)

/-- Pop the oldest frame of a record (R268): the state after it, the frame, and whether it is LATE. -/
def State.popFrame (s : State) (n : Nat) (windowOpen : Bool) : Option (State × StreamFrame × Bool) :=
  let r := s.srec n
  match r.queue with
  | [] => none
  | f :: rest =>
    let t := min f.play r.g
    let barge := decide (f.kind = 1)
    let late := barge && decide (0 < t) && decide (t < r.floor)
    let s1 := s.withSrec n (fun r => { r with queue := rest, held := some f.buf })
    let s2 := if barge && !late then s1.truncate n t else s1
    let s3 := s2.withSrec n (fun r => ({ r with p := min f.play r.g }).release)
    let s4 := if rest.isEmpty && !windowOpen then s3.withSrec n (fun r => (r.confirm (fun _ => true)).release) else s3
    some (s4, f, late)

/-- The status and the record after a commit of a token at a position (R269); `tag` is the window that is open, with its iteration. -/
def StreamRec.commit (r : StreamRec) (token pos : Nat) (tag : Option (Nat × Nat)) : Nat × StreamRec :=
  if pos < r.c ∨ r.g ≤ pos then (3, r)
  else if r.cap 3 ≤ r.delivery.length then (2, r)
  else
    let prov := tag.isSome || !r.queue.isEmpty
    (bit01 prov, { r with delivery := r.delivery ++ [{ token := token, pos := pos, tag := tag, prov := prov, sent := false }], c := pos + 1 })

/-- The bytes of a delivery entry in region 3: the token and its position. -/
def deliveryBytes (token pos : Nat) : List Byte := bytesOf 4 token ++ bytesOf 4 pos

/-- Whether a delivery entry is tagged in a window. -/
def Delivery.inWindow (e : Delivery) (id : Nat) : Bool := optAny e.tag (fun t => decide (t.1 = id))

/-- The end of window `id` that accepts its first `a` iterations, at a record whose regions then hold len0 and len1 entries (R276). -/
def StreamRec.accept (r : StreamRec) (id a len0 len1 : Nat) : StreamRec :=
  let r1 := ({ r with len0 := len0, len1 := len1 }).withdraw len0 (fun e => optAny e.tag (fun t => decide (t.1 = id ∧ a ≤ t.2)))
  if r1.queue.isEmpty then r1.confirm (fun e => e.inWindow id)
  else { r1 with delivery := r1.delivery.map (fun e => if e.inWindow id then { e with tag := none } else e) }

/-- The end of window `id` that accepts nothing (R276). -/
def StreamRec.abort (r : StreamRec) (id len0 len1 : Nat) : StreamRec :=
  ({ r with len0 := len0, len1 := len1 }).withdraw len0 (fun e => e.inWindow id)

/-! ### The records of a window -/

/-- The length of a region of record n at SPECB: for a record that was not attached then, the index of the first entry that the window
has appended there, or the length it has. -/
def Window.lenAt (w : Window) (n : Nat) (r : StreamRec) (region : Nat) : Nat :=
  if w.handle = some n then (if region = 0 then w.len0 else w.len1)
  else match w.appends.find? (fun e => decide (e.record = n ∧ e.region = region)) with
    | some e => e.index
    | none => r.len region

/-- The length of a region of record n once the window keeps the entries that iterations below `a` have appended (R276). -/
def Window.keptLen (w : Window) (n : Nat) (r : StreamRec) (a region : Nat) : Nat :=
  w.lenAt n r region +
  (w.appends.filter (fun e => decide (e.record = n ∧ e.region = region ∧ e.iteration < a ∧ e.index < r.len region))).length

/-- The records that a window concerns: the one attached at SPECB, those it has appended to, and those that hold entries tagged in it. -/
def State.windowRecords (s : State) (w : Window) : List Nat :=
  (w.handle.toList ++ w.appends.map (·.record) ++ (s.streams.filter (fun e => e.2.delivery.any (fun d => d.inWindow w.id))).map (·.1)).eraseDups

/-- The window event of SPECE at every record that the window concerns (R276). -/
def State.acceptWindow (s : State) (w : Window) : State :=
  (s.windowRecords w).foldl (fun s n => s.withSrec n (fun r =>
    r.accept w.id w.accepted (w.keptLen n r w.accepted 0) (w.keptLen n r w.accepted 1))) s

/-- The window event of SPECX, and of every abort, at every record that the window concerns (R276). -/
def State.abandonWindow (s : State) (w : Window) : State :=
  (s.windowRecords w).foldl (fun s n => s.withSrec n (fun r => r.abort w.id (w.lenAt n r 0) (w.lenAt n r 1))) s

end Sys2Proof.Machine
end

