-- ==== Sys2Proof/Machine/Preempt.lean ====
section
/-! DEFINITION. Pre-emption (13.5), the switch between the slots of a cell (R328), and the abort of a speculative window (R276, R280). -/

namespace Sys2Proof.Machine

/-! ### The carry of a window (R273) -/

/-- n bytes of the own cell store. -/
def State.cellBytes (s : State) (cell off n : Nat) : List Byte := s.load (cellStoreAt cell + off) n

/-- Carry size and REGBASE of a window's block (Table 11.6). -/
def State.carryShape (s : State) (u : SlotId) (block : Word) : Nat × Nat :=
  let h := s.cellBytes u.cell (offset block) 3
  (natAt h 0 2, byteAt h 2)

/-- The carry: in CARRY, or in registers from g[REGBASE] on. -/
def State.carry (s : State) (u : SlotId) (block : Word) : List Byte :=
  let (n, r) := s.carryShape u block
  if r = 0 then s.cellBytes u.cell (offset block + 64) n
  else (List.range (n / 8)).flatMap (fun i => bytesOf 8 ((s.slot u).s.gReg (r + i)).toNat)

/-- Set the carry. -/
def State.setCarry (s : State) (u : SlotId) (block : Word) (bs : List Byte) : State :=
  let (n, r) := s.carryShape u block
  if r = 0 then s.store (cellStoreAt u.cell + offset block + 64) (bs.take n)
  else
    (List.range (n / 8)).foldl (fun s i =>
      s.withSlot u (fun l => { l with s := l.s.setG (r + i) (BitVec.ofNat 64 (natAt bs (8 * i) 8)) })) s

/-- Offset of GUESS[i] and PROD[i] in a block (Table 11.6). -/
def guessAt (i : Nat) : Nat := 320 + 256 * i
def prodAt (i : Nat) : Nat := 2368 + 256 * i

/-- The bytes of GUESS[i]. -/
def State.guess (s : State) (u : SlotId) (block : Word) (i : Nat) : List Byte :=
  s.cellBytes u.cell (offset block + guessAt i) (s.carryShape u block).1

/-- The bytes of PROD[i]. -/
def State.prod (s : State) (u : SlotId) (block : Word) (i : Nat) : List Byte :=
  s.cellBytes u.cell (offset block + prodAt i) (s.carryShape u block).1

/-- The part of SPECX that every abort makes (R276): the record's tagged entries are withdrawn and its lengths restored, the carry
becomes GUESS[0], and the window closes. -/
def State.closeAborted (s : State) (u : SlotId) : State :=
  match (s.slot u).window with
  | none => s
  | some w =>
    let s1 := s.abandonWindow w
    (s1.setCarry u w.block (s1.guess u w.block 0)).withSlot u (fun l => { l with window := none })

/-- A stream that a window's abort restarts: at its PC at SPECB, or halted if it had halted then. -/
def StreamSt.restart (t : StreamSt) (pc : Nat) : StreamSt :=
  if pc = 0 then { t with halted := true, ahead := [], waiting := none }
  else { t with pc := pc, entry := .fresh, halted := false, ahead := [], waiting := none }

/-- The abort of an open window by a pre-emption (R280): S restarts at SPECB and the others at the PCs it recorded. -/
def State.abortWindow (s : State) (u : SlotId) : State :=
  match (s.slot u).window with
  | none => s
  | some w =>
    (s.closeAborted u).withSlot u (fun l =>
      { l with
        s := l.s.restart w.at_, v := l.v.restart w.pcV, m := l.m.restart w.pcM, x := l.x.restart w.pcX
        fifo := [], vflight := [], mflight := none, xqueue := [], mpoison := 0, sr := { l.sr with mprog := 0 } })

/-! ### Leaving a cell -/

/-- A stream that will resume reads its line afresh (R110), at a word that must lie below the line's COUNT (Table 4.8). -/
def StreamSt.reread (t : StreamSt) : StreamSt :=
  { t with ahead := [], waiting := none, entry := .fresh }

/-- Stop a slot for a pre-emption (R316): its window is aborted and its streams stop at the cut. -/
def State.stopSlot (s : State) (u : SlotId) : State :=
  (s.abortWindow u).withSlot u (fun l =>
    let l1 := l.cut
    { l1 with s := l1.s.reread, v := l1.v.reread, m := l1.m.reread, x := l1.x.reread })

/-- The firmware's handler runs on a slot (R312). -/
def Slot.firmwareRuns (l : Slot) : Bool := optAny l.handler (fun h => h.firmware)

/-- Whether the trap whose handler runs was raised in this very cycle: no cycle has passed, and the handler has retired nothing. -/
def Slot.justTrapped (l : Slot) (cyc : Nat) : Bool := optAny l.handler (fun h => decide (h.since = cyc ∧ h.retired = l.s.retired))

/-- Whether a forced pre-emption waits for the return of the firmware's handler (R327); a trap of the same cycle does not hold it. -/
def Slot.holdsForce (l : Slot) (cyc : Nat) : Bool := l.firmwareRuns && !l.justTrapped cyc

/-- A unit that R344 has asked to leave frees the active slot of its cell: the other slot rests until the freed group's bind (R381). -/
def State.noteFreed (s : State) (u : SlotId) : State :=
  match (s.slot u).bound with
  | none => s
  | some b =>
    if (s.cell u.cell).active = u.h1 ∧ optAny (Map.find s.launches b.unit.launch) (fun l => l.request.isSome) then
      s.withCell u.cell (fun c => { c with freed := some b.unit.launch })
    else s

/-- Note in a unit that it has left its cell, with what its slot retained for it; the modes are those at the cut, before a handler (R313). -/
def State.noteLeft (s : State) (u : SlotId) (kind : Nat) : State :=
  let l := s.slot u
  match l.bound with
  | none => s
  | some b =>
    s.withUnit b.unit (fun x =>
      { x with status := .saved kind, cancel := l.cancel, deadline := l.deadline
               modes := [(l.handler.map (·.sMode)).getD l.s.sup, l.v.sup, l.m.sup, l.x.sup], hpopped := if kind = 1 then l.hpopped else 0
               submitted := if kind = 1 then l.submitted else none, left := some u.cell
               mpoison := if kind = 1 then l.mpoison else 0, tookCancel := l.tookCancel, cancelOrder := l.cancelOrder })

/-- The units of a launch's gang have all left their cells: its micro-context is ready again, with READYAT unchanged (R344). -/
def State.settleLeft (s : State) (r : UnitRef) : State :=
  match Map.find s.launches r.launch with
  | none => s
  | some l =>
    (s.withLaunch r.launch Launch.settleGroup).settleMc l.mc true

/-- Write the record of a forced pre-emption (R326, R327). A handler that runs is abandoned: the record that holds the original cut is
kept, with PEND set, and with KIND 1 where the trap and the stop came in the same cycle; where that cut has an open window, the window is
aborted from it. -/
def State.writeForced (s : State) (u : SlotId) : State :=
  let l := s.slot u
  let tsave := l.sr.tsave.toNat
  match l.handler with
  | none =>
    let s1 := s.stopSlot u
    let l1 := s1.slot u
    s1.writeRecord u { tcause := l1.sr.tcause, tval := l1.sr.tval, kind := 1, pend := false, cyc := s.cyc, succ := 0, gpos := 0,
                       shalt := false }
  | some h =>
    let kind (k : Nat) : Nat := if l.justTrapped s.cyc then 1 else k
    match s.savedBytes u tsave (recordSize u.cell) with
    | none => s
    | some bs =>
      let s := s.countSaved u tsave (recordSize u.cell)
      let kept := overlay (bs.take 64) 16 (bytesOf 1 (kind (byteAt bs 16)) ++ [1])
      match RecordHeader.ofBytes bs, slotFrom (isPantry u.cell) bs l with
      | some hd, some l1 =>
        if l1.window.isNone then s.saveBytes u tsave kept
        else
          let s1 := (s.withSlot u (fun _ => { l1 with s := { l1.s with sup := h.sMode }, handler := none })).stopSlot u
          s1.writeRecord u { hd with kind := kind hd.kind, pend := true }
      | _, _ => s.saveBytes u tsave kept

/-- Write the cell-store pages that the store holds for a slot to its image; pages outside the window lose their images (R326). -/
def State.savePages_ (s : State) (u : SlotId) : State :=
  let pages := (s.slot u).pages
  let s1 := pages.foldl (fun s p => if s.holdsPage u p then s.savePage u p else s) s
  (List.range 256).foldl (fun s p => if !pages.contains p && s.pageValid u p then s.markPage u p false else s) s1

/-- A forced pre-emption of a unit out of its cell (R326). -/
def State.leaveForced (s : State) (u : SlotId) : State :=
  match (s.slot u).bound with
  | none => s
  | some b =>
    let s1 := s.writeForced u
    let s2 := (s1.savePages_ u).spillOwned u
    (((s2.noteLeft u 1).noteFreed u).vacate u).settleLeft b.unit

/-- Whether the save of a unit that leaves a fenced cluster meets uncorrectable data (R441). -/
def State.saveFaults (s : State) (u : SlotId) : Bool :=
  !isPantry u.cell && bitOf (s.die (dieOf u.cell)).fencedClusters (clusterOf u.cell) &&
  ((s.slot u).pages.any (fun p => s.holdsPage u p && s.upsetIn (pageAt u.cell p) 4096) ||
   [0, 1].any (fun t => let x := (s.cell u.cell).tile t; x.held && decide (x.own = u.h1) && decide (x.poison ≠ 0)))

/-- A unit leaves its cell by force, or fails where its save meets uncorrectable data. -/
def State.pushOut (s : State) (u : SlotId) : State := if s.saveFaults u then s.failUnit u .s causePoison else s.leaveForced u

/-- The unit of a slot is to leave its cell by force: at once, or, while the firmware's handler runs there, at its return (R327); it stays
while its save area cannot be read (R410). -/
def State.forceSlot (s : State) (u : SlotId) : State :=
  if (s.slot u).holdsForce s.cyc then s.withSlot u (fun l => { l with forced := true }) else if s.areaHeld u then s else s.pushOut u

/-- Return from a handler, and then the forced pre-emption that has waited for it (R327). -/
def State.returnOut (s : State) (u : SlotId) : State :=
  let s1 := s.returnFrom u
  if (s1.slot u).forced && (s1.slot u).bound.isSome then s1.forceSlot u else s1

/-- A boundary pre-emption at GPOS (R204, R325): the header, the graph position and S's g1 to g16 are saved and nothing else; every
image is marked as not valid. -/
def State.leaveBoundary (s : State) (u : SlotId) (gpos : Nat) : State :=
  match (s.slot u).bound with
  | none => s
  | some b =>
    let l := s.slot u
    let tsave := l.sr.tsave.toNat
    let h : RecordHeader := { tcause := l.sr.tcause, tval := l.sr.tval, kind := 2, pend := false, cyc := s.cyc, succ := 0, gpos := gpos,
                              shalt := false }
    let s1 := s.saveBytes u tsave h.bytes
    let s2 := s1.saveBytes u (tsave + 0x408) (regBytes 16 8 (fun i => (l.s.gReg (i + 1)).toNat))
    let s3 := (s2.setDesc u 0 [0]).setDesc u 16 (zeros 32)
    (((s3.noteLeft u 2).noteFreed u).vacate u).settleLeft b.unit

/-- Whether a unit may take a boundary at the GPOS that S issues (R204). -/
def Slot.quietForGpos (l : Slot) : Bool :=
  let rests (t : StreamSt) : Bool := t.halted || optAny t.waiting (fun w => decide (w.on = .token .s))
  l.xqueue.isEmpty && l.vflight.isEmpty && l.mflight.isNone && l.fifo.isEmpty && rests l.v && rests l.m && rests l.x && l.window.isNone &&
  l.handler.isNone

/-- A slot that has stopped for a switch keeps the marks of what its streams and X commands waited for, unless its window was aborted:
R345 asks whether the other slot waits in the same way. -/
def Slot.keepMarks (l old : Slot) : Slot :=
  if old.window.isSome then l
  else
    { l with
      s := { l.s with waiting := old.s.waiting }, v := { l.v with waiting := old.v.waiting }
      m := { l.m with waiting := old.m.waiting }, x := { l.x with waiting := old.x.waiting }
      xqueue := List.zipWith (fun k o => { k with parked := o.parked }) l.xqueue old.xqueue }

/-- A switch of a cell to its resting slot (R328). A slot with a trap handler in progress is not switched, and none is while a save area of
the cell cannot be read (R410). -/
def State.switchSlots (s : State) (cell : Nat) : State :=
  let c := s.cell cell
  let out : SlotId := { cell := cell, h1 := c.active }
  if (s.slot out).handler.isSome ∨ (s.slot (otherSlot out)).bound.isNone ∨ s.cellHeld cell then s
  else ((s.stopSlot out).activate (otherSlot out)).withSlot out (fun l => { (l.keepMarks (s.slot out)) with activated := true })

end Sys2Proof.Machine
end

