-- ==== Sys2Proof/Machine/MemSys.lean ====
section
/-! DEFINITION. Opcodes 0x40 to 0x5D: loads, stores and atomics (8.2, 8.3), fences (8.4), tokens (8.5), barriers (8.6), launches and
counters (8.7), die-engine FIFOs (8.8), boundaries (8.9), traps and return (8.10). The machine performs the accesses of all agents one at
a time, in one order. -/

namespace Sys2Proof.Machine

/-- A trap for which no rule names TVAL. -/
def State.unstatedTrap (s : State) (cause sub : Nat) : TrapInfo :=
  { cause := cause, sub := sub, tval := Config.unstatedTval cause s.me.pc }

/-- Whether CANCEL or DEADLINE is pending on a slot and nothing keeps it from being taken at the next instruction boundaries (R311). -/
def State.asyncDue (s : State) (u : SlotId) : Bool :=
  let l := s.slot u
  l.bound.isSome && l.activated && ((s.cell u.cell).active == u.h1) && l.handler.isNone &&
  ((l.cancel && !s.trapHeld u .s causeCancel) || (!l.cancel && l.deadline && !s.trapHeld u .s causeDeadline))

/-- Take a pending asynchronous cause (R311): CANCEL before DEADLINE; a CANCEL ends an open window as SPECX does (R280). -/
def State.takeAsync (s : State) (u : SlotId) : State :=
  let l := s.slot u
  let trap (s : State) (cause : Nat) : State :=
    s.takeTrap u .s { cause := cause, sub := 0, tval := Config.unstatedTval cause l.s.pc } { report := false, async := true, succ := 0, shalt := false }
  if !s.asyncDue u then s
  else if l.cancel then
    trap ((s.closeAborted u).withSlot u (fun l => { l with cancel := false, tookCancel := true, cancelOrder := s.fresh })) causeCancel
  else trap (s.withSlot u (fun l => { l with deadline := false })) causeDeadline

/-- SPECSIDE (R278). -/
def State.specSide (s : State) : TrapInfo := s.unstatedTrap causeSpecside 0

/-- An instruction that an open window forbids (R278). -/
def outsideWindow (body : State → Eff) (s : State) : Eff := if s.here.window.isSome then .trap s.specSide else body s

/-- Bytes of a load, and whether it extends the sign (R129). -/
def LoadSize.bytes : LoadSize → Nat
  | .b | .bs => 1
  | .h | .hs => 2
  | .w | .ws => 4
  | .d => 8

def LoadSize.signed : LoadSize → Bool
  | .bs | .hs | .ws => true
  | _ => false

/-- Bytes of a store. -/
def StoreSize.bytes : StoreSize → Nat
  | .b => 1
  | .h => 2
  | .w => 4
  | .d => 8

/-- Bytes of an atomic. -/
def AtomicSize.bytes : AtomicSize → Nat
  | .w => 4
  | .d => 8

/-- Bytes of AMIN and AMAX, and whether they compare as signed numbers. -/
def MinMaxSize.bytes : MinMaxSize → Nat
  | .u32 | .s32 => 4
  | .u64 | .s64 => 8

def MinMaxSize.signed : MinMaxSize → Bool
  | .s32 | .s64 => true
  | _ => false

/-- A load of n bytes into g[d] (R182). -/
def loadEffect (plain : Bool) (d : Nat) (a : Word) (n : Nat) (sgn : Bool) (s : State) : Eff :=
  match s.sAccess .load plain a n n with
  | .error e => e.eff
  | .ok (k, s1) => writeG d (extend (8 * n) sgn (natOf (s1.load k n))) (s1.countLoad k)

/-- The window rule of S stores and atomics (R278): after the checks of space and alignment, before any translation. -/
def State.sideCheck (s : State) (a : Word) (n : Nat) : Option TrapInfo :=
  let c := s.cur
  if s.here.window.isSome ∧ s.spaceOk c (s.binding c.slot) a n ∧ offset a % n = 0 ∧ !ownStore c.slot.cell a then some s.specSide else none

/-- A store of n bytes (R182). -/
def storeEffect (plain : Bool) (a : Word) (n : Nat) (v : Word) (s : State) : Eff :=
  match s.sideCheck a n with
  | some t => .trap t
  | none =>
    match s.sAccess .store plain a n n with
    | .error e => e.eff
    | .ok (k, s1) => .done (s1.store k (bytesOf n v.toNat))

/-- LD and ST, LDA and STR (R182, R183): synchronising accesses are not line-checked (R297). -/
def execLd (h : Hdr) (d a b : Nat) (sz : LoadSize) (disp : Int) (s : State) :=
  runTo h (.g d) (fun s => loadEffect true d (s.memAddr a b disp) (LoadSize.bytes sz) (LoadSize.signed sz) s) s
def execSt (h : Hdr) (d a b : Nat) (sz : StoreSize) (disp : Int) (s : State) :=
  run h (fun s => storeEffect true (s.memAddr a b disp) (StoreSize.bytes sz) (s.rg d) s) s
def execLda (h : Hdr) (d a b : Nat) (sz : LoadSize) (disp : Int) (_ord : MemOrder) (_scope : Scope) (s : State) :=
  runTo h (.g d) (fun s => loadEffect false d (s.memAddr a b disp) (LoadSize.bytes sz) (LoadSize.signed sz) s) s
def execStr (h : Hdr) (d a b : Nat) (sz : StoreSize) (disp : Int) (_ord : MemOrder) (_scope : Scope) (s : State) :=
  run h (fun s => storeEffect false (s.memAddr a b disp) (StoreSize.bytes sz) (s.rg d) s) s

/-- Whether an atomic on n bytes writes: an ACAS whose comparison fails is a load and no write (R186). -/
def State.atomicWrites (s : State) (addr : Word) (n : Nat) (op : Nat) (f : Nat → Nat → Option Nat) : Bool :=
  match s.access s.cur .atomic addr n n with
  | .ok k => (f (natOf (s.load k n)) op).isSome
  | .error _ => false

/-- An atomic (R185): `f` gives the new value of the n-byte location from the old one and the operand, or none for no write. -/
def atomicEffect (d a b n : Nat) (sgn : Bool) (f : Nat → Nat → Option Nat) (s : State) : Eff :=
  let addr := s.rg a
  match s.sideCheck addr n with
  | some t => .trap t
  | none =>
    let op := (s.rg b).field 0 (8 * n)
    match s.sAccessOf .atomic false addr n n (byteSpan s.cur.slot.cell (s.atomicWrites addr n op f) addr n) with
    | .error e => e.eff
    | .ok (k, s1) =>
      let old := natOf (s1.load k n)
      let s2 := match f old op with
        | some v => s1.store k (bytesOf n v)
        | none => s1.countLoad k
      writeG d (extend (8 * n) sgn old) s2

def runAtomic (h : Hdr) (d a b n : Nat) (sgn : Bool) (f : Nat → Nat → Option Nat) (s : State) :=
  runTo h (.g d) (atomicEffect d a b n sgn f) s

/-- Comparison of n-byte values as AMIN and AMAX make it (Table 8.3). -/
def lessBytes (n : Nat) (sgn : Bool) (x y : Nat) : Bool :=
  if sgn then decide (signed (8 * n) x < signed (8 * n) y) else decide (x < y)

def execAadd (h : Hdr) (d a b : Nat) (sz : AtomicSize) (_ord : MemOrder) (_scope : Scope) (s : State) :=
  runAtomic h d a b (AtomicSize.bytes sz) false (fun x y => some ((x + y) % 2 ^ (8 * AtomicSize.bytes sz))) s
def execAmin (h : Hdr) (d a b : Nat) (sz : MinMaxSize) (_ord : MemOrder) (_scope : Scope) (s : State) :=
  runAtomic h d a b (MinMaxSize.bytes sz) (MinMaxSize.signed sz)
    (fun x y => some (if lessBytes (MinMaxSize.bytes sz) (MinMaxSize.signed sz) y x then y else x)) s
def execAmax (h : Hdr) (d a b : Nat) (sz : MinMaxSize) (_ord : MemOrder) (_scope : Scope) (s : State) :=
  runAtomic h d a b (MinMaxSize.bytes sz) (MinMaxSize.signed sz)
    (fun x y => some (if lessBytes (MinMaxSize.bytes sz) (MinMaxSize.signed sz) x y then y else x)) s
def execAand (h : Hdr) (d a b : Nat) (sz : AtomicSize) (_ord : MemOrder) (_scope : Scope) (s : State) :=
  runAtomic h d a b (AtomicSize.bytes sz) false (fun x y => some (Nat.land x y)) s
def execAor (h : Hdr) (d a b : Nat) (sz : AtomicSize) (_ord : MemOrder) (_scope : Scope) (s : State) :=
  runAtomic h d a b (AtomicSize.bytes sz) false (fun x y => some (Nat.lor x y)) s
def execAxor (h : Hdr) (d a b : Nat) (sz : AtomicSize) (_ord : MemOrder) (_scope : Scope) (s : State) :=
  runAtomic h d a b (AtomicSize.bytes sz) false (fun x y => some (Nat.xor x y)) s
def execAxchg (h : Hdr) (d a b : Nat) (sz : AtomicSize) (_ord : MemOrder) (_scope : Scope) (s : State) :=
  runAtomic h d a b (AtomicSize.bytes sz) false (fun _ y => some y) s
/-- What ACAS writes: g[c] where the comparison succeeds. -/
def State.casValue (s : State) (c n : Nat) (x y : Nat) : Option Nat := if x = y then some ((s.rg c).field 0 (8 * n)) else none

def execAcas (h : Hdr) (d a b c : Nat) (sz : AtomicSize) (_ord : MemOrder) (_scope : Scope) (s : State) :=
  runTo h (.g d) (fun s => atomicEffect d a b (AtomicSize.bytes sz) false (s.casValue c (AtomicSize.bytes sz)) s) s

/-- FENCE (R187, R188): in X it waits until every earlier command has retired; M has none in flight when one issues (R238). -/
def fenceEffect (s : State) : Eff :=
  if s.cur.stream = .x ∧ !s.here.xqueue.isEmpty then .wait .commands else .done s

def execFence (h : Hdr) (_ord : MemOrder) (_scope : Scope) (s : State) := run h fenceEffect s

/-- RFENCE drops the slot's record-cache entries (R189). -/
def execRfence (h : Hdr) (s : State) :=
  run h (fun s => .done (s.withCell s.cur.slot.cell (fun c => { c with recs := c.recs.filter (fun e => e.h1 != s.cur.slot.h1) }))) s

/-- TKSEND (R190). In V its token is made one beat later, as a post is; where its own POST field posts as well, the second token
travels as an entry of width 0, which stands for no instruction. -/
def tksendEffect (h : Hdr) (dst : Stream) (s : State) : Eff :=
  let st := s.cur.stream
  let l := s.here
  let own := if h.post = some dst then 1 else 0
  if 16 ≤ l.tokens st dst + l.reserved st dst + own then .wait (.room dst)
  else if st ≠ .v then .done (s.withHere (fun l => l.withTokens st dst (· + 1)))
  else
    .done (s.withHere (fun l =>
      { l with vflight := l.vflight ++ [{ VEntry.bare with post := some dst, offset := 1, width := 0 }] }))

def execTksend (h : Hdr) (dst : Stream) (s : State) := run h (tksendEffect h dst) s

/-- TKWAIT (R190). -/
def tkwaitEffect (src : Stream) (s : State) : Eff :=
  let st := s.cur.stream
  if s.here.tokens src st = 0 then .wait (.token src) else .done (s.withHere (fun l => l.withTokens src st (· - 1)))

def execTkwait (h : Hdr) (src : Stream) (s : State) := run h (tkwaitEffect src) s

/-! ### Barriers -/

/-- A barrier that no unit has reached (R192). -/
def Barrier.blank : Barrier := { phase := 0, arrived := [] }

/-- The unit that S belongs to, and its launch. -/
def State.myUnit (s : State) : UnitRef := (s.binding s.cur.slot).unit

/-- The launch that the issuing unit belongs to. -/
def State.myLaunch (s : State) : Option Launch := Map.find s.launches s.myUnit.launch

/-- Barrier n of the team. -/
def Launch.barrier (l : Launch) (n : Nat) : Barrier := Map.get Barrier.blank l.barriers n

/-- BARA (R192): a unit that has arrived in the current phase waits for its end. -/
def baraEffect (n : Nat) (s : State) : Eff :=
  let r := s.myUnit
  match s.myLaunch with
  | none => .done s
  | some l =>
    let b := l.barrier n
    if Map.find b.arrived r.index = some b.phase then .wait .barrier
    else
      .done (s.withLaunch r.launch (fun l =>
        ({ l with barriers := Map.set l.barriers n { b with arrived := Map.set b.arrived r.index b.phase } }).settleBarriers))

def execBara (h : Hdr) (n : Nat) (_scope : BarScope) (s : State) := run h (baraEffect n) s

/-- BARW (R192). -/
def barwEffect (n : Nat) (s : State) : Eff :=
  match s.myLaunch with
  | none => .done s
  | some l =>
    let b := l.barrier n
    if Map.find b.arrived s.myUnit.index = some b.phase then .wait .barrier else .done s

def execBarw (h : Hdr) (n : Nat) (_scope : BarScope) (s : State) := run h (barwEffect n) s

/-! ### Launches and counters -/

/-- The job that the issuing unit belongs to. -/
def State.myJob (s : State) : Option (Nat × Job) :=
  match s.myLaunch with
  | some l => (Map.find s.jobs l.job).map (fun j => (l.job, j))
  | none => none

/-- The graph of its job that the issuing unit's launch belongs to (R34). -/
def State.myGraph (s : State) : Nat := (s.myLaunch.map (·.graph)).getD 0

/-- Entries of a partition's pool (R353). -/
def poolSize : Nat := 512

/-- Launches of a partition that hold pool entries (R196). -/
def State.poolUsed (s : State) (p : Nat) : Nat := ((Map.vals s.launches).filter (fun l => l.pool && decide ((s.mc l.mc).part = p))).length

/-- Launches of a micro-context that are charged to its quota (R196). -/
def State.quotaUsed (s : State) (h : Nat) : Nat := ((Map.vals s.launches).filter (fun l => l.quota && decide (l.mc = h))).length

/-- Create a device-side launch under the issuing unit's graph (R194): one created within a cancelled level is cancelled before it
binds (R37). -/
def State.createChild (s : State) (r : LaunchRec) (cont : Bool) : Nat × State :=
  let b := s.binding s.cur.slot
  let parent := b.unit.launch
  match s.myLaunch with
  | none => (0, s)
  | some l =>
    let (n, s1) := s.next
    let child := { newLaunch n b.handle l.job l.graph r n s.cyc with
                   device := true, quota := !cont, pool := !cont, contOf := if cont then some parent else none }
    let s2 := { s1 with launches := Map.set s1.launches n child }
    let s3 := s2.withJob l.job (fun j => j.withGraph l.graph Counter.more)
    let s4 := if cont then s3.withLaunch parent (fun l => { l with contTaken := true }) else s3
    let marked := l.cancelled || optAny (Map.find s.jobs l.job) (fun j => j.marked l.graph) || decide (Map.get .plain s.reasons l.job ≠ .plain)
    (n, if marked then s4.cancelPending n else s4.settleMc b.handle false)

/-- LAUNCH and LAUNCH.cont (R194 to R196). -/
def launchEffect (d a b : Nat) (cont : Bool) (s : State) : Eff :=
  let bd := s.binding s.cur.slot
  let report (s : State) (v : Word) (ok : Bool) : Eff := .done (writeGQ d v b ok s)
  match s.sRead (s.rg a) 64 64 with
  | .error e => e.eff
  | .ok (bs, s1) =>
    let r := LaunchRec.ofBytes bs
    let size := ((s.myLaunch).map (fun l => l.record.gsize)).getD 0
    let taken := optAny s.myLaunch (fun l => l.contTaken)
    if s.recordInvalid bd.part bs ∨ (cont ∧ r.gsize ≠ size) then report s1 3 false
    else if cont ∧ taken then report s1 1 false
    else if !cont ∧ (s.mc bd.handle).quota ≤ s.quotaUsed bd.handle then report s1 2 false
    else if !cont ∧ poolSize ≤ s.poolUsed bd.part then report s1 1 false
    else
      let (n, s2) := s1.createChild r cont
      report s2 (Config.launchTag n ++ BitVec.ofNat 32 n) true

def execLaunch (h : Hdr) (d a b : Nat) (s : State) := runTo h (.gq d b) (outsideWindow (launchEffect d a b false)) s
def execLaunchCont (h : Hdr) (d a b : Nat) (s : State) := runTo h (.gq d b) (outsideWindow (launchEffect d a b true)) s

/-- The launch that a handle names for the issuing micro-context, until its graph ends (R194). -/
def State.childOf (s : State) (v : Word) : Option (Nat × Launch) :=
  let h := (s.binding s.cur.slot).handle
  s.launches.find? (fun e => decide (e.2.mc = h) && e.2.handle == v &&
    optAny (Map.find s.jobs e.2.job) (fun j => decide ((j.graph e.2.graph).count.state = 0)))

/-- JOIN (R197). -/
def joinEffect (a : Nat) (s : State) : Eff :=
  match s.childOf (s.rg a) with
  | some (_, l) => if l.state = 0 then .wait .counter else .done s
  | none => .done s

def execJoin (h : Hdr) (a : Nat) (s : State) := run h (joinEffect a) s

/-- CANCEL of a child launch (R198): its status and its effect. -/
def State.cancelChild (s : State) (v : Word) : Nat × (State → State) :=
  match s.childOf v with
  | none => (2, id)
  | some (n, l) => if l.state ≠ 0 then (1, id) else (0, fun s => s.cancelLaunch n true)

/-- CANCEL of a level of the issuing unit (R37, R198). -/
def State.cancelLevel (s : State) (level : Nat) : Nat × (State → State) :=
  let r := s.myUnit
  if level = 0 then (0, fun s => s.signal r false)
  else if level = 1 then (0, fun s => s.cancelLaunch r.launch true)
  else
    match s.myJob with
    | some (n, j) => if (j.counter s.myGraph level).state ≠ 0 then (1, id) else (0, fun s => s.cancelJob n s.myGraph level)
    | none => (1, id)

def cancelEffect (d a : Nat) (child : Bool) (level : Nat) (s : State) : Eff :=
  let (status, f) := if child then s.cancelChild (s.rg a) else s.cancelLevel level
  .done (f (s.withMe (fun t => t.setG d (BitVec.ofNat 64 status))))

def execCancel (h : Hdr) (d a : Nat) (child : Bool) (level : Nat) (s : State) := runTo h (.g d) (outsideWindow (cancelEffect d a child level)) s

/-- The value of a child handle that names no launch (R199). -/
def noLaunchWord : Word := 0x4000000000000000

/-- The counter that CNTRD and WAITEV read (R199): its value, its STATE and its ENDED. -/
def State.counterOf (s : State) (a : Nat) (child : Bool) (level : Nat) : Word :=
  if child then
    (match s.childOf (s.rg a) with
     | some (_, l) => l.word
     | none => noLaunchWord)
  else if level = 1 then (s.myLaunch.map Launch.word).getD noLaunchWord
  else (s.myJob.map (fun j => (j.2.counter s.myGraph level).word)).getD noLaunchWord

def execCntrd (h : Hdr) (d a : Nat) (child : Bool) (level : Nat) (s : State) :=
  run h (fun s => writeG d (s.counterOf a child level) s) s

/-- WAITEV (R200). -/
def waitevEffect (d a b : Nat) (child : Bool) (level : Nat) (s : State) : Eff :=
  let w := s.counterOf a child level
  if w.field 62 2 = 0 ∧ w.field 0 30 < (s.rg b).toNat then .wait .counter else writeG d w s

def execWaitev (h : Hdr) (d a b : Nat) (child : Bool) (level : Nat) (s : State) := run h (waitevEffect d a b child level) s

/-! ### Die engines -/

/-- Bytes of an engine's command (Table 8.5). -/
def Engine.commandBytes : Engine → Nat
  | .walker => 32
  | .collective => 64
  | .egress => 64
  | .siphon => 32

/-- Commands of a unit outstanding at an engine, from acceptance until DEQ pops the result (R202). -/
def State.outstanding (s : State) (r : UnitRef) (e : Engine) : Nat :=
  (s.commands.filter (fun c => decide (c.unit = r) && decide (c.engine = e) && !c.direct && decide (c.vf = 0))).length +
  (s.results.filter (fun x => decide (x.unit = r) && decide (x.engine = e) && !x.direct)).length

/-- Accept a command at the issuing cell's die: its identity and the state that holds it (R202). -/
def State.accept (s : State) (e : Engine) (bytes : List Byte) (direct : Bool) : Nat × State :=
  let u := s.cur.slot
  let b := s.binding u
  let (n, s1) := s.next
  let c : Command := { id := n, die := dieOf u.cell, engine := e, unit := b.unit, slot := u, user := s.userMode s.cur, handle := b.handle,
                       bytes := bytes, direct := direct, ordinal := none, vf := 0
                       route := match s.myJob with
                         | some (_, j) => (match j.source with
                           | .request _ => some (j.route, j.port)
                           | _ => none)
                         | none => none }
  (n, { s1 with commands := s1.commands ++ [c] })

/-- ENQ (R202). -/
def enqEffect (a : Nat) (e : Engine) (s : State) : Eff :=
  let addr := s.rg a
  if space addr ≠ 1 then .trap { cause := causeSpace, sub := 0, tval := addr }
  else
    match s.sRead addr (Engine.commandBytes e) (Engine.commandBytes e) with
    | .error x => x.eff
    | .ok (bs, s1) => if 8 ≤ s.outstanding s.myUnit e then .wait .engine else .done (s1.accept e bs false).2

def execEnq (h : Hdr) (a : Nat) (eng : Engine) (s : State) := run h (outsideWindow (enqEffect a eng)) s

/-- The result at the head of a unit's queue for an engine: results return in command order (R201). -/
def State.readyResult (s : State) (r : UnitRef) (e : Engine) : Option Result :=
  let mine (x : Result) : Bool := decide (x.unit = r) && decide (x.engine = e) && !x.direct
  let waits (n : Nat) : Bool := s.commands.any (fun c =>
    decide (c.unit = r) && decide (c.engine = e) && !c.direct && decide (c.vf = 0) && decide (c.id < n))
  match s.results.find? mine with
  | some x => if waits x.id then none else some x
  | none => none

/-- DEQ (R203). -/
def deqEffect (a : Nat) (e : Engine) (s : State) : Eff :=
  let addr := s.rg a
  let r := s.myUnit
  if space addr ≠ 1 then .trap { cause := causeSpace, sub := 0, tval := addr }
  else
    match s.readyResult r e, s.outstanding r e with
    | some x, _ =>
      (match s.sWrite addr x.bytes 16 with
       | .error y => y.eff
       | .ok s1 => .done { s1 with results := s1.results.filter (fun z => decide (z.id ≠ x.id)) })
    | none, 0 =>
      (match s.sWrite addr (List.replicate 16 0xFF) 16 with
       | .error y => y.eff
       | .ok s1 => .done s1)
    | none, _ =>
      (match s.sWrite addr (zeros 16) 16 with
       | .error y => y.eff
       | .ok _ => .wait .engine)

def execDeq (h : Hdr) (a : Nat) (eng : Engine) (s : State) := run h (deqEffect a eng) s

/-! ### Boundaries, the live window, traps -/

/-- GPOS (R204): a boundary that is taken ends the unit's stay in its cell. -/
def gposEffect (a : Nat) (s : State) : Eff :=
  let v := s.rg a
  match codeAddressFault v.toNat with
  | some t => .trap t
  | none =>
    if optAny s.myLaunch (fun l => l.request.isSome) && s.here.quietForGpos then .away (s.leaveBoundary s.cur.slot v.toNat) else .done s

def execGpos (h : Hdr) (a : Nat) (s : State) := run h (gposEffect a) s

/-- CSLIVE (R205). -/
def csliveEffect (a b : Nat) (s : State) : Eff :=
  if s.windowHeld s.cur.slot then .wait .link
  else .done (s.setWindow s.cur.slot (windowOfRange (s.rg a) (s.rg b)).1 (windowOfRange (s.rg a) (s.rg b)).2)

def execCslive (h : Hdr) (a b : Nat) (s : State) := run h (csliveEffect a b) s

/-- TRAP and BKPT (R206). -/
def execTrap (h : Hdr) (imm : Nat) (s : State) := run h (fun _ => .soft (trapAt causeSwtrap 0 imm)) s
def execBkpt (h : Hdr) (imm : Nat) (s : State) := run h (fun _ => .soft (trapAt causeBkpt 0 imm)) s

/-- ERET (R207): supervisor only; with no trap outstanding on its stream it acts as a NOP. Its post is made at the return. -/
def eretEffect (h : Hdr) (s : State) : Eff :=
  if s.userMode s.cur then .trap (trapAt causePriv 0 s.me.pc)
  else if s.here.handler.isNone ∨ s.cur.stream ≠ .s then .done s
  else
    let u := s.cur.slot
    if s.areaHeld u then .wait .link
    else
      let s1 := s.returnOut u
      .away (match h.post with
        | some p => if (s1.slot u).bound.isSome then s1.withSlot u (fun l => l.withTokens .s p (· + 1)) else s1
        | none => s1)

def execEret (h : Hdr) (s : State) := run h (eretEffect h) s

end Sys2Proof.Machine
end

