-- ==== Sys2Proof/Machine/Serving.lean ====
section
/-! DEFINITION. The serving instructions, opcodes 0xC0 to 0xD4 (chapter 11): stream records, speculative windows, the prefix table,
die-to-die queues, collectives, segments and masks. -/

namespace Sys2Proof.Machine

/-- ILLOP SERVE and PERM STREAM with an operand value, and ILLOP SPEC with one (Table 11.2). -/
def serveTrap (v : Word) : TrapInfo := { cause := causeIllop, sub := 7, tval := v }
def specTrap (v : Word) : TrapInfo := { cause := causeIllop, sub := 8, tval := v }
def streamPerm (v : Word) : TrapInfo := { cause := causePerm, sub := 5, tval := v }

/-- A window instruction out of place, which has no operand for TVAL. -/
def State.outOfPlace (s : State) : TrapInfo := s.unstatedTrap causeIllop 8

/-! ### Stream records -/

/-- The record that a stream handle names, for the issuing micro-context (R264). On a die that does not serve its partition it owns none
(R396). -/
def State.streamOf (s : State) (v : Word) : Except TrapInfo Nat :=
  if v.toNat / 2 ^ 12 ≠ 0 then .error (serveTrap v)
  else if (s.srec v.toNat).owner ≠ (s.binding s.cur.slot).handle ∨ !s.dieServes (s.binding s.cur.slot).part (v.toNat / 1024) then .error (streamPerm v)
  else .ok v.toNat

/-- An instruction on the record of g[a], which it attaches (R264). -/
def onStream (a : Nat) (f : Nat → State → Eff) (s : State) : Eff :=
  match s.streamOf (s.rg a) with
  | .error t => .trap t
  | .ok n => f n (s.withHere (fun l => { l with attached := some n }))

/-- SFRAME (R268), outside a window of its own slot (log entry 96). -/
def sframeEffect (d b n : Nat) (s : State) : Eff :=
  if s.recordHeld n ∧ (s.srec n).queue ≠ [] then .wait .link else
  match s.popFrame n s.here.window.isSome with
  | none => if b = 0 then .wait .frame else .done (writeGQ d 0 b false s)
  | some (s1, f, late) =>
    let s2 := writeGQ d (f.descriptor late) b true s1
    if late then .report s2 (trapAt causeLateframe 0 f.play) else .done s2

def execSframe (h : Hdr) (d a b : Nat) (s : State) := runTo h (.gq d b) (outsideWindow (onStream a (sframeEffect d b))) s

/-- SCOMMIT (R269), outside a window of its own slot (log entry 96): the entry is also written to region 3. -/
def scommitEffect (d b n : Nat) (s : State) : Eff :=
  let v := s.rg b
  let pos := v.field 32 32
  let token := v.field 0 32
  let r := s.srec n
  let (status, r1) := r.commit token pos (s.here.window.map (fun w => (w.id, w.i)))
  let s1 := if status ≤ 1 then (s.withSrec n (fun _ => r1)).mcStore r.owner (r.ringAt 3 pos) (deliveryBytes token pos) else s
  .done (s1.withMe (fun t => t.setG d (BitVec.ofNat 64 status)))

def execScommit (h : Hdr) (d a b : Nat) (s : State) := runTo h (.g d) (onStream a (scommitEffect d b)) s

/-- STRUNC (R270). -/
def struncEffect (b n : Nat) (s : State) : Eff :=
  let v := s.rg b
  let t := v.toNat
  let r := s.srec n
  if 2 ^ 32 ≤ t ∨ r.g < t then .trap (serveTrap v)
  else if 0 < t ∧ t < r.floor then .trap (trapAt causeLateframe 0 t)
  else if s.recordHeld n then .wait .link else .done (s.truncate n t)

def execStrunc (h : Hdr) (a b : Nat) (s : State) := run h (outsideWindow (onStream a (struncEffect b))) s

/-- The cursor that SCUR reads (R272). -/
def StreamRec.cursorWord (r : StreamRec) (fn : Nat) : Word :=
  match fn with
  | 0 => BitVec.ofNat 64 r.g
  | 1 => BitVec.ofNat 64 r.c
  | 2 => BitVec.ofNat 64 r.p
  | _ => BitVec.ofNat 64 (r.kpos * 2 ^ 32 + r.floor)

def execScur (h : Hdr) (d a fn : Nat) (s : State) :=
  runTo h (.g d) (onStream a (fun n s => .done (s.withMe (fun t => t.setG d ((s.srec n).cursorWord fn))))) s

/-- SCKPT (R271). TVAL of its trap is g[b], also where CAP2 is 0 (log entry 107). -/
def sckptEffect (b n : Nat) (s : State) : Eff :=
  let v := s.rg b
  let p := v.field 0 32
  let r := s.srec n
  if r.cap 2 = 0 ∨ r.g < p ∨ (!r.ckpts.isEmpty ∧ p ≤ r.kpos) then .trap (serveTrap v)
  else if s.recordHeld n then .wait .link else .done (s.checkpoint n p)

def execSckpt (h : Hdr) (a b : Nat) (s : State) := run h (outsideWindow (onStream a (sckptEffect b))) s

/-! ### Die-to-die queues -/

/-- The number of the queue from a die to a die. -/
def queueNo (sender receiver q : Nat) : Nat := 32 * sender + 8 * receiver + q

/-- A queue. -/
def State.dq (s : State) (n : Nat) : DieQueue := Map.get DieQueue.blank s.queues n

/-- Change a queue. -/
def State.withDq (s : State) (n : Nat) (f : DieQueue → DieQueue) : State :=
  { s with queues := Map.put DieQueue.blank s.queues n (f (s.dq n)) }

/-- The queue that an operand names, for sending or receiving by the issuing micro-context (R284); to or from a die that does not serve its
partition it has none (R396). -/
def State.queueOf (s : State) (v : Word) (sending : Bool) : Except TrapInfo Nat :=
  let die := dieOf s.cur.slot.cell
  let other := v.field 0 2
  let handle := (s.binding s.cur.slot).handle
  let n := if sending then queueNo die other (v.field 2 3) else queueNo other die (v.field 2 3)
  if 32 ≤ v.toNat ∨ other = die then .error (serveTrap v)
  else if (if sending then (s.dq n).sender else (s.dq n).receiver) ≠ some handle ∨ !s.dieServes (s.binding s.cur.slot).part other then .error (streamPerm v)
  else .ok n

/-- Put an entry into a queue, with the send count in bytes 0 to 7. -/
def DieQueue.send (q : DieQueue) (bs : List Byte) : DieQueue :=
  { q with entries := q.entries ++ [bytesOf 8 q.sends ++ bs.drop 8], sends := (q.sends + 1) % 2 ^ 32 }

/-- Take an entry from a queue: its sequence number sets the receive count. -/
def DieQueue.receive (q : DieQueue) (bs : List Byte) (rest : List (List Byte)) : DieQueue :=
  { q with entries := rest, receives := (natAt bs 0 4 + 1) % 2 ^ 32 }

/-- What follows a receipt: SEQERR where the number is not the expected one (R284). -/
def received (q : DieQueue) (bs : List Byte) (s : State) : Eff :=
  let seq := natAt bs 0 4
  if seq = q.receives then .done s else .report s (trapAt causeSeqerr 0 (q.receives * 2 ^ 32 + seq))

/-- A buffer of an instruction of this chapter: space 1, n bytes aligned to 64. -/
def State.buffer (s : State) (kind : Access) (a : Word) (n : Nat) : Except Stop Reached :=
  if space a ≠ 1 then .error (trap0 causeSpace a) else s.sAccess kind true a n 64

/-- DQSEND (R284). -/
def dqsendEffect (a b : Nat) (s : State) : Eff :=
  match s.queueOf (s.rg b) true with
  | .error t => .trap t
  | .ok n =>
    match s.buffer .load (s.rg a) 256 with
    | .error e => e.eff
    | .ok (k, s1) =>
      if 64 ≤ (s.dq n).entries.length then .wait .queue else .done (s1.withDq n (fun q => q.send (s1.load k 256)))

def execDqsend (h : Hdr) (a b : Nat) (s : State) := run h (outsideWindow (dqsendEffect a b)) s

/-- DQRECV (R284). -/
def dqrecvEffect (d a b : Nat) (s : State) : Eff :=
  match s.queueOf (s.rg b) false with
  | .error t => .trap t
  | .ok n =>
    match s.buffer .store (s.rg a) 256 with
    | .error e => e.eff
    | .ok (k, s1) =>
      let q := s.dq n
      match q.entries with
      | [] => .wait .queue
      | bs :: rest =>
        let s2 := (s1.store k bs).withDq n (fun q => q.receive bs rest)
        received q bs (s2.withMe (fun t => t.setG d (BitVec.ofNat 64 (natAt bs 0 8))))

def execDqrecv (h : Hdr) (d a b : Nat) (s : State) := runTo h (.g d) (outsideWindow (dqrecvEffect d a b)) s

/-! ### Speculative windows -/

/-- Whether the first 64 bytes of a window block are valid (Table 11.6). -/
def blockValid (bs : List Byte) : Bool :=
  let n := natAt bs 0 2
  let r := byteAt bs 2
  decide (8 ≤ n ∧ n ≤ 256 ∧ n % 8 = 0) && zeroAt bs 5 59 &&
  (decide (r = 0) || (decide (r ≤ 61) && decide (n ≤ 64) && decide (r + n / 8 ≤ 62)))

/-- Whether an address is that of a valid window block in the own cell store (R273). -/
def State.windowBlock (s : State) (a : Word) : Bool :=
  decide (space a = 1) && s.spaceOk s.cur (s.binding s.cur.slot) a 4416 && decide (offset a % 64 = 0) &&
  blockValid (s.cellBytes s.cur.slot.cell (offset a) 64)

/-- Whether V, M and X rest as SPECB requires (R274). -/
def Slot.quietForSpecb (l : Slot) : Bool :=
  let rests (t : StreamSt) : Bool := t.halted || optAny t.waiting (fun w => decide (w.on = .token .s))
  l.xqueue.isEmpty && l.vflight.isEmpty && l.mflight.isNone && l.fifo.isEmpty && rests l.v && rests l.m && rests l.x

/-- The restart PC of a stream: 0 for one that has halted. -/
def StreamSt.restartPc (t : StreamSt) : Nat := if t.halted then 0 else t.pc

/-- The window that SPECB opens (R274). -/
def State.openWindow (s : State) (block : Word) (w body : Nat) (pending : Bool) : State :=
  let l := s.here
  let (id, s) := s.next
  let lens := match l.attached with
    | some n => ((s.srec n).len0, (s.srec n).len1)
    | none => (0, 0)
  let win : Window := { id := id, block := block, w := w, i := 0, verdict := false, carryPending := pending, faulted := 0, cause := 0, accepted := 0,
                        acmpAt := 0, acmpD := 0, body := body, at_ := l.s.pc, pcV := l.v.restartPc, pcM := l.m.restartPc,
                        pcX := l.x.restartPc, handle := l.attached, len0 := lens.1, len1 := lens.2, app0 := 0, app1 := 0, appends := [] }
  s.withHere (fun l => { l with window := some win })

/-- GUESS[i] of a block is written. -/
def State.setGuess (s : State) (block : Word) (i : Nat) (bs : List Byte) : State :=
  s.store (cellStoreAt s.cur.slot.cell + offset block + guessAt i) bs

/-- The entry that a remote window sends: W in byte 8 and GUESS[0] from byte 16 (R274). -/
def windowEntry (w : Nat) (guess : List Byte) : List Byte :=
  (zeros 8 ++ bytesOf 1 w ++ zeros 7 ++ guess ++ zeros 240).take 256

/-- A remote window (R274): the request is sent once, and the reply fills the guesses. TVAL is free where the guesses do not fit the entry (log
entry 24), and the queue number of g[a] where its queue is at fault (log entry 107). -/
def remoteWindow (h : Hdr) (q block : Word) (w : Nat) (s : State) : Eff :=
  let u := s.cur.slot
  let size := (s.carryShape u block).1
  let operand : Word := BitVec.ofNat 64 (q.field 0 5)
  if 240 < (w - 1) * size then .trap s.outOfPlace
  else
    match s.queueOf operand true, s.queueOf operand false with
    | .error t, _ => .trap t
    | _, .error t => .trap t
    | .ok out, .ok in_ =>
      if optAny s.here.submitted (fun x => decide (x.pc = s.me.pc)) then
        let dq := s.dq in_
        match dq.entries with
        | [] => .wait .queue
        | bs :: rest =>
          match s.cellRace s.cur (byteSpan u.cell false block 3 ++
            (List.range (w - 1)).flatMap (fun i => byteSpan u.cell true (block + BitVec.ofNat 64 (guessAt (i + 1))) size)) with
          | some t => .trap t
          | none =>
          let s1 := s.withDq in_ (fun q => q.receive bs rest)
          let s2 := (List.range (w - 1)).foldl (fun s i => s.setGuess block (i + 1) ((bs.drop (16 + i * size)).take size)) s1
          let s3 := (s2.openWindow block w (s.linkAddr h).toNat false).withHere (fun l => { l with submitted := none })
          received dq bs s3
      else if !s.here.quietForSpecb then .wait .window
      else if 64 ≤ (s.dq out).entries.length then .wait .queue
      else
        .pause (fun s =>
          let c := s.carry u block
          let s1 := (s.setGuess block 0 c).withDq out (fun q => q.send (windowEntry w c))
          s1.withHere (fun l => { l with submitted := some { pc := l.s.pc, id := 0 } })) .queue

/-- SPECB (R274). -/
def specbEffect (h : Hdr) (a b w : Nat) (s : State) : Eff :=
  let u := s.cur.slot
  let block := s.rg b
  let guesser := s.rg a
  if s.here.window.isSome then .trap s.outOfPlace
  else if !s.windowBlock block then .trap (specTrap block)
  else if space guesser = 7 then remoteWindow h guesser block w s
  else if !s.here.quietForSpecb then .wait .window
  else
    match codeAddressFault guesser.toNat with
    | some t => .trap t
    | none =>
      let body := s.linkAddr h
      let s1 := (s.setGuess block 0 (s.carry u block)).openWindow block w body.toNat true
      .goto (s1.withMe (fun t => ((t.setG 63 body).setG 1 block).setG 2 (BitVec.ofNat 64 w))) guesser.toNat

def execSpecb (h : Hdr) (a b fn : Nat) (s : State) := run h (specbEffect h a b fn) s

/-- The number of iterations accepted, from iteration a on (R275). -/
def State.accepted (s : State) (u : SlotId) (w : Window) (a : Nat) : Nat → Nat
  | 0 => a
  | n + 1 =>
    if a < w.w ∧ !w.faulted.getLsbD a ∧ s.prod u w.block (a - 1) = s.guess u w.block a then s.accepted u w (a + 1) n else a

/-- The carry of a window's block where it lies in memory, as an access (Table 11.6). -/
def State.carrySpan (s : State) (u : SlotId) (w : Window) (write : Bool) : List Span :=
  let (n, r) := s.carryShape u w.block
  if r = 0 then byteSpan u.cell write (w.block + 64) n else []

/-- Bytes of a window's block from an offset, as an access. -/
def blockSpan (u : SlotId) (w : Window) (write : Bool) (at_ n : Nat) : List Span := byteSpan u.cell write (w.block + BitVec.ofNat 64 at_) n

/-- The block bytes that ACMP accesses (R275, Table 12.4): the carry shape, the carry, PROD[I], and then the next iteration's guess and
the carry it becomes, or, in the last iteration, what the verdict compares. -/
def State.acmpSpans (s : State) (u : SlotId) (w : Window) : List Span :=
  let n := (s.carryShape u w.block).1
  blockSpan u w false 0 3 ++ s.carrySpan u w false ++ blockSpan u w true (prodAt w.i) n ++
  (if w.i + 1 < w.w then blockSpan u w false (guessAt (w.i + 1)) n ++ s.carrySpan u w true
   else (List.range (w.w - 1)).flatMap (fun i => blockSpan u w false (prodAt i) n ++ blockSpan u w false (guessAt (i + 1)) n))

/-- The block bytes from which the carry is set, and where it lies, as accesses (R274, R276). -/
def State.carrySpans (s : State) (u : SlotId) (w : Window) (at_ : Nat) : List Span :=
  blockSpan u w false 0 3 ++ blockSpan u w false at_ (s.carryShape u w.block).1 ++ s.carrySpan u w true

/-- ACMP (R275). -/
def acmpEffect (d : Nat) (s : State) : Eff :=
  let u := s.cur.slot
  match s.here.window with
  | none => .trap s.outOfPlace
  | some w =>
    if w.verdict then .trap s.outOfPlace
    else match s.cellRace s.cur (s.acmpSpans u w) with
    | some t => .trap t
    | none =>
      let w1 := if w.i = 0 then { w with acmpAt := s.me.pc, acmpD := d } else w
      let s1 := s.store (cellStoreAt u.cell + offset w.block + prodAt w.i) (s.carry u w.block)
      if w.i + 1 < w.w then
        let s2 := s1.withHere (fun l => { l with window := some { w1 with i := w.i + 1 } })
        .goto (s2.setCarry u w.block (s2.guess u w.block (w.i + 1))) w.body
      else
        let n := s1.accepted u w 1 8
        let s2 := s1.withHere (fun l => { l with window := some { w1 with verdict := true, accepted := n } })
        .done (s2.withMe (fun t => t.setG d (BitVec.ofNat 64 (w.cause * 2 ^ 32 + n))))

def execAcmp (h : Hdr) (d : Nat) (s : State) := run h (acmpEffect d) s

/-- SPECE (R276). -/
def speceEffect (s : State) : Eff :=
  let u := s.cur.slot
  match s.here.window with
  | none => .trap s.outOfPlace
  | some w =>
    if !w.verdict then .trap s.outOfPlace
    else match s.cellRace s.cur (s.carrySpans u w (prodAt (w.accepted - 1))) with
    | some t => .trap t
    | none =>
      let s1 := s.acceptWindow w
      .done ((s1.setCarry u w.block (s1.prod u w.block (w.accepted - 1))).withHere (fun l => { l with window := none }))

def execSpece (h : Hdr) (s : State) := run h speceEffect s

/-- SPECX (R276). -/
def specxEffect (s : State) : Eff :=
  match s.here.window with
  | none => .trap s.outOfPlace
  | some w =>
    match s.cellRace s.cur (s.carrySpans s.cur.slot w (guessAt 0)) with
    | some t => .trap t
    | none => .done (s.closeAborted s.cur.slot)

def execSpecx (h : Hdr) (s : State) := run h specxEffect s

/-! ### The prefix table -/

/-- Entry i of a partition's table. -/
def State.prefixEntry (s : State) (part i : Nat) : PrefixEntry := Map.get PrefixEntry.blank s.prefixes (64 * part + i)

/-- Change an entry. -/
def State.withPrefix (s : State) (part i : Nat) (f : PrefixEntry → PrefixEntry) : State :=
  { s with prefixes := Map.put PrefixEntry.blank s.prefixes (64 * part + i) (f (s.prefixEntry part i)) }

/-- The image of an entry (R281). -/
def PrefixEntry.image (e : PrefixEntry) : List Byte :=
  bytesOf 16 e.digest ++ bytesOf 4 e.blocks ++ bytesOf 4 e.npages ++ zeros 8 ++ e.pages.flatMap (fun p => bytesOf 8 p.toNat)

/-- The prefix handle of entry i (R281). -/
def PrefixEntry.handle (e : PrefixEntry) (i : Nat) : Nat := e.gen * 2 ^ 16 + i

/-- The entry that holds a digest and a number of blocks. -/
def State.findPrefix (s : State) (part digest blocks : Nat) : Option Nat :=
  (List.range 64).find? (fun i =>
    let e := s.prefixEntry part i
    e.used && decide (e.digest = digest) && decide (e.blocks = blocks))

/-- The longest match of a chain of digests, the first of them for one block (R282). -/
def State.longestMatch (s : State) (part : Nat) (digests : List Nat) (k : Nat) : Option (Nat × Nat) :=
  match digests with
  | [] => none
  | d :: t =>
    match s.longestMatch part t (k + 1), s.findPrefix part d k with
    | some r, _ => some r
    | none, some i => some (k, i)
    | none, none => none

/-- Read bytes as S does, without alignment, each checked by itself. -/
def State.sReadEach (s : State) (a : Word) (n : Nat) : Except Stop (List Byte × State) :=
  let c := s.cur
  match s.touch c false a n with
  | .error e => .error e
  | .ok (ks, s1) =>
    match s.cellRace c (byteSpan c.slot.cell false a n) with
    | some t => .error (.trap t)
    | none =>
      match (ks.zip (List.range n)).find? (fun e => (Map.find s1.upsets e.1).isSome) with
      | some e => .error (trap0 causePoison (a + BitVec.ofNat 64 e.2))
      | none => .ok (s1.loadEach ks, s1.countEach ks)

/-- PFXQ (R282): a malformed chain is an operand out of range. -/
def pfxqEffect (d a b : Nat) (s : State) : Eff :=
  let part := (s.binding s.cur.slot).part
  let chain := s.rg a
  match s.sReadEach chain 16 with
  | .error e => e.eff
  | .ok (hd, s1) =>
    let n := natAt hd 0 4
    if n = 0 ∨ 256 < n ∨ !zeroAt hd 4 12 then .trap (serveTrap chain)
    else
      match s1.sReadEach (chain + 16) (16 * n) with
      | .error e => e.eff
      | .ok (bs, s2) =>
        match s2.longestMatch part ((List.range n).map (fun i => natAt bs (16 * i) 16)) 1 with
        | none => .done (s2.withMe (fun t => t.setG d 0))
        | some (k, i) =>
          match s2.buffer .store (s.rg b) 256 with
          | .error e => e.eff
          | .ok (at_, s3) =>
            let e := s3.prefixEntry part i
            let (stamp, s4) := (s3.store at_ e.image).next
            let s5 := s4.withPrefix part i (fun e => { e with pins := e.pins + 1, matched := stamp })
            .done (s5.withMe (fun t => t.setG d (BitVec.ofNat 64 (e.handle i * 2 ^ 32 + k))))

def execPfxq (h : Hdr) (d a b : Nat) (s : State) := runTo h (.g d) (outsideWindow (pfxqEffect d a b)) s

/-- The chain at an address as PFXQ reads it (R282): the number of its digests, and the entry that it hits. -/
def State.chainAt (s : State) (chain : Word) : Option (Nat × Option (Nat × Nat)) :=
  match s.sReadEach chain 16 with
  | .error _ => none
  | .ok (hd, s1) =>
    let n := natAt hd 0 4
    match s1.sReadEach (chain + 16) (16 * n) with
    | .error _ => none
    | .ok (bs, s2) => some (n, s2.longestMatch (s.binding s.cur.slot).part ((List.range n).map (fun i => natAt bs (16 * i) 16)) 1)

/-- The entry that an insertion takes: a free one, or the unpinned one least recently matched (R283). -/
def State.prefixVictim (s : State) (part : Nat) : Option Nat :=
  match (List.range 64).find? (fun i => !(s.prefixEntry part i).used) with
  | some i => some i
  | none =>
    ((List.range 64).filter (fun i => decide ((s.prefixEntry part i).pins = 0))).foldl (fun best i =>
      match best with
      | none => some i
      | some j => if (s.prefixEntry part i).matched < (s.prefixEntry part j).matched then some i else some j) none

/-- The access of PFXI: it reads the 256 bytes of the image and writes its STATUS, bytes 24 to 27 (R281, R283). -/
def State.imageAccess (s : State) (a : Word) : Except Stop Reached :=
  let cell := s.cur.slot.cell
  if space a ≠ 1 then .error (trap0 causeSpace a)
  else s.sAccessOf .atomic true a 256 64 (byteSpan cell false a 256 ++ byteSpan cell true (a + 24) 4)

/-- PFXI (R283): the image is inserted as it stands (log entry 95). -/
def pfxiEffect (a : Nat) (s : State) : Eff :=
  let part := (s.binding s.cur.slot).part
  match s.imageAccess (s.rg a) with
  | .error e => e.eff
  | .ok (k, s1) =>
    let bs := s1.load k 256
    let status (s : State) (v : Nat) : Eff := .done (s.store (k + 24) (bytesOf 4 v))
    if (s1.findPrefix part (natAt bs 0 16) (natAt bs 16 4)).isSome then status s1 1
    else
      match s1.prefixVictim part with
      | none => status s1 2
      | some i =>
        let (stamp, s2) := s1.next
        status (s2.withPrefix part i (fun e =>
          { used := true, digest := natAt bs 0 16, blocks := natAt bs 16 4, npages := natAt bs 20 4
            pages := (List.range 28).map (fun j => BitVec.ofNat 64 (natAt bs (32 + 8 * j) 8))
            gen := (e.gen + 1) % 2 ^ 16, pins := 0, matched := stamp })) 0

def execPfxi (h : Hdr) (a : Nat) (s : State) := run h (outsideWindow (pfxiEffect a)) s

/-- PFXPIN and PFXREL (R283). -/
def pinEffect (a : Nat) (f : Nat → Nat) (s : State) : Eff :=
  let part := (s.binding s.cur.slot).part
  let v := s.rg a
  let i := v.field 0 6
  let e := s.prefixEntry part i
  if v.toNat ≠ e.handle i ∨ !e.used then .trap (serveTrap v)
  else .done (s.withPrefix part i (fun e => { e with pins := f e.pins }))

def execPfxpin (h : Hdr) (a : Nat) (s : State) := run h (outsideWindow (pinEffect a (· + 1))) s
def execPfxrel (h : Hdr) (a : Nat) (s : State) := run h (outsideWindow (pinEffect a (· - 1))) s

/-! ### Collectives -/

/-- CRED, CBCST and CGATH (R285, R263): the command is submitted once, and its result goes to bytes 48 to 63. -/
def collectiveEffect (a op type : Nat) (s : State) : Eff :=
  let addr := s.rg a
  match s.buffer .load addr 64 with
  | .error e => e.eff
  | .ok (k, s1) =>
    let group := natOf (s1.load (k + 24) 8)
    if decide (group < 256) && !optAny (Map.find s.groups group) (fun g => decide (g.handle = (s.binding s.cur.slot).handle)) then
      .trap (streamPerm (BitVec.ofNat 64 group))
    else
    match s.here.submitted with
    | some x =>
      if x.pc = s.me.pc then
        match s.results.find? (fun r => decide (r.id = x.id)) with
        | none => .wait .collective
        | some r =>
          match s.sWrite (addr + 48) r.bytes 16 with
          | .error e => e.eff
          | .ok s2 =>
            .done ({ s2 with results := s2.results.filter (fun z => decide (z.id ≠ x.id)) }.withHere (fun l => { l with submitted := none }))
      else .pause (submit (bytesOf 1 op ++ bytesOf 1 type ++ (s1.load k 64).drop 2)) .collective
    | none => .pause (submit (bytesOf 1 op ++ bytesOf 1 type ++ (s1.load k 64).drop 2)) .collective
where
  /-- Submit a command and record the submission in the slot. -/
  submit (bs : List Byte) (s : State) : State :=
    let (n, s1) := s.accept .collective bs true
    s1.withHere (fun l => { l with submitted := some { pc := l.s.pc, id := n } })

def execCred (h : Hdr) (a fn : Nat) (s : State) := run h (outsideWindow (collectiveEffect a 1 fn)) s
def execCbcst (h : Hdr) (a : Nat) (s : State) := run h (outsideWindow (collectiveEffect a 2 0)) s
def execCgath (h : Hdr) (a : Nat) (s : State) := run h (outsideWindow (collectiveEffect a 3 0)) s

/-! ### Segments and masks -/

/-- The frame of the absent segment that an address lies on, if its leaf is a SEG page (R286). -/
def State.absentSegment (s : State) (a : Word) : Option Nat :=
  let c := s.cur
  let b := s.binding c.slot
  if space a ≠ 0 ∨ rankField a ≠ 0 then none
  else
    match s.translation c b (offset a) with
    | .error _ => none
    | .ok (pa, leaf, _) => if bitOf leaf 6 && (Map.find s.residency (frameOf pa)).isNone then some (frameOf pa) else none

/-- SIPHQ (R286). -/
def siphqEffect (a b : Nat) (s : State) : Eff :=
  let u := s.rg b
  if 7 < u.toNat then .trap (serveTrap u)
  else
    match s.absentSegment (s.rg a) with
    | some f => .done (s.urge f u.toNat)
    | none =>
      match s.access s.cur .load (s.rg a) 1 1 with
      | .error (.trap t) => .done (s.countFault (s.binding s.cur.slot) t)
      | _ => .done s

def execSiphq (h : Hdr) (a b : Nat) (s : State) := run h (siphqEffect a b) s

/-- SEGWT (R286): a wait is a park. -/
def segwtEffect (a : Nat) (s : State) : Eff :=
  match s.access s.cur .load (s.rg a) 1 1 with
  | .error .hold => .done s
  | .error e => e.eff
  | .ok _ => .done s

def execSegwt (h : Hdr) (a : Nat) (s : State) := run h (segwtEffect a) s

/-- Whether the deadline D of a MASKW has passed (R287). -/
def maskLate (cyc : Nat) (v : Word) : Bool := decide ((cyc % 2 ^ 32 + 2 ^ 32 - v.field 0 32) % 2 ^ 32 < 2 ^ 31)

/-- MASKW (R287). Its write of STATUS is checked and claims its line at each poll, also while it waits (log entry 108). -/
def maskwEffect (a b : Nat) (s : State) : Eff :=
  let addr := s.rg a
  let v := s.rg b
  if space addr ≠ 0 ∧ space addr ≠ 5 then .trap { cause := causeSpace, sub := 0, tval := addr }
  else
    match s.sAccess .load false addr 16 16, s.sAccess .store true addr 16 16 with
    | .error e, _ => e.eff
    | _, .error e => e.eff
    | .ok (k, _), .ok (_, s1) =>
      let cell := natOf (s.load k 8)
      let ready := bitOf cell 63 && decide (bitsOf cell 0 32 = v.field 32 32)
      if ready then .done ((s1.countLoad k).store (k + 8) (bytesOf 8 0))
      else if maskLate s.cyc v then .done ((s1.countLoad k).store (k + 8) (bytesOf 8 1))
      else .wait .mask

def execMaskw (h : Hdr) (a b : Nat) (s : State) := run h (outsideWindow (maskwEffect a b)) s

end Sys2Proof.Machine
end

