-- ==== Sys2Proof/Machine/Hash.lean ====
section
/-! DEFINITION. SHAKE256 (FIPS 202), on which prefix digests, key derivations and reports rest (R257, R405, R409, R419). Lane (x, y) of
the sponge's state is entry x + 5y of a list of 25 words. -/

namespace Sys2Proof

/-- Lane i of a state. -/
def lane (a : List Word) (i : Nat) : Word := a.getD i 0

/-- One step of the shift register of FIPS 202 that the round constants are drawn from: x^8 + x^6 + x^5 + x^4 + 1. -/
def nextRegister (r : Nat) : Nat := 2 * r % 256 ^^^ (if 128 ≤ r then 0x71 else 0)

/-- The register after n steps from 1. -/
def registerAfter : Nat → Nat
  | 0 => 1
  | n + 1 => nextRegister (registerAfter n)

/-- The constant of a round: bit 2^j − 1 is what the register shows at step 7 × round + j. -/
def roundWord (round : Nat) : Word :=
  BitVec.ofNat 64 (((List.range 7).map (fun j => registerAfter (7 * round + j) % 2 * 2 ^ (2 ^ j - 1))).sum)

/-- Column x of a state: the sum of its five lanes. -/
def columnSum (a : List Word) (x : Nat) : Word := (List.range 5).foldl (fun w y => w ^^^ lane a (x % 5 + 5 * y)) 0

/-- θ: each lane meets the column before it and, turned by one, the column after it. -/
def mixColumns (a : List Word) : List Word :=
  let sums := (List.range 5).map (columnSum a)
  a.mapIdx (fun i w => w ^^^ (lane sums ((i + 4) % 5) ^^^ (lane sums ((i + 1) % 5)).rotateLeft 1))

/-- The place to which π takes the lane at place i: (x, y) goes to (y, 2x + 3y). -/
def laneMove (i : Nat) : Nat := i / 5 + 5 * ((2 * (i % 5) + 3 * (i / 5)) % 5)

/-- ρ and π together, along the one cycle of π from (1, 0): the t-th lane met is turned by (t + 1)(t + 2) / 2 as it moves on. `a` is the
state before, `b` the state so far. -/
def carryLanes (a : List Word) : List Word → Nat → Nat → Nat → List Word
  | b, _, _, 0 => b
  | b, i, t, n + 1 => carryLanes a (b.set (laneMove i) ((lane a i).rotateLeft ((t + 1) * (t + 2) / 2 % 64))) (laneMove i) (t + 1) n

/-- χ: lane i meets the two that follow it in its row. -/
def mixRows (b : List Word) : List Word :=
  b.mapIdx (fun i w => w ^^^ (lane b (i / 5 * 5 + (i + 2) % 5) &&& ~~~ lane b (i / 5 * 5 + (i + 1) % 5)))

/-- A round. -/
def keccakRound (a : List Word) (round : Nat) : List Word :=
  let b := mixColumns a
  (mixRows (carryLanes b b 1 0 24)).modifyHead (· ^^^ roundWord round)

/-- Keccak-f[1600]. -/
def keccak (a : List Word) : List Word := (List.range 24).foldl keccakRound a

/-- Add a block of 136 bytes to a state. -/
def absorbBlock (a : List Word) (block : List Byte) : List Word :=
  keccak (a.mapIdx (fun i w => if i < 17 then w ^^^ BitVec.ofNat 64 (natAt block (8 * i) 8) else w))

/-- Add n blocks. -/
def absorb (a : List Word) (bs : List Byte) : Nat → List Word
  | 0 => a
  | n + 1 => absorb (absorbBlock a (bs.take 136)) (bs.drop 136) n

/-- n blocks of output. -/
def squeeze (a : List Word) : Nat → List Byte
  | 0 => []
  | n + 1 => ((a.take 17).flatMap (fun w => bytesOf 8 w.toNat)) ++ squeeze (keccak a) n

/-- The first n bytes of SHAKE256 of a message. -/
def shake256 (msg : List Byte) (n : Nat) : List Byte :=
  let blocks := msg.length / 136 + 1
  let pad := blocks * 136 - msg.length
  let tail := if pad = 1 then [0x9F] else [0x1F] ++ zeros (pad - 2) ++ [0x80]
  (squeeze (absorb (List.replicate 25 0) (msg ++ tail) blocks) (ceilDiv n 136)).take n

/-- The characters of a string as bytes. -/
def asciiBytes (s : String) : List Byte := s.toList.map (fun c => BitVec.ofNat 8 c.toNat)

end Sys2Proof
end

