-- ==== Sys2Proof/Machine/Special.lean ====
section
/-! DEFINITION. The special functions (3.9, R223, R224). Each computes its exact mathematical result far beyond the format's
precision, as a binary number with a last bit that marks a non-zero remainder, and leaves the one rounding to the format: 320
fraction bits are some 250 more than any FP32 argument needs to decide that rounding. -/

namespace Sys2Proof

open Machine (Flags)

/-- Fraction bits of the fixed-point work. -/
def fixBits : Nat := 320

/-- The fixed-point one. -/
def fixOne : Nat := 2 ^ fixBits

/-- The sum of t/(2k+1) + (±t/c)/(2k+3) + …: n terms of the series of the inverse tangent (alternating) or its hyperbolic kin,
with t the first power and c what divides each further one. -/
def oddSeries (alternating : Bool) (c : Nat) (t : Int) (k : Nat) : Nat → Int
  | 0 => 0
  | n + 1 => t / (2 * k + 1 : Nat) + oddSeries alternating c ((if alternating then -t else t) / (c : Int)) (k + 1) n

/-- π by Machin's formula. -/
def fixPi : Int := 16 * oddSeries true 25 ((fixOne / 5 : Nat) : Int) 0 150 - 4 * oddSeries true (239 * 239) ((fixOne / 239 : Nat) : Int) 0 30

/-- ln 2, twice the inverse hyperbolic tangent of 1/3. -/
def fixLn2 : Int := 2 * oddSeries false 9 ((fixOne / 3 : Nat) : Int) 0 110

/-- n further terms of the exponential series after the term t of index k. -/
def expSeries (y t : Int) (k : Nat) : Nat → Int
  | 0 => t
  | n + 1 => t + expSeries y (t * y / (fixOne : Int) / (k + 1 : Nat)) (k + 1) n

/-- n terms of the sine (from t = y, k = 1) or cosine (from t = 1, k = 0) series. -/
def trigSeries (y2 t : Int) (k : Nat) : Nat → Int
  | 0 => t
  | n + 1 => t + trigSeries y2 (-(t * y2 / (fixOne : Int)) / ((k + 1) * (k + 2) : Nat)) (k + 2) n

/-- A fixed-point result that is not exact, as a value. -/
def FVal.ofFix (v : Int) : FVal := .fin (decide (v < 0)) (2 * v.natAbs + 1) (-(fixBits : Int) - 1)

/-- Whether a finite value m × 2^e is below 2^k. -/
def below (m : Nat) (e k : Int) : Bool := decide (e + bitLength m ≤ k)

/-- 2^x, exact or with its remainder marked. -/
def FVal.exp2 : FVal → FVal
  | .nan => .nan
  | .inf neg => if neg then .fin false 0 0 else .inf false
  | .fin neg m e =>
    if m = 0 then .fin false 1 0
    else if below m e (-64) then .fin false (if neg then 2 ^ 64 - 1 else 2 ^ 64 + 1) (-64)
    else if !below m e 12 then (if neg then .fin false 1 (-8192) else .fin false 1 8192)
    else
      let x := scaledInt neg m e (-(fixBits : Int))
      let n := x / (fixOne : Int)
      let f := x % (fixOne : Int)
      if f = 0 then .fin false 1 n
      else .fin false (2 * (expSeries (f * fixLn2 / (fixOne : Int)) (fixOne : Int) 0 90).toNat + 1) (n - fixBits - 1)

/-- log2 of m × 2^e, m not 0. -/
def log2Pos (m : Nat) (e : Int) : FVal :=
  let b := bitLength m - 1
  let p := 2 ^ b
  if m = p then .ofInt (e + b)
  else
    let z : Int := ((m - p) * fixOne / (m + p) : Nat)
    let z2 := z * z / (fixOne : Int)
    let rec terms (t : Int) (k : Nat) : Nat → Int
      | 0 => 0
      | n + 1 => t / (2 * k + 1 : Nat) + terms (t * z2 / (fixOne : Int)) (k + 1) n
    .ofFix ((e + b) * (fixOne : Int) + 2 * terms z 0 110 * (fixOne : Int) / fixLn2)

/-- The integer square root of n, from its bits: `k` bits of the root remain to be found beyond r. -/
def rootBits (n r : Nat) : Nat → Nat
  | 0 => r
  | k + 1 => if (r + 2 ^ k) * (r + 2 ^ k) ≤ n then rootBits n (r + 2 ^ k) k else rootBits n r k

/-- The integer square root. -/
def root (n : Nat) : Nat := rootBits n 0 (bitLength n / 2 + 1)

/-- √(m × 2^e). -/
def sqrtPos (m : Nat) (e : Int) : FVal :=
  let m1 := if e % 2 = 0 then m else 2 * m
  let e1 := if e % 2 = 0 then e else e - 1
  let n := m1 * 2 ^ 128
  let r := root n
  .fin false (2 * r + bit01 (decide (r * r ≠ n))) (e1 / 2 - 65)

/-- 1/√(m × 2^e). -/
def rsqrtPos (m : Nat) (e : Int) : FVal :=
  let m1 := if e % 2 = 0 then m else 2 * m
  let e1 := if e % 2 = 0 then e else e - 1
  let k := bitLength m1 + 64
  let n := 2 ^ (2 * k)
  let r := root (n / m1)
  .fin false (2 * r + bit01 (decide (r * r * m1 ≠ n))) (-(e1 / 2) - k - 1)

/-- (m1 × 2^e1) / (m2 × 2^e2), m2 not 0. -/
def divPos (neg : Bool) (m1 : Nat) (e1 : Int) (m2 : Nat) (e2 : Int) : FVal :=
  let k := bitLength m2 + 64
  let n := m1 * 2 ^ k
  .fin neg (2 * (n / m2) + bit01 (decide (n % m2 ≠ 0))) (e1 - e2 - k - 1)

/-- Sine or cosine of a finite argument below 2^20, reduced by a multiple of π/2 (R94). -/
def trigPos (cosine neg : Bool) (m : Nat) (e : Int) : FVal :=
  if below m e (-64) then (if cosine then .fin false (2 ^ 64 - 1) (-64) else .fin neg (m * 2 ^ 64 - 1) (e - 64))
  else
    let half := fixPi / 2
    let x := scaledInt false m e (-(fixBits : Int))
    let n := (x + half / 2) / half
    let y := x - n * half
    let y2 := y * y / (fixOne : Int)
    let quadrant := (n + (if cosine then 1 else 0)) % 4
    let s := if quadrant % 2 = 0 then trigSeries y2 y 1 90 else trigSeries y2 (fixOne : Int) 0 90
    let s1 := if 2 ≤ quadrant then -s else s
    .ofFix (if neg && !cosine then -s1 else s1)

/-- A special function of one FP32 argument: its value before the rounding, and the flags it raises itself (Table 3.12). -/
def specialValue (f : FVal → FVal × Flags) (code : Nat) : Nat × Flags :=
  let x := fp32.value code
  match x with
  | .nan => (fp32.canonNan, Flags.none)
  | _ =>
    let (v, fl) := f x
    let (c, g) := fp32.round .rne 0 v
    (c, fl.join g)

/-- VEXP2. -/
def exp2Of (x : FVal) : FVal × Flags := (x.exp2, Flags.none)

/-- VLOG2. -/
def log2Of (x : FVal) : FVal × Flags :=
  match x with
  | .fin neg m e => if m = 0 then (.inf true, { dz := true }) else if neg then (.nan, { nv := true }) else (log2Pos m e, Flags.none)
  | .inf neg => if neg then (.nan, { nv := true }) else (.inf false, Flags.none)
  | .nan => (.nan, Flags.none)

/-- VRCP. -/
def rcpOf (x : FVal) : FVal × Flags :=
  match x with
  | .fin neg m e => if m = 0 then (.inf neg, { dz := true }) else (divPos neg 1 0 m e, Flags.none)
  | .inf neg => (.fin neg 0 0, Flags.none)
  | .nan => (.nan, Flags.none)

/-- VRSQ. -/
def rsqOf (x : FVal) : FVal × Flags :=
  match x with
  | .fin neg m e => if m = 0 then (.inf neg, { dz := true }) else if neg then (.nan, { nv := true }) else (rsqrtPos m e, Flags.none)
  | .inf neg => if neg then (.nan, { nv := true }) else (.fin false 0 0, Flags.none)
  | .nan => (.nan, Flags.none)

/-- VSQRT. -/
def sqrtOf (x : FVal) : FVal × Flags :=
  match x with
  | .fin neg m e => if m = 0 then (x, Flags.none) else if neg then (.nan, { nv := true }) else (sqrtPos m e, Flags.none)
  | .inf neg => if neg then (.nan, { nv := true }) else (x, Flags.none)
  | .nan => (.nan, Flags.none)

/-- VSIN and VCOS (R94). -/
def trigOf (cosine : Bool) (x : FVal) : FVal × Flags :=
  match x with
  | .fin neg m e =>
    if m = 0 then (if cosine then .fin false 1 0 else x, Flags.none)
    else if !below m e 20 then (.nan, { rr := true })
    else (trigPos cosine neg m e, Flags.none)
  | .inf _ => (.nan, { nv := true, rr := true })
  | .nan => (.nan, Flags.none)

/-- The exact quotient of VDIV, with its flags (Table 3.12). -/
def FVal.div : FVal → FVal → FVal × Flags
  | .nan, _ => (.nan, Flags.none)
  | _, .nan => (.nan, Flags.none)
  | .inf _, .inf _ => (.nan, { nv := true })
  | .inf a, .fin b _ _ => (.inf (a != b), Flags.none)
  | .fin a _ _, .inf b => (.fin (a != b) 0 0, Flags.none)
  | .fin a m1 e1, .fin b m2 e2 =>
    if m2 = 0 then (if m1 = 0 then (.nan, { nv := true }) else (.inf (a != b), { dz := true }))
    else if m1 = 0 then (.fin (a != b) 0 0, Flags.none)
    else (divPos (a != b) m1 e1 m2 e2, Flags.none)

/-- VDIV of two FP32 codes. -/
def divValue (a b : Nat) : Nat × Flags :=
  let (v, fl) := (fp32.value a).div (fp32.value b)
  let (c, g) := fp32.round .rne 0 v
  (c, fl.join g)

/-- A value rounded to FP64 under RNE. -/
def toFp64 (x : FVal) : FVal := fp64.value (fp64.round .rne 0 x).1

/-- VTANH of an FP32 code by the procedure of R224. -/
def tanhValue (code : Nat) : Nat × Flags :=
  let x := fp32.value code
  let sign := bitOf code 31
  let nx : Flags := { nx := true }
  match x with
  | .nan => (fp32.canonNan, Flags.none)
  | .inf _ => (fp32.code sign 0x3F800000, nx)
  | .fin _ m e =>
    if m = 0 then (code, Flags.none)
    else if !below m e 4 then (fp32.code sign 0x3F800000, nx)
    else if below m e (-12) then (code, nx)
    else
      let y := toFp64 ((FVal.fin false m e).mul (fp64.value 0x40071547652B82FE)).1
      let big := toFp64 y.exp2
      let one := FVal.fin false 1 0
      let r := toFp64 (((big.add false one.negate).1.div (big.add false one).1).1)
      ((fp32.round .rne 0 (if sign then r.negate else r)).1, nx)

end Sys2Proof
end

