-- ==== Sys2Proof/Machine/Vector.lean ====
section
/-! DEFINITION. The vector instructions, opcodes 0x60 to 0x92 (chapter 9): element arithmetic on codes, reductions, movement, cell-store
access, the mask stack, the Colander heap and the generator. Every check is made at issue, and the result enters flight (R212). -/

namespace Sys2Proof

open Machine (Flags)

/-- The lowest n bits of a mask. -/
def Mask.low (n : Nat) (m : Mask) : Mask := m &&& BitVec.ofNat 128 (2 ^ n - 1)

/-- A result code with the flags it raises. -/
abbrev Lane := Nat × Flags

/-- A result that raises no flag. -/
def Lane.plain (c : Nat) : Lane := (c, Flags.none)

/-- A sum of codes rounded once (R217). -/
def floatSum (f : FloatFormat) (r : Rounding) (draw : Nat) (a b : FVal) : Lane :=
  let (v, nv) := FVal.add (decide (r = .rdn)) a b
  let (c, fl) := f.round r draw v
  (c, fl.join { nv := nv })

/-- A product of codes rounded once (R217). -/
def floatProduct (f : FloatFormat) (r : Rounding) (draw : Nat) (a b : FVal) : Lane :=
  let (v, nv) := a.mul b
  let (c, fl) := f.round r draw v
  (c, fl.join { nv := nv })

/-- d + a × b, or d − a × b, rounded once: 0 × ∞ is invalid even where d is NaN (R217). -/
def floatFused (f : FloatFormat) (minus : Bool) (r : Rounding) (draw : Nat) (d a b : FVal) : Lane :=
  let (p, nv1) := a.mul b
  let (v, nv2) := FVal.add (decide (r = .rdn)) d (if minus then p.negate else p)
  let (c, fl) := f.round r draw v
  (c, fl.join { nv := nv1 || nv2 })

/-- An exact integer brought into an integer format: modulo 2^w, or clamped with SAT (R217). -/
def intResult (f : IntFormat) (sat : Bool) (x : Int) : Lane :=
  let lo : Int := if f.signed then -(2 ^ (f.width - 1)) else 0
  let hi : Int := if f.signed then 2 ^ (f.width - 1) - 1 else 2 ^ f.width - 1
  if !sat then (wrap f.width x, Flags.none)
  else if x < lo then (wrap f.width lo, { sat := true })
  else if hi < x then (wrap f.width hi, { sat := true })
  else (wrap f.width x, Flags.none)

/-- Whether value a stands below value b, with −0 below +0 (R96). -/
def FVal.below (a b : FVal) : Bool :=
  match a.compare b with
  | .lt => true
  | .eq => a.neg && !b.neg
  | .gt => false

/-- VMIN and VMAX on two codes (R96). -/
def minMax (ty : ElemType) (isMax : Bool) (a b : Nat) : Nat :=
  match ty.format.kind with
  | .float f =>
    let x := f.value a
    let y := f.value b
    if x.isNan then (if y.isNan then f.canonNan else b)
    else if y.isNan then a
    else if x.below y != isMax then a else b
  | .int f => if decide (f.value a < f.value b) != isMax then a else b
  | .a4 => a

/-- VADD, VSUB and VMUL. -/
inductive Arith where
  | add
  | sub
  | mul
  deriving DecidableEq, Repr

/-- VADD, VSUB or VMUL on two codes (Table 9.3). -/
def arithLane (op : Arith) (ty : ElemType) (mode : ArithMode) (draw a b : Nat) : Lane :=
  match ty.format.kind, mode with
  | .float f, .round r =>
    let x := f.value a
    let y := f.value b
    match op with
    | .add => floatSum f r draw x y
    | .sub => floatSum f r draw x y.negate
    | .mul => floatProduct f r draw x y
  | .int f, m =>
    let x := f.value a
    let y := f.value b
    intResult f (decide (m = .sat)) (match op with
      | .add => x + y
      | .sub => x - y
      | .mul => x * y)
  | _, _ => Lane.plain 0

/-- VABS and VNEG on a code (R218). -/
def signLane (ty : ElemType) (isAbs : Bool) (a : Nat) : Nat :=
  match ty.format.kind with
  | .float f =>
    if (f.value a).isNan then f.canonNan
    else if isAbs then a % 2 ^ (f.exp + f.frac)
    else Nat.xor a (2 ^ (f.exp + f.frac))
  | .int f => wrap f.width (if isAbs then ((f.value a).natAbs : Int) else -(f.value a))
  | .a4 => a

/-- A condition of VCMP on two codes (Table 5.3). -/
def vcondHolds (ty : ElemType) (c : VCond) (a b : Nat) : Bool :=
  let x := ty.format.value 0 a
  let y := ty.format.value 0 b
  if x.isNan || y.isNan then decide (c = .ne ∨ c = .un)
  else
    let o := x.compare y
    match c with
    | .eq => o == .eq
    | .ne => o != .eq
    | .lt => o == .lt
    | .le => o != .gt
    | .gt => o == .gt
    | .ge => o != .lt
    | .un => false

/-- VSHL, VSHR and VSAR. -/
inductive ShiftOp where
  | left
  | right
  | arith
  deriving DecidableEq, Repr

/-- A shift of a w-bit element (R220). -/
def shiftLane (op : ShiftOp) (w a k : Nat) : Nat :=
  match op with
  | .left => if k < w then a * 2 ^ k % 2 ^ w else 0
  | .right => if k < w then a / 2 ^ k else 0
  | .arith => wrap w (signed w a / 2 ^ (min k (w - 1)))

/-- The source format of VCVT (R222). -/
def CvtSource.format (ty : ElemType) : CvtSource → Format
  | .asType => ty.format
  | .e5m2 => .e5m2
  | .e4m3 => .e4m3

/-- The identity of a reduction (R97). -/
def redIdentity (ty : ElemType) (op : RedOp) : Nat :=
  match ty.format.kind, op with
  | .float f, .sum => f.code true 0
  | .float f, .min => f.code false f.infMag
  | .float f, .max => f.code true f.infMag
  | .int _, .sum => 0
  | .int f, .min => if f.signed then 2 ^ (f.width - 1) - 1 else 2 ^ f.width - 1
  | .int f, .max => if f.signed then 2 ^ (f.width - 1) else 0
  | .a4, _ => 0

/-- One step of a reduction (R97). -/
def redStep (ty : ElemType) (op : RedOp) (r : Rounding) (a b : Lane) : Lane :=
  let (c, fl) := match op with
    | .sum => arithLane .add ty (match ty.format.kind with
        | .float _ => .round r
        | _ => .wrap) 0 a.1 b.1
    | .min => Lane.plain (minMax ty false a.1 b.1)
    | .max => Lane.plain (minMax ty true a.1 b.1)
  (c, (a.2.join b.2).join fl)

/-- The neighbours of a list combined in pairs. -/
def pairUp (f : Lane → Lane → Lane) : List Lane → List Lane
  | a :: b :: t => f a b :: pairUp f t
  | l => l

/-- The pairwise tree of R97 over 2^k elements. -/
def redTree (f : Lane → Lane → Lane) (es : List Lane) : Nat → Lane
  | 0 => es.headD (Lane.plain 0)
  | k + 1 => redTree f (pairUp f es) k

/-- The prefix pattern of R98 over 2^k elements, from distance d. An element to which the pattern applies no operation keeps its bits as they
are (log entry 99). -/
def scanSteps (f : Lane → Lane → Lane) (es : List Lane) (d : Nat) : Nat → List Lane
  | 0 => es
  | k + 1 => scanSteps f (es.take d ++ List.zipWith f es (es.drop d)) (2 * d) k

/-- An element extended to a word as VRED places it (R225). -/
def placed (ty : ElemType) (c : Nat) : Word :=
  match ty.format.kind with
  | .int f => extend f.width f.signed c
  | _ => BitVec.ofNat 64 c

/-- Whether pair p wins over pair q under max-with-index (R99); values as codes of a format, NaN counting as −∞. -/
def pairWins (f : Format) (p q : Nat × Nat) : Bool :=
  let v (c : Nat) : FVal := match f.value 0 c with
    | .nan => .inf true
    | x => x
  match (v p.1).compare (v q.1) with
  | .gt => true
  | .eq => decide (p.2 < q.2)
  | .lt => false

/-- The winning pair of a list (R99), the first of equals. -/
def winner (f : Format) : List (Nat × Nat) → Option (Nat × Nat)
  | [] => none
  | p :: t =>
    match winner f t with
    | none => some p
    | some q => some (if pairWins f q p then q else p)

/-- Insert a candidate into a heap held greatest first: after every entry that is not below it (R232). -/
def heapInsert (p : BitVec 32 × BitVec 32) : List (BitVec 32 × BitVec 32) → List (BitVec 32 × BitVec 32)
  | [] => [p]
  | q :: t => if pairWins .fp32 (p.1.toNat, p.2.toNat) (q.1.toNat, q.2.toNat) then p :: q :: t else q :: heapInsert p t

end Sys2Proof

namespace Sys2Proof.Machine

/-- The rows of a tile among registers whose poison bit is set. -/
def Tile.poisonedIn (t : Tile) (rows : Nat) : Bool := (t.poison &&& BitVec.ofNat 32 rows) != 0

/-- What an issuing V instruction checks of the v registers it reads and of those it writes, and the tiles it takes: ACCFIRST (R331),
MME ACC (R296), POISON (R239). A destination that no element may write still counts as named. -/
def State.vRows (s : State) (reads dests : List Nat) (written : Bool) : Except TrapInfo State :=
  let u := s.cur.slot
  if isPantry u.cell then .ok s
  else
    let named := reads ++ dests
    match s.ownTiles u ([0, 1].filter (fun t => named.any (fun n => decide (n / 32 = t)))) with
    | .error t => .error (trapAt causeAccfirst 0 t)
    | .ok s1 =>
      match s1.accRaceV u (rowSet (if written then reads else named)) (if written then rowSet dests else 0) with
      | some t => .error t
      | none =>
        match [0, 1].find? (fun t => ((s1.cell u.cell).tile t).poisonedIn (rowsIn t (rowSet reads))) with
        | some t => .error (poisonTrap t ((s1.cell u.cell).tile t).poison)
        | none => .ok s1

/-- A vector result enters flight after the checks of its registers and, for an access, of its footprint (R295). -/
def vecLand (reads dests : List Nat) (e : VEntry) (latency : Nat) (s : State) : Eff :=
  let written := decide (e.mask ≠ 0)
  match s.vRows reads dests written with
  | .error t => .trap t
  | .ok s1 =>
    match s1.cellRace s1.cur e.spans with
    | some t => .trap t
    | none => .land s1 { e with reads := rowSet (if written then reads else reads ++ dests) } latency

/-- Elements i < n of a row by a function, where a mask allows them, and the flags these raise. -/
def lanes (n w : Nat) (mask : Mask) (f : Nat → Lane) : Row × Flags :=
  let rs := (List.range n).map (fun i => if mask.getLsbD i then f i else Lane.plain 0)
  (Row.ofElems w (rs.map (·.1)), Flags.joinAll (rs.map (·.2)))

/-- A vector instruction of width w that writes elements of v[d], each by a function of the state at issue. -/
def runLanes (h : Hdr) (w d : Nat) (reads : List Nat) (latency : Nat) (sto : Bool) (f : State → Nat → Lane) (s : State) :
    Host.Outcome State Fault Refusal :=
  runVector h (fun s =>
    let mask := (s.allowed h).low (1024 / w)
    let (row, fl) := lanes (1024 / w) w mask (f s)
    vecLand reads [d] { VEntry.bare with kind := .vreg, dest := d, data := row, width := w / 8, mask := mask, flags := fl.bits,
                                         stoinc := sto } latency s) s

/-- The generator word that an element's rounding draws, from g14 and g15 as they are at issue (R237). -/
def State.draw (s : State) (r : Rounding) (i : Nat) : Nat := stoDraw r (s.rg 14) (s.rg 15) i

/-- The rounding of an arithmetic mode. -/
def roundingOf : ArithMode → Rounding
  | .round r => r
  | _ => .rne

/-- Latency of arithmetic by type (Table 9.2); `small` is that of integers. -/
def arithLatency (ty : ElemType) (small : Nat) : Nat :=
  match ty.format.kind with
  | .float _ => if ty = .f64 then 6 else 4
  | _ => small

/-- VADD, VSUB and VMUL (R217). -/
def runArith (op : Arith) (small : Nat) (h : Hdr) (d a b : Nat) (ty : ElemType) (mode : ArithMode) (s : State) :
    Host.Outcome State Fault Refusal :=
  let w := ty.width
  runLanes h w d [a, b] (arithLatency ty small) (decide (roundingOf mode = .sto))
    (fun s i => arithLane op ty mode (s.draw (roundingOf mode) i) ((s.rv a).elem w i) ((s.rv b).elem w i)) s

def execVadd (h : Hdr) (d a b : Nat) (ty : ElemType) (mode : ArithMode) (s : State) := runArith .add 2 h d a b ty mode s
def execVsub (h : Hdr) (d a b : Nat) (ty : ElemType) (mode : ArithMode) (s : State) := runArith .sub 2 h d a b ty mode s
def execVmul (h : Hdr) (d a b : Nat) (ty : ElemType) (mode : ArithMode) (s : State) := runArith .mul 3 h d a b ty mode s

/-- VFMA and VFMS (R217): d is a source too (R209). -/
def runFused (minus : Bool) (h : Hdr) (d a b : Nat) (ty : ElemType) (r : Rounding) (s : State) : Host.Outcome State Fault Refusal :=
  let w := ty.width
  runLanes h w d [d, a, b] (arithLatency ty 4) (decide (r = .sto)) (fun s i =>
    match ty.format.kind with
    | .float f => floatFused f minus r (s.draw r i) (f.value ((s.rv d).elem w i)) (f.value ((s.rv a).elem w i)) (f.value ((s.rv b).elem w i))
    | _ => Lane.plain 0) s

def execVfma (h : Hdr) (d a b : Nat) (ty : ElemType) (r : Rounding) (s : State) := runFused false h d a b ty r s
def execVfms (h : Hdr) (d a b : Nat) (ty : ElemType) (r : Rounding) (s : State) := runFused true h d a b ty r s

/-- An element operation on two codes that raises no flag. -/
def runPlain2 (latency : Nat) (f : Nat → Nat → Nat) (h : Hdr) (d a b : Nat) (ty : ElemType) (s : State) :
    Host.Outcome State Fault Refusal :=
  let w := ty.width
  runLanes h w d [a, b] latency false (fun s i => Lane.plain (f ((s.rv a).elem w i) ((s.rv b).elem w i))) s

/-- An element operation on one code that raises no flag. -/
def runPlain1 (latency : Nat) (f : Nat → Nat) (h : Hdr) (d a : Nat) (ty : ElemType) (s : State) : Host.Outcome State Fault Refusal :=
  let w := ty.width
  runLanes h w d [a] latency false (fun s i => Lane.plain (f ((s.rv a).elem w i))) s

/-- R218 -/
def execVmin (h : Hdr) (d a b : Nat) (ty : ElemType) (s : State) := runPlain2 2 (minMax ty false) h d a b ty s
def execVmax (h : Hdr) (d a b : Nat) (ty : ElemType) (s : State) := runPlain2 2 (minMax ty true) h d a b ty s
def execVabs (h : Hdr) (d a : Nat) (ty : ElemType) (s : State) := runPlain1 2 (signLane ty true) h d a ty s
def execVneg (h : Hdr) (d a : Nat) (ty : ElemType) (s : State) := runPlain1 2 (signLane ty false) h d a ty s

/-- A mask over all 128 bits from a condition per element: bits at and above n are 0 (R213). -/
def maskWhere (n : Nat) (p : Nat → Bool) : Mask := Mask.ofBits ((List.range n).map p)

/-- A result for q[d]: bit i for each allowed element, and 0 at and above n whatever the guard (R213). -/
def qEntry (n d : Nat) (allowed : Mask) (v : Mask) : VEntry :=
  { VEntry.bare with kind := .qreg, dest := d, data := BitVec.ofNat 1024 v.toNat, mask := allowed.low n ||| ~~~ (Mask.low n Mask.full) }

/-- A result for g[d]. -/
def gEntry (d : Nat) (v : Word) (fl : Flags) : VEntry :=
  { VEntry.bare with kind := .greg, dest := d, data := BitVec.ofNat 1024 v.toNat, flags := fl.bits }

/-- VCMP (R219). -/
def execVcmp (h : Hdr) (d a b : Nat) (ty : ElemType) (cond : VCond) (s : State) :=
  let w := ty.width
  runVector h (fun s =>
    vecLand [a, b] [] (qEntry (1024 / w) d (s.allowed h)
      (maskWhere (1024 / w) (fun i => vcondHolds ty cond ((s.rv a).elem w i) ((s.rv b).elem w i)))) 2 s) s

/-- VSEL (R219); R209 counts d among its sources. -/
def execVsel (h : Hdr) (d a b c : Nat) (ty : ElemType) (s : State) :=
  let w := ty.width
  runLanes h w d [d, a, b] 2 false (fun s i =>
    Lane.plain (if (s.rvq c).getLsbD i then (s.rv a).elem w i else (s.rv b).elem w i)) s

/-- R220 -/
def execVand (h : Hdr) (d a b : Nat) (ty : ElemType) (s : State) := runPlain2 2 Nat.land h d a b ty s
def execVor (h : Hdr) (d a b : Nat) (ty : ElemType) (s : State) := runPlain2 2 Nat.lor h d a b ty s
def execVxor (h : Hdr) (d a b : Nat) (ty : ElemType) (s : State) := runPlain2 2 Nat.xor h d a b ty s
def execVnot (h : Hdr) (d a : Nat) (ty : ElemType) (s : State) := runPlain1 2 (fun x => 2 ^ ty.width - 1 - x) h d a ty s
def execVshl (h : Hdr) (d a b : Nat) (ty : ElemType) (s : State) := runPlain2 2 (shiftLane .left ty.width) h d a b ty s
def execVshr (h : Hdr) (d a b : Nat) (ty : ElemType) (s : State) := runPlain2 2 (shiftLane .right ty.width) h d a b ty s
def execVsar (h : Hdr) (d a b : Nat) (ty : ElemType) (s : State) := runPlain2 2 (shiftLane .arith ty.width) h d a b ty s

/-- VMOVM (R221): MOD 0 makes a predicate of elements, MOD 1 (`exp`) elements of a predicate. -/
def execVmovm (h : Hdr) (d a : Nat) (ty : ElemType) (exp : Bool) (s : State) :=
  let w := ty.width
  if exp then
    runLanes h w d [] 2 false (fun s i => Lane.plain (if (s.rvq a).getLsbD i then 2 ^ w - 1 else 0)) s
  else
    runVector h (fun s =>
      vecLand [a] [] (qEntry (1024 / w) d (s.allowed h) (maskWhere (1024 / w) (fun i => decide ((s.rv a).elem w i ≠ 0)))) 2 s) s

/-- VPOPC (R221). -/
def execVpopc (h : Hdr) (d a : Nat) (ty : ElemType) (s : State) :=
  runVector h (fun s =>
    let n := 1024 / ty.width
    vecLand [] [] (gEntry d (BitVec.ofNat 64 (countOnes n ((s.allowed h &&& s.rvq a)).toNat)) Flags.none) 3 s) s

/-- VCVT (R222): elements at and above n are written 0 when any element is allowed. -/
def execVcvt (h : Hdr) (d a : Nat) (ty : ElemType) (src : CvtSource) (target : Format) (r : Rounding) (s : State) :=
  let from_ := src.format ty
  let ws := from_.width
  let wt := target.width
  let n := 1024 / max ws wt
  runVector h (fun s =>
    let mask := (s.allowed h).low n
    let (row, fl) := lanes n wt mask (fun i => target.round r (s.draw r i) (from_.value 0 ((s.rv a).elem ws i)))
    let wide := if mask = 0 then 0 else mask ||| (Mask.low (1024 / wt) Mask.full &&& ~~~ (Mask.low n Mask.full))
    vecLand [a] [d] { VEntry.bare with kind := .vreg, dest := d, data := row, width := wt / 8, mask := wide, flags := fl.bits,
                                       stoinc := decide (r = .sto) } 3 s) s

/-- A special function (R223). -/
def runSpecial (latency : Nat) (f : Nat → Lane) (h : Hdr) (d a : Nat) (s : State) : Host.Outcome State Fault Refusal :=
  runLanes h 32 d [a] latency false (fun s i => f ((s.rv a).elem 32 i)) s

def execVrcp (h : Hdr) (d a : Nat) (s : State) := runSpecial 8 (specialValue rcpOf) h d a s
def execVrsq (h : Hdr) (d a : Nat) (s : State) := runSpecial 8 (specialValue rsqOf) h d a s
def execVsqrt (h : Hdr) (d a : Nat) (s : State) := runSpecial 12 (specialValue sqrtOf) h d a s
def execVexp2 (h : Hdr) (d a : Nat) (s : State) := runSpecial 10 (specialValue exp2Of) h d a s
def execVlog2 (h : Hdr) (d a : Nat) (s : State) := runSpecial 10 (specialValue log2Of) h d a s
def execVsin (h : Hdr) (d a : Nat) (s : State) := runSpecial 14 (specialValue (trigOf false)) h d a s
def execVcos (h : Hdr) (d a : Nat) (s : State) := runSpecial 14 (specialValue (trigOf true)) h d a s

/-- VDIV (R223). -/
def execVdiv (h : Hdr) (d a b : Nat) (s : State) :=
  runLanes h 32 d [a, b] 12 false (fun s i => divValue ((s.rv a).elem 32 i) ((s.rv b).elem 32 i)) s

/-- VTANH (R224). -/
def execVtanh (h : Hdr) (d a : Nat) (s : State) := runSpecial 12 tanhValue h d a s

/-- Elements as they enter a reduction: the identity where not allowed (R97, R98). -/
def State.entering (s : State) (h : Hdr) (a : Nat) (ty : ElemType) (op : RedOp) : List Lane :=
  let w := ty.width
  (List.range (1024 / w)).map (fun i => Lane.plain (if (s.allowed h).getLsbD i then (s.rv a).elem w i else redIdentity ty op))

/-- VRED (R225). -/
def execVred (h : Hdr) (d a : Nat) (ty : ElemType) (op : RedOp) (r : Rounding) (s : State) :=
  runVector h (fun s =>
    let x := redTree (redStep ty op r) (s.entering h a ty op) (Nat.log2 (1024 / ty.width))
    vecLand [a] [] (gEntry d (placed ty x.1) x.2) 6 s) s

/-- VSCAN (R225). -/
def execVscan (h : Hdr) (d a : Nat) (ty : ElemType) (op : RedOp) (r : Rounding) (s : State) :=
  let w := ty.width
  runVector h (fun s =>
    let mask := (s.allowed h).low (1024 / w)
    let out := scanSteps (redStep ty op r) (s.entering h a ty op) 1 (Nat.log2 (1024 / w))
    let (row, fl) := lanes (1024 / w) w mask (fun i => out.getD i (Lane.plain 0))
    vecLand [a] [d] { VEntry.bare with kind := .vreg, dest := d, data := row, width := w / 8, mask := mask, flags := fl.bits } 6 s) s

/-- The result of VMAXI: value bits low, index high (R226). -/
def maxiResult (ty : ElemType) (base : Nat) (cands : List (Nat × Nat)) : Word × Flags :=
  let isNan (c : Nat) : Bool := (ty.format.value 0 c).isNan
  match winner ty.format cands with
  | none => (BitVec.ofNat 64 (0xFFFFFFFF * 2 ^ 32 + (if ty = .i32 then 0x80000000 else fp32.canonNan)), { an := true })
  | some (v, i) =>
    if cands.all (fun c => isNan c.1) then (BitVec.ofNat 64 (0xFFFFFFFF * 2 ^ 32 + fp32.canonNan), { an := true })
    else (BitVec.ofNat 64 ((base + i) % 2 ^ 32 * 2 ^ 32 + (if isNan v then fp32.canonNan else v)), Flags.none)

/-- VMAXI (R226). -/
def execVmaxi (h : Hdr) (d a b : Nat) (ty : ElemType) (s : State) :=
  runVector h (fun s =>
    let cands := ((List.range 32).filter (fun i => (s.allowed h).getLsbD i)).map (fun i => ((s.rv a).elem 32 i, i))
    let (v, fl) := maxiResult ty (s.rg b).toNat cands
    vecLand [a] [] (gEntry d v fl) 6 s) s

/-- Element movement (Table 9.5). -/
def execVperm (h : Hdr) (d a b : Nat) (ty : ElemType) (s : State) :=
  let w := ty.width
  runLanes h w d [a, b] 3 false (fun s i => Lane.plain ((s.rv a).elem w ((s.rv b).elem w i % (1024 / w)))) s

def execVrot (h : Hdr) (d a b : Nat) (ty : ElemType) (s : State) :=
  let w := ty.width
  runLanes h w d [a] 3 false (fun s i => Lane.plain ((s.rv a).elem w ((i + (s.rg b).toNat) % (1024 / w)))) s

def execVbcast (h : Hdr) (d a : Nat) (ty : ElemType) (s : State) :=
  let w := ty.width
  runLanes h w d [] 2 false (fun s _ => Lane.plain ((s.rg a).toNat % 2 ^ w)) s

/-- VINS: d is a source too (R209), and only element g[b] is written. -/
def execVins (h : Hdr) (d a b : Nat) (ty : ElemType) (s : State) :=
  let w := ty.width
  runVector h (fun s =>
    let k := (s.rg b).toNat
    let mask := if k < 1024 / w then s.allowed h &&& BitVec.ofNat 128 (2 ^ k) else 0
    vecLand [d] [d] { VEntry.bare with kind := .vreg, dest := d, width := w / 8, mask := mask,
                                       data := if k < 1024 / w then BitVec.ofNat 1024 ((s.rg a).toNat % 2 ^ w * 2 ^ (w * k)) else 0 } 2 s) s

/-- VEXT writes g[d] only when the element it reads is allowed (R213). -/
def execVext (h : Hdr) (d a b : Nat) (ty : ElemType) (s : State) :=
  let w := ty.width
  runVector h (fun s =>
    let k := (s.rg b).toNat
    vecLand [a] [] (if k < 1024 / w ∧ (s.allowed h).getLsbD k then gEntry d (placed ty ((s.rv a).elem w k)) Flags.none
                    else VEntry.bare) 3 s) s

def execViota (h : Hdr) (d : Nat) (ty : ElemType) (s : State) :=
  let w := ty.width
  runLanes h w d [] 2 false (fun _ i => Lane.plain (i % 2 ^ w)) s

/-! ### Cell-store access (R228) -/

/-- The two checks of R228 over the allowed elements. -/
def State.vAddresses (s : State) (e : VEntry) : Option TrapInfo :=
  let b := s.binding s.cur.slot
  let addrs := ((List.range (128 / e.width)).filter (fun i => e.mask.getLsbD i)).map (fun i => e.addr + BitVec.ofNat 64 i * e.stride)
  match addrs.find? (fun a => !s.spaceOk s.cur b a e.width), addrs.find? (fun a => decide (offset a % e.width ≠ 0)) with
  | some a, _ => some { cause := causeSpace, sub := 0, tval := a }
  | none, some a => some { cause := causeAlign, sub := 0, tval := a }
  | none, none => none

/-- A V access to the own cell store: `store` or a load, elements from an address by a stride. -/
def runCellAccess (store : Bool) (latency : Nat) (h : Hdr) (d : Nat) (ty : ElemType) (addr stride : State → Word) (s : State) :
    Host.Outcome State Fault Refusal :=
  let w := ty.width
  runVector h (fun s =>
    let e : VEntry := { VEntry.bare with kind := if store then .store else .load, dest := d, data := if store then s.rv d else 0,
                                         width := w / 8, mask := (s.allowed h).low (1024 / w), addr := addr s, stride := stride s }
    match s.vAddresses e with
    | some t => .trap t
    | none => if store then vecLand [d] [] e latency s else vecLand [] [d] e latency s) s

def execVld (h : Hdr) (d a b : Nat) (ty : ElemType) (disp : Int) (s : State) :=
  runCellAccess false 5 h d ty (fun s => s.memAddr a b disp) (fun _ => BitVec.ofNat 64 (ty.width / 8)) s
def execVst (h : Hdr) (d a b : Nat) (ty : ElemType) (disp : Int) (s : State) :=
  runCellAccess true 3 h d ty (fun s => s.memAddr a b disp) (fun _ => BitVec.ofNat 64 (ty.width / 8)) s
def execVlds (h : Hdr) (d a b : Nat) (ty : ElemType) (s : State) := runCellAccess false 6 h d ty (fun s => s.rg a) (fun s => s.rg b) s
def execVsts (h : Hdr) (d a b : Nat) (ty : ElemType) (s : State) := runCellAccess true 3 h d ty (fun s => s.rg a) (fun s => s.rg b) s

/-! ### Mask stack (R230, R231) -/

/-- Bit 0 of the guard register, after SENSE (R214). -/
def State.guardBit (s : State) (h : Hdr) : Bool := (s.here.v.vqReg h.guard).getLsbD 0 != h.sense

/-- An instruction without elements, under bit 0 of its guard (R214). -/
def runUniform (h : Hdr) (body : State → Eff) (s : State) : Host.Outcome State Fault Refusal :=
  runVector h (fun s => if s.guardBit h then body s else .done s) s

/-- MSTACK with TVAL MDEPTH (R230). -/
def maskStackTrap (l : Slot) : Eff := .trap (trapAt causeIllop 5 l.mstack.length)

def execMpush (h : Hdr) (a : Nat) (s : State) :=
  runUniform h (fun s =>
    if 16 ≤ s.here.mstack.length then maskStackTrap s.here
    else .done (s.withHere (fun l => { l with mstack := (l.maskTop &&& l.v.vqReg a) :: l.mstack }))) s

def execMinv (h : Hdr) (s : State) :=
  runUniform h (fun s =>
    match s.here.mstack with
    | [] => maskStackTrap s.here
    | top :: rest => .done (s.withHere (fun l => { l with mstack := (rest.headD Mask.full &&& ~~~ top) :: rest }))) s

def execMpop (h : Hdr) (s : State) :=
  runUniform h (fun s =>
    match s.here.mstack with
    | [] => maskStackTrap s.here
    | _ :: rest => .done (s.withHere (fun l => { l with mstack := rest }))) s

/-- VBRZ (R231). -/
def execVbrz (h : Hdr) (a : Nat) (tgt : Target) (s : State) :=
  runUniform h (fun s => if s.rvq a &&& s.here.maskTop = 0 then branchTo s tgt else .done s) s

/-! ### The Colander heap (R232 to R235) -/

/-- Insert candidates in order: the 256 greatest stay, and HLOSS records that one was discarded (R233). -/
def Slot.gather (l : Slot) : List (BitVec 32 × BitVec 32) → Slot
  | [] => l
  | p :: t =>
    let full := decide (256 ≤ l.heap.length)
    ({ l with heap := (heapInsert p l.heap).take 256, hloss := l.hloss || full } : Slot).gather t

/-- VHEAP (R233). -/
def execVheap (h : Hdr) (a b : Nat) (s : State) :=
  runVector h (fun s =>
    let cands := ((List.range 32).filter (fun i => (s.allowed h).getLsbD i && !(fp32.value ((s.rv a).elem 32 i)).isNan)).map (fun i =>
      (BitVec.ofNat 32 ((s.rv a).elem 32 i), BitVec.ofNat 32 ((s.rg b).toNat + i)))
    match vecLand [a] [] VEntry.bare 4 s with
    | .land s1 e lat => .land (s1.withHere (fun l => l.gather cands)) e lat
    | r => r) s

/-- VHEAPR (R234). -/
def execVheapr (h : Hdr) (d a : Nat) (s : State) :=
  runVector h (fun s =>
    let l := s.here
    if l.heap.isEmpty && l.hloss then .trap (trapAt causeHeapovf 0 l.hpopped)
    else
      let k := if s.guardBit h then min 32 l.heap.length else 0
      let out := l.heap.take k
      let row (f : BitVec 32 × BitVec 32 → Nat) (pad : Nat) : Row :=
        Row.ofElems 32 (out.map f ++ List.replicate (32 - k) pad)
      let e : VEntry := { VEntry.bare with kind := .heapPair, dest := d, dest2 := a, mask := (s.allowed h).low 32,
                                           data := row (fun p => p.1.toNat) 0xFF800000, data2 := row (fun p => p.2.toNat) 0xFFFFFFFF }
      match vecLand [] [d, a] e 4 s with
      | .land s1 e lat => .land (s1.withHere (fun l => { l with heap := l.heap.drop k, hpopped := l.hpopped + k })) e lat
      | r => r) s

/-- VHEAPC (R235). -/
def execVheapc (h : Hdr) (s : State) :=
  runUniform h (fun s => .done (s.withHere (fun l => { l with heap := [], hloss := false, hpopped := 0 }))) s

/-! ### The generator (R236) -/

/-- The raw word of element i. -/
def State.rngWord (s : State) (a b i : Nat) : Nat := (philox (s.rg a) (i / 4) (s.rg b)).word (i % 4)

/-- VRNG fn 0: uniforms (R102). -/
def execVrngF32 (h : Hdr) (d a b : Nat) (s : State) :=
  runLanes h 32 d [] 6 false (fun s i =>
    Lane.plain (fp32.round .rne 0 (.fin false (2 * (s.rngWord a b i / 2 ^ 9) + 1) (-24))).1) s

/-- VRNG fn 5: raw words. -/
def execVrngU32 (h : Hdr) (d a b : Nat) (s : State) := runLanes h 32 d [] 6 false (fun s i => Lane.plain (s.rngWord a b i)) s

end Sys2Proof.Machine
end

