-- ==== Sys2Proof/Machine/Matrix.lean ====
section
/-! DEFINITION. The matrix stream, opcodes 0xA0 to 0xA7 (10.1 to 10.3): the dot products of 3.5, the updates of a tile instruction one by
one (R242), its resumption from MPROG, and its retirement. -/

namespace Sys2Proof

/-! ### Dot products (3.5) -/

/-- Classes of a format pair (Tables 3.8, 10.3). -/
inductive DotClass where
  | group (n : Nat)
  | exactFloat
  | exactInt
  deriving DecidableEq, Repr

/-- Products of a step. -/
def DotClass.unit : DotClass → Nat
  | .group n => n
  | _ => 32

/-- The narrow float formats of Table 10.3. -/
def isNarrow (f : Format) : Bool := [Format.e5m2, .e4m3, .e3m2, .e2m3, .e2m1].contains f

/-- The byte and 4-bit integer formats. -/
def isSmallInt (f : Format) : Bool := [Format.int8, .uint8, .int4, .uint4].contains f

/-- BF16 and FP16. -/
def isHalf (f : Format) : Bool := [Format.bf16, .fp16].contains f

/-- INT8 and UINT8. -/
def isByte (f : Format) : Bool := [Format.int8, .uint8].contains f

/-- The class of a format pair; none for a pair outside Table 10.3. -/
def dotClass (scaled : Bool) (a b : Format) : Option DotClass :=
  if scaled then (if a.scalable && b.scalable then some .exactFloat else none)
  else if a = .fp32 ∧ b = .fp32 then some (.group 2)
  else if (isHalf a && (isHalf b || isNarrow b)) || (isNarrow a && isHalf b) then some (.group 8)
  else if (decide (a = .int16) && (decide (b = .int16) || isByte b)) || (isByte a && decide (b = .int16)) then some .exactInt
  else if isSmallInt a && isSmallInt b then some .exactInt
  else if (isNarrow a && (isNarrow b || isSmallInt b)) || (isSmallInt a && isNarrow b) then some .exactFloat
  else none

/-- The exact sum of products, with the special values of R78. -/
def dotSum (ps : List FVal) : FVal := ps.foldl (fun acc p => (FVal.add false acc p).1) (.fin false 0 0)

/-- floor(log2 |p|) of a finite value that is not zero. -/
def FVal.exponent : FVal → Option Int
  | .fin _ m e => if m = 0 then none else some (e + bitLength m - 1)
  | _ => none

/-- A value truncated toward zero at weight 2^lsb. -/
def FVal.truncated (lsb : Int) : FVal → FVal
  | .fin neg m e => if e < lsb then .fin neg (m / 2 ^ (lsb - e).toNat) lsb else .fin neg m e
  | v => v

/-- The greatest exponent among products that are finite and not zero. -/
def maxExponent : List FVal → Option Int
  | [] => none
  | p :: t =>
    match p.exponent, maxExponent t with
    | none, r => r
    | some e, none => some e
    | some e, some f => some (max e f)

/-- The value of a group: each product truncated at 32 bits below the greatest (R80). -/
def groupSum (ps : List FVal) : FVal :=
  match maxExponent ps with
  | none => dotSum ps
  | some e => dotSum (ps.map (FVal.truncated (e - 32)))

/-- An FP32 accumulator element with a step's value added; zero leaves it bit for bit (R79 to R81). -/
def accumulate (acc : Nat) (v : FVal) : Nat :=
  if v.isZero then acc else (fp32.round .rne 0 (FVal.add false (fp32.value acc) v).1).1

/-- An INT32 accumulator element with a block sum added and clamped (R82); the second part is ISAT. -/
def accumulateInt (acc : Nat) (v : Int) : Nat × Bool :=
  let t := signed 32 acc + v
  let u := max (-(2 ^ 31)) (min t (2 ^ 31 - 1))
  (wrap 32 u, decide (u ≠ t))

/-- The integer that an exact value is. -/
def FVal.toInt : FVal → Int
  | .fin neg m e => scaledInt neg m e 0
  | _ => 0

/-- The elements and scale of one block or group of an operand, and whether a byte of them carried an uncorrectable error. -/
structure DotOperand where
  vals : List FVal
  scale : FVal
  upset : Bool
  deriving DecidableEq, Repr

/-- The new accumulator element of one step, and ISAT (R245). -/
def dotStep (cls : DotClass) (acc : Nat) (a b : DotOperand) : Nat × Bool :=
  let ps := List.zipWith (fun x y => (x.mul y).1) a.vals b.vals
  match cls with
  | .exactInt => accumulateInt acc (dotSum ps).toInt
  | .exactFloat => (accumulate acc ((((dotSum ps).mul a.scale).1.mul b.scale).1), false)
  | .group _ => (accumulate acc (groupSum ps), false)

end Sys2Proof

namespace Sys2Proof.Machine

open Sys2Proof

/-! ### MPROG (Table 10.2) -/

/-- The OP code and TILE of a tile instruction in MPROG; none for MZERO, which writes no position. -/
def progOp : Instr → Option (Nat × Nat)
  | .mma _ d _ _ => some (0, d)
  | .mmas _ d _ _ => some (1, d)
  | .mlda _ d _ => some (2, d)
  | .msta _ _ a => some (3, a)
  | .mcvt _ d _ _ _ _ => some (4, d)
  | .mbias _ d _ => some (5, d)
  | _ => none

/-- MPROG with a position, its flags kept. -/
def progAt (w : Word) (op tile step row : Nat) : Word :=
  BitVec.ofNat 64 (2 ^ 63 + tile * 2 ^ 62 + op * 2 ^ 59 + row * 2 ^ 54 + step % 2 ^ 30 * 2 ^ 24 + w.field 0 8)

/-- Whether MPROG holds a position of an instruction (R242). -/
def progMatches (w : Word) (i : Instr) : Bool :=
  match progOp i with
  | some (op, t) => w.bit 63 && decide (w.field 62 1 = t) && decide (w.field 59 3 = op)
  | none => false

/-- Where an instruction begins: the recorded position if MPROG matches it (R242). -/
def progStart (w : Word) (i : Instr) : Nat × Nat := if progMatches w i then (w.field 24 30, w.field 54 5) else (0, 0)

/-- Steps of an instruction with the records it has taken: J for MMA and MMAS, one for the others (R242). -/
def stepsOf (i : Instr) (recA recB : BitVec 512) : Nat :=
  let along (scaled : Bool) : Nat :=
    match shapeOf recA, shapeOf recB with
    | some a, some b => ceilDiv (max a.ext.1 b.ext.1) ((dotClass scaled a.fmt b.fmt).getD .exactFloat).unit
    | _, _ => 0
  match i with
  | .mma _ _ _ _ => along false
  | .mmas _ _ _ _ => along true
  | _ => 1

/-! ### Issue -/

/-- The tiles that an M instruction accesses, a0 first. -/
def tilesNamed (i : Instr) : List Nat :=
  let (w, r) := tilesOf i
  [0, 1].filter (fun t => w.contains t || r.contains t)

/-- An M instruction begins: ACCFIRST (R240), MME ACC and CELL (R295, R296), then its position and its records are in progress. One that
resumes still reports the errors that it consumed before it stopped (R246). -/
def State.beginM (s : State) (h : Hdr) (i : Instr) (recA recB : BitVec 512) : Eff :=
  let u := s.cur.slot
  match s.ownTiles u (tilesNamed i) with
  | .error t => .trap (trapAt causeAccfirst 0 t)
  | .ok s1 =>
    match s1.accRaceM u i with
    | some t => .trap t
    | none =>
      match s1.cellRace s1.cur (matrixSpans u.cell i (shapeOf recA) (shapeOf recB)) with
      | some t => .trap t
      | none =>
        let (j, r) := progStart s1.here.sr.mprog i
        let m : MInFlight :=
          { instr := i, recA := recA, recB := recB, step := j, row := r, total := stepsOf i recA recB, wait := h.wait, post := h.post
            poisoned := if progMatches s1.here.sr.mprog i then s1.here.mpoison else 0 }
        .begun (s1.withHere (fun l => { l with mflight := some m, mpoison := 0 }))

/-- A record of a row instruction: its FMT must be listed and SCALED 0 (R248). -/
def State.rowRecord (s : State) (e : Nat) (fmts : List Format) : Except Stop (BitVec 512 × State) :=
  match s.takeShape s.cur (s.re e) with
  | .error e => .error e
  | .ok (sh, d, s1) => if !fmts.contains sh.fmt || sh.scaled then .error (.trap (shapeTrap sh.addr)) else .ok (d, s1)

/-- A row instruction with a record. -/
def runRow (h : Hdr) (i : Instr) (e : Nat) (fmts : List Format) (s : State) : Host.Outcome State Fault Refusal :=
  run h (fun s =>
    match s.rowRecord e fmts with
    | .error x => x.eff
    | .ok (d, s1) => s1.beginM h i d 0) s

/-- MMA and MMAS: both records validated, A's first, then the pair, then SCALED for MMA (R244). -/
def runDot (scaled : Bool) (h : Hdr) (i : Instr) (a b : Nat) (s : State) : Host.Outcome State Fault Refusal :=
  run h (fun s =>
    match s.takeShape s.cur (s.re a) with
    | .error x => x.eff
    | .ok (shA, dA, s1) =>
      match s1.takeShape s1.cur (s.re b) with
      | .error x => x.eff
      | .ok (shB, dB, s2) =>
        if (dotClass scaled shA.fmt shB.fmt).isNone then .trap (shapeTrap shB.addr)
        else if !scaled && shA.scaled then .trap (shapeTrap shA.addr)
        else if !scaled && shB.scaled then .trap (shapeTrap shB.addr)
        else s2.beginM h i dA dB) s

/-- R243 -/
def execMma (h : Hdr) (d a b : Nat) (s : State) := runDot false h (.mma h d a b) a b s
def execMmas (h : Hdr) (d a b : Nat) (s : State) := runDot true h (.mmas h d a b) a b s

/-- R248 -/
def execMzero (h : Hdr) (d : Nat) (s : State) := run h (fun s => s.beginM h (.mzero h d) 0 0) s
def execMlda (h : Hdr) (d a : Nat) (s : State) := runRow h (.mlda h d a) a [.fp32, .int32, .uint32] s
def execMsta (h : Hdr) (d a : Nat) (s : State) := runRow h (.msta h d a) d [.fp32, .int32, .uint32] s
def execMbias (h : Hdr) (d a : Nat) (s : State) := runRow h (.mbias h d a) a [.fp32, .int32] s

/-- MCVT (R249). Its retirement under a false guard counts for STO as well (R86). -/
def execMcvt (h : Hdr) (d a : Nat) (i32 : Bool) (target : Format) (rnd : Rounding) (s : State) :=
  s.whenBound (State.issueVector h (fun s =>
    if s.guardHolds h then s.beginM h (.mcvt h d a i32 target rnd) 0 0 else .done (s.withMe (stoStep rnd))))

/-- MPRG (R250): it issues only when every earlier M instruction has retired. -/
def execMprg (h : Hdr) (d fn : Nat) (s : State) :=
  run h (fun s =>
    let w := s.here.sr.mprog
    .done ((s.withMe (fun t => t.setG d w)).withHere (fun l =>
      if fn = 1 then { l with sr := { l.sr with mprog := BitVec.ofNat 64 (w.toNat / 256 * 256) } } else l))) s

/-! ### Updates (R242, R245 to R249) -/

/-- Read elements one after another; M's reads leave no line states. -/
def State.readElems (s : State) (c : Cursor) (sh : Shape) : List Index → Except Stop (List (Nat × Bool))
  | [] => .ok []
  | i :: t =>
    match s.readElem c sh i with
    | .error e => .error e
    | .ok (v, _, up) =>
      match s.readElems c sh t with
      | .error e => .error e
      | .ok vs => .ok ((v, up) :: vs)

/-- Write elements one after another. -/
def State.writeAll (s : State) (c : Cursor) (sh : Shape) : List (Index × Nat) → Except Stop State
  | [] => .ok s
  | (i, v) :: t =>
    match s.writeElem c sh i v with
    | .error e => .error e
    | .ok s1 => s1.writeAll c sh t

/-- Block or group j of a row or column: its elements, then its scale word. -/
def State.dotOperand (s : State) (c : Cursor) (sh : Shape) (j unit i1 : Nat) : Except Stop DotOperand :=
  match s.readElems c sh ((List.range unit).map (fun k => { i0 := j * unit + k, i1 := i1, i2 := 0, i3 := 0 })) with
  | .error e => .error e
  | .ok es =>
    if sh.scaled then
      match s.readScale c sh j { i0 := 0, i1 := i1, i2 := 0, i3 := 0 } with
      | .error e => .error e
      | .ok (w, _, up) =>
        let (sc, ty) := scaleOf sh.fmt w
        .ok { vals := es.map (fun e => sh.fmt.value ty e.1), scale := sc, upset := up || es.any (·.2) }
    else .ok { vals := es.map (fun e => sh.fmt.value 0 e.1), scale := .fin false 1 0, upset := es.any (·.2) }

/-- The operands of some columns. -/
def State.dotColumns (s : State) (c : Cursor) (sh : Shape) (j unit : Nat) : List Nat → Except Stop (List DotOperand)
  | [] => .ok []
  | i :: t =>
    match s.dotOperand c sh j unit i with
    | .error e => .error e
    | .ok o =>
      match s.dotColumns c sh j unit t with
      | .error e => .error e
      | .ok os => .ok (o :: os)

/-- What an update writes: its row of tile t, the flags it raises, whether it consumed an uncorrectable error. -/
structure RowResult where
  row : Row
  flags : BitVec 8
  poisons : Bool
  deriving DecidableEq, Repr

/-- A row of 32 results with ISAT, where an element that consumed an error is undetermined (R246). -/
def State.rowOf (s : State) (t r j : Nat) (es : List (Nat × Bool × Bool)) : RowResult :=
  { row := Row.ofElems 32 (es.mapIdx (fun c e => if e.2.2 then (Config.consumedElement t r c j s.cyc).toNat else e.1))
    flags := if es.any (fun e => e.2.1) then 0x80 else 0
    poisons := es.any (fun e => e.2.2) }

/-- The bits of an accumulator row as its 32 elements. -/
def Row.words (r : Row) : List Nat := (List.range 32).map (fun c => r.elem 32 c)

/-- The elements of row r of a record (R248). -/
def rowIndices (r : Nat) : List Index := (List.range 32).map (fun c => { i0 := c, i1 := r, i2 := 0, i3 := 0 })

/-- Row r of tile t is written: DIRTY is set, and the row's poison bit becomes or stays set as the update says. -/
def State.putRow (s : State) (u : SlotId) (t r : Nat) (x : RowResult) (keep : Bool) : State :=
  let bit : BitVec 32 := BitVec.ofNat 32 (2 ^ r)
  (s.withCell u.cell (fun c => c.withTile t (fun k =>
    { k.setRow r x.row with dirty := true
                            poison := (if keep then k.poison else k.poison &&& ~~~ bit) ||| (if x.poisons then bit else 0) }))).withSlot u
    (fun l => { l with sr := { l.sr with mprog := l.sr.mprog ||| x.flags.zeroExtend 64 },
                       mflight := l.mflight.map (fun m => if x.poisons then { m with poisoned := m.poisoned ||| bit } else m) })

/-- The flags of MCVT that MPROG holds (Table 10.2). -/
def mcvtFlags (f : Flags) : BitVec 8 := f.bits &&& 0x3D

/-- One converted row of MCVT (R249). -/
def mcvtRow (i32 : Bool) (target : Format) (rnd : Rounding) (g14 g15 : Word) (r : Nat) (row : Row) : RowResult :=
  let src : Format := if i32 then .int32 else .fp32
  let es := (Row.words row).mapIdx (fun c x =>
    if target = src then Lane.plain x else target.round rnd (stoDraw rnd g14 g15 (32 * r + c)) (src.value 0 x))
  { row := Row.ofElems target.width (es.map (·.1)), flags := mcvtFlags (Flags.joinAll (es.map (·.2))), poisons := false }

/-- The update (j, r) of the instruction in progress, or the fault that keeps it from taking effect. -/
def State.updateOf (s : State) (u : SlotId) (m : MInFlight) : Except Stop State :=
  let c : Cursor := { slot := u, stream := .m }
  let cell := s.cell u.cell
  let r := m.row
  let j := m.step
  let old (t : Nat) : Row := (cell.tile t).row r
  let poisoned (t : Nat) : Bool := (cell.tile t).poison.getLsbD r
  let dot (scaled : Bool) (t : Nat) : Except Stop State :=
    match shapeOf m.recA, shapeOf m.recB with
    | some a, some b =>
      let cls := (dotClass scaled a.fmt b.fmt).getD .exactFloat
      match s.dotOperand c a j cls.unit r with
      | .error e => .error e
      | .ok oa =>
        match s.dotColumns c b j cls.unit (List.range 32) with
        | .error e => .error e
        | .ok obs =>
          let es := List.zipWith (fun acc ob =>
            let (v, sat) := dotStep cls acc oa ob
            (v, sat, oa.upset || ob.upset)) (Row.words (old t)) obs
          .ok (s.putRow u t r (s.rowOf t r j es) true)
    | _, _ => .ok s
  match m.instr with
  | .mma _ d _ _ => dot false d
  | .mmas _ d _ _ => dot true d
  | .mzero _ d =>
    .ok (s.withCell u.cell (fun c => c.withTile d (fun k => { k with rows := [], poison := 0, dirty := true })))
  | .mlda _ d _ =>
    (match shapeOf m.recA with
     | none => .ok s
     | some sh =>
       match s.readElems c sh (rowIndices r) with
       | .error e => .error e
       | .ok es => .ok (s.putRow u d r (s.rowOf d r 0 (es.map (fun e => (e.1, false, e.2)))) false))
  | .msta _ _ a =>
    (match shapeOf m.recA with
     | none => .ok s
     | some sh =>
       if poisoned a then .error (.trap (poisonTrap a (cell.tile a).poison))
       else s.writeAll c sh ((rowIndices r).zip (Row.words (old a))))
  | .mbias _ d _ =>
    (match shapeOf m.recA with
     | none => .ok s
     | some sh =>
       match s.readElems c sh (rowIndices 0) with
       | .error e => .error e
       | .ok es =>
         let rs := List.zipWith (fun acc e =>
           let (v, sat) := if sh.fmt = .int32 then accumulateInt acc (signed 32 e.1)
             else ((fp32.round .rne 0 (FVal.add false (fp32.value acc) (fp32.value e.1)).1).1, false)
           (v, sat, e.2)) (Row.words (old d)) es
         .ok (s.putRow u d r (s.rowOf d r 0 rs) true))
  | .mcvt _ d a i32 target rnd =>
    if poisoned a then .error (.trap (poisonTrap a (cell.tile a).poison))
    else
      let st := (s.slot u).m
      .ok (s.putRow u d r (mcvtRow i32 target rnd (st.gReg 14) (st.gReg 15) r (old a)) true)
  | _ => .ok s

/-- The instruction after an update: the next row, or the next step. -/
def MInFlight.advance (m : MInFlight) : MInFlight :=
  match m.instr with
  | .mzero _ _ => { m with step := 1 }
  | _ => if m.row = 31 then { m with step := m.step + 1, row := 0 } else { m with row := m.row + 1 }

/-- The updates that remain. -/
def MInFlight.remaining (m : MInFlight) : Nat := (m.total - m.step) * 32

/-- One update of the M instruction in progress, and the position it leaves (R242). -/
def State.mUpdate (s : State) (u : SlotId) : State :=
  match (s.slot u).mflight with
  | none => s
  | some m =>
    if m.ended then s
    else
      match s.updateOf u m with
      | .error (.trap t) => s.takeTrap u .m t TrapMode.precise
      | .error (.park _) => s
      | .error .hold => s
      | .ok s1 =>
        let poisonedNow := optAny (s1.slot u).mflight (fun n => decide (n.poisoned ≠ m.poisoned))
        let s2 := if poisonedNow then s1.consumed { slot := u, stream := .m } 0 else s1
        s2.withSlot u (fun l =>
          match l.mflight with
          | none => l
          | some n =>
            let n1 := n.advance
            let w := match progOp n.instr with
              | some (op, t) => progAt l.sr.mprog op t n1.step n1.row
              | none => l.sr.mprog
            { l with mflight := some n1, sr := { l.sr with mprog := w } })

/-- The updates that remain, until none does or one faults. -/
def State.mFinish (s : State) (u : SlotId) : Nat → State
  | 0 => s
  | n + 1 =>
    match (s.slot u).mflight with
    | none => s
    | some m => if m.ended then s else (s.mUpdate u).mFinish u n

/-- The M instruction in progress has made its last update: it retires, or traps POISON if it consumed an error (R242, R246); a handler
that returns to it makes it retire. -/
def State.mComplete (s : State) (u : SlotId) : State :=
  match (s.slot u).mflight with
  | none => s
  | some m =>
    if !m.ended then s
    else if m.poisoned ≠ 0 then
      let t := ((tilesOf m.instr).1).headD 0
      (s.takeTrap u .m (poisonTrap t ((s.cell u.cell).tile t).poison) TrapMode.precise).withSlot u (fun l => { l with mpoison := 0 })
    else (s.withSlot u (fun l => l.mRetire m)).settleUnit u

/-- The retirement of the M instruction in progress on a slot: the updates that remain are made, and it retires. -/
def execMRetire (u : SlotId) (s : State) : Host.Outcome State Fault Refusal :=
  .next (match (s.slot u).mflight with
    | some m => if (s.slot u).bound.isSome then (s.mFinish u m.remaining).mComplete u else s
    | none => s)

end Sys2Proof.Machine
end

