-- ==== Sys2Proof/Machine/TileMove.lean ====
section
/-! DEFINITION. The tile-move commands, opcodes 0xB0 to 0xB8 (10.4 to 10.7): issue and validation, the elements of a command one by one
(R252), the range checker (R254), faults and parks (R253), and retirement in order (R251). -/

namespace Sys2Proof.Machine

/-! ### Records -/

/-- Which of the d, a and b operands of a command are addresses of records. -/
def recordRoles : Instr → Bool × Bool × Bool
  | .xmov _ _ _ | .xmovs _ _ _ _ | .xunpk _ _ _ => (true, true, false)
  | .xgath _ _ _ _ | .xscat _ _ _ _ => (true, true, true)
  | .xfill _ _ _ => (true, false, false)
  | .xhash _ _ _ _ | .xapp _ _ _ => (false, true, false)
  | _ => (false, false, false)

/-- The records that a command has taken. -/
structure XRecords where
  recD : BitVec 512
  recA : BitVec 512
  recB : BitVec 512
  d : Option Shape
  a : Option Shape
  b : Option Shape
  deriving DecidableEq, Repr

/-- Take one record, if the operand is one. -/
def State.takeOne (s : State) (c : Cursor) (use : Bool) (addr : Word) : Except Stop (BitVec 512 × Option Shape × State) :=
  if use then
    match s.takeShape c addr with
    | .error e => .error e
    | .ok (sh, d, s1) => .ok (d, some sh, s1)
  else .ok (0, none, s)

/-- Take the records of a command, d before a before b (R65, R66). -/
def State.takeRecords (s : State) (c : Cursor) (i : Instr) (opD opA opB : Word) : Except Stop (XRecords × State) :=
  let (useD, useA, useB) := recordRoles i
  match s.takeOne c useD opD with
  | .error e => .error e
  | .ok (rd, d, s1) =>
    match s1.takeOne c useA opA with
    | .error e => .error e
    | .ok (ra, a, s2) =>
      match s2.takeOne c useB opB with
      | .error e => .error e
      | .ok (rb, b, s3) => .ok ({ recD := rd, recA := ra, recB := rb, d := d, a := a, b := b }, s3)

/-- The shapes of a command from the records that it holds. -/
def XCommand.shapes (k : XCommand) : XRecords :=
  let (useD, useA, useB) := recordRoles k.instr
  { recD := k.recD, recA := k.recA, recB := k.recB
    d := if useD then Shape.ofRecord k.opD k.recD else none
    a := if useA then Shape.ofRecord k.opA k.recA else none
    b := if useB then Shape.ofRecord k.opB k.recB else none }

/-- Whether a record lies outside its column of Table 10.5: the destination's first, then the source's, then their extents. -/
def pairFault (dOk aOk : Bool) (d a : Shape) : Option TrapInfo :=
  if !dOk then some (shapeTrap d.addr)
  else if !aOk || decide (d.ext ≠ a.ext) then some (shapeTrap a.addr)
  else none

/-- The checks of a command's records at issue (R255 to R257). -/
def recordFault (i : Instr) (r : XRecords) : Option TrapInfo :=
  match i, r.d, r.a, r.b with
  | .xmov _ _ _, some d, some a, _ => pairFault true (decide (d.fmt = a.fmt) && (d.scaled == a.scaled)) d a
  | .xmovs _ _ _ _, some d, some a, _ => pairFault (!d.scaled) (!a.scaled) d a
  | .xunpk _ _ _, some d, some a, _ =>
    pairFault (!d.scaled && [Format.fp32, .bf16, .fp16].contains d.fmt) a.fmt.scalable d a
  | .xfill _ _ _, some d, _, _ => if d.scaled then some (shapeTrap d.addr) else none
  | .xgath _ _ _ _, some d, some a, some b | .xscat _ _ _ _, some d, some a, some b =>
    if !([Format.int32, .uint32].contains b.fmt) then some (shapeTrap b.addr)
    else if d.fmt ≠ a.fmt ∨ d.scaled ∨ a.scaled ∨ d.ext.1 ≠ a.ext.1 ∨ d.ext.2.2 ≠ a.ext.2.2 then some (shapeTrap a.addr)
    else none
  | .xhash _ _ _ _, _, some a, _ =>
    if !([Format.int32, .uint32].contains a.fmt) || decide (a.ext ≠ (16, 1, 1, 1)) then some (shapeTrap a.addr) else none
  | _, _, _, _ => none

/-- Whether a command writes outside the own cell store, in any row of its destination (R278). -/
def writesOutside (cell : Nat) (i : Instr) (opD : Word) (r : XRecords) : Bool :=
  match i with
  | .xapp _ _ _ => false
  | .xhash _ _ _ _ => !ownStore cell opD
  | _ => optAny r.d (fun d => !d.staysOwn cell)

/-- Driving elements of a command with the records it has taken (R252). -/
def drivingCount (i : Instr) (r : XRecords) : Nat :=
  let n (o : Option Shape) : Nat := (o.map Shape.count).getD 0
  match i with
  | .xscat _ _ _ _ | .xapp _ _ _ | .xhash _ _ _ _ => n r.a
  | _ => n r.d

/-! ### Issue -/

/-- A command with its checks made enters the queue, after the check of MME CELL (R251, R295). -/
def State.enqueue (s : State) (h : Hdr) (i : Instr) (opD opA opB : Word) (r : XRecords) : Eff :=
  let words := (List.range h.words).map (fun j => s.me.line.word (wordIndex s.me.pc + j))
  let k : XCommand := { instr := i, words := words, pc := s.me.pc, cursor := 0, opD := opD, opA := opA, opB := opB, recD := r.recD,
                        recA := r.recA, recB := r.recB, total := drivingCount i r, post := h.post, fresh := false, fault := none, parked := none,
                        void := false }
  match s.cellRace s.cur (s.commandSpans s.cur.slot k) with
  | some t => .trap t
  | none => .queued (s.withHere (fun l => { l with xqueue := l.xqueue ++ [k] }))

/-- A command whose guard is false (R20): it retires, and posts, where the command would have retired, after every earlier one (R251). -/
def voidCommand (h : Hdr) (i : Instr) (s : State) : Eff :=
  let q := s.here.xqueue
  let k : XCommand := { instr := i, words := (List.range h.words).map (fun j => s.me.line.word (wordIndex s.me.pc + j)), pc := s.me.pc,
                        cursor := 0, opD := 0, opA := 0, opB := 0, recD := 0, recA := 0, recB := 0, total := 0, post := h.post,
                        fresh := false, fault := none, parked := none, void := true }
  if q.isEmpty then .done s
  else if 16 ≤ q.length then .wait .commands
  else .queued (s.withHere (fun l => { l with xqueue := l.xqueue ++ [k] }))

/-- Run a command: one whose guard is false keeps its place among the commands. -/
def runGuarded (h : Hdr) (i : Instr) (body : State → Eff) (s : State) : Host.Outcome State Fault Refusal :=
  s.whenBound (State.issueVector h (fun s => if s.guardHolds h then body s else voidCommand h i s))

/-- A command with its operand values (R251). -/
def runCommand (h : Hdr) (i : Instr) (opD opA opB : State → Word) (s : State) : Host.Outcome State Fault Refusal :=
  runGuarded h i (fun s =>
    if 16 ≤ s.here.xqueue.length then .wait .commands
    else
      match s.takeRecords s.cur i (opD s) (opA s) (opB s) with
      | .error e => e.eff
      | .ok (r, s1) =>
        match recordFault i r with
        | some t => .trap t
        | none =>
          if s.here.window.isSome && writesOutside s.cur.slot.cell i (opD s) r then .trap s.specSide
          else s1.enqueue h i (opD s) (opA s) (opB s) r) s

/-- R255 -/
def execXmov (h : Hdr) (d a : Nat) (s : State) := runCommand h (.xmov h d a) (·.re d) (·.re a) (fun _ => 0) s
def execXmovs (h : Hdr) (d a : Nat) (rnd : Rounding) (s : State) := runCommand h (.xmovs h d a rnd) (·.re d) (·.re a) (fun _ => 0) s
def execXunpk (h : Hdr) (d a : Nat) (s : State) := runCommand h (.xunpk h d a) (·.re d) (·.re a) (fun _ => 0) s
def execXfill (h : Hdr) (d a : Nat) (s : State) := runCommand h (.xfill h d a) (·.re d) (·.rg a) (fun _ => 0) s

/-- R256 -/
def execXgath (h : Hdr) (d a b : Nat) (s : State) := runCommand h (.xgath h d a b) (·.re d) (·.re a) (·.re b) s
def execXscat (h : Hdr) (d a b : Nat) (s : State) := runCommand h (.xscat h d a b) (·.re d) (·.re a) (·.re b) s

/-- XHASH (R257): after its record, the alignment of g[d], then of g[b] unless that is 0. -/
def execXhash (h : Hdr) (d a b : Nat) (s : State) :=
  let i : Instr := .xhash h d a b
  runGuarded h i (fun s =>
    if 16 ≤ s.here.xqueue.length then .wait .commands
    else
      let to_ := s.rg d
      let prev := s.rg b
      match s.takeRecords s.cur i to_ (s.re a) prev with
      | .error e => e.eff
      | .ok (r, s1) =>
        match recordFault i r with
        | some t => .trap t
        | none =>
          if to_.field 0 4 ≠ 0 then .trap { cause := causeAlign, sub := 0, tval := to_ }
          else if prev ≠ 0 ∧ prev.field 0 4 ≠ 0 then .trap { cause := causeAlign, sub := 0, tval := prev }
          else if s.here.window.isSome && writesOutside s.cur.slot.cell i to_ r then .trap s.specSide
          else s1.enqueue h i to_ (s.re a) prev r) s

/-- Entries that each iteration of a window appends to a region, by its block (Table 11.6). -/
def State.windowRate (s : State) (u : SlotId) (w : Window) (region : Nat) : Nat :=
  byteAt (s.cellBytes u.cell (offset w.block) 8) (3 + region)

/-- Appends that a region has had since SPECB, to whichever record (R277). -/
def Window.count (w : Window) (region : Nat) : Nat := if region = 0 then w.app0 else w.app1

/-- The checks of XAPP (R258, R277): the record and the index of the entry it appends. A window counts its appends over all the records
that it has appended to (log entry 94). -/
def State.appendCheck (s : State) (g : Word) (bytes : Nat) : Except TrapInfo (Nat × Nat) :=
  let bad (sub : Nat) : Except TrapInfo (Nat × Nat) := .error { cause := causeIllop, sub := sub, tval := g }
  match s.here.attached with
  | none => bad 6
  | some n =>
    let r := s.srec n
    let region := g.toNat
    if 2 ≤ region ∨ r.cap region = 0 ∨ bytes ≠ r.esize region ∨ r.cap region ≤ r.len region then bad 6
    else if optAny s.here.window (fun w => decide (w.w * s.windowRate s.cur.slot w region ≤ w.count region)) then bad 8
    else .ok (n, r.len region)

/-- A window that has had one append more, in iteration ⌊n / APR⌋ (R277). -/
def Window.append (w : Window) (rate record region index : Nat) : Window :=
  let e : Append := { record := record, region := region, index := index, iteration := w.count region / rate }
  if region = 0 then { w with app0 := w.app0 + 1, appends := w.appends ++ [e] } else { w with app1 := w.app1 + 1, appends := w.appends ++ [e] }

/-- The append event (R258): the region's length grows, and an open window takes note of the entry. -/
def State.appendEvent (s : State) (n region index : Nat) : State :=
  (s.withSrec n (fun r => if region = 0 then { r with len0 := index + 1 } else { r with len1 := index + 1 })).withHere (fun l =>
    { l with window := l.window.map (fun w => w.append (s.windowRate s.cur.slot w region) n region index) })

/-- XAPP (R258): the append event is made at issue. -/
def execXapp (h : Hdr) (a b : Nat) (s : State) :=
  let i : Instr := .xapp h a b
  runGuarded h i (fun s =>
    if 16 ≤ s.here.xqueue.length then .wait .commands
    else
      match s.takeRecords s.cur i 0 (s.re a) (s.rg b) with
      | .error e => e.eff
      | .ok (r, s1) =>
        match s.appendCheck (s.rg b) ((r.a.map Shape.packedBytes).getD 0) with
        | .error t => .trap t
        | .ok (n, len) =>
          let region := (s.rg b).toNat
          match s1.enqueue h i ((s.srec n).entryAt region len) (s.re a) (s.rg b) r with
          | .queued s2 => .queued (s2.appendEvent n region len)
          | e => e) s

/-- XQRY (R259): an instruction whose guard was false is no command. -/
def execXqry (h : Hdr) (d fn : Nat) (s : State) :=
  run h (fun s =>
    let q := s.here.xqueue.filter (fun k => !k.void)
    let v := if fn = 0 then q.length else (q.head?.map (·.cursor)).getD 0
    writeG d (BitVec.ofNat 64 v) s) s

/-! ### Elements -/

/-- The scale word that a copied block carries, where element i is the first of its block (R255). -/
def State.scaleWord (s : State) (c : Cursor) (d a : Shape) (i : Index) : Except Stop (Option Nat × State) :=
  if !(d.scaled && a.scaled && decide (i.i0 % 32 = 0)) then .ok (none, s)
  else
    match s.readScale c a (i.i0 / 32) i with
    | .error e => .error e
    | .ok (w, s1, _) => .ok (some w, s1)

/-- Write the scale word of a block of the destination. -/
def State.putScale (s : State) (c : Cursor) (d : Shape) (i : Index) : Option Nat → Except Stop State
  | none => .ok s
  | some w =>
    let to_ := d.scaleAt (i.i0 / 32) i
    if offset to_ % 2 ≠ 0 then .error (trap0 causeAlign to_)
    else
      match s.touch c true to_ 2 with
      | .error e => .error e
      | .ok (ks, s2) => .ok (s2.storeEach (ks.zip (bytesOf 2 w)))

/-- An element of XMOV with the scale word of its block: both are read before either is written (R252, R255). -/
def State.moveElem (s : State) (c : Cursor) (d a : Shape) (i : Index) : Except Stop State :=
  match s.readElem c a i with
  | .error e => .error e
  | .ok (v, s1, _) =>
    match s1.scaleWord c d a i with
    | .error e => .error e
    | .ok (w, s2) =>
      match s2.writeElem c d i v with
      | .error e => .error e
      | .ok s3 => s3.putScale c d i w

/-- A source element, transformed, written to a place of the destination. -/
def State.copyElem (s : State) (c : Cursor) (d a : Shape) (from_ to_ : Index) (f : Nat → Nat) : Except Stop State :=
  match s.readElem c a from_ with
  | .error e => .error e
  | .ok (v, s1, _) => s1.writeElem c d to_ (f v)

/-- The index that selects row i1 (R256): none where it lies outside. -/
def State.rowIndex (s : State) (c : Cursor) (b : Shape) (i1 : Nat) : Except Stop (Option Nat × State) :=
  match s.readElem c b { i0 := i1, i1 := 0, i2 := 0, i3 := 0 } with
  | .error e => .error e
  | .ok (v, s1, _) =>
    let k : Int := if b.fmt = .int32 then signed 32 v else v
    .ok (if k < 0 then none else some k.toNat, s1)

/-- The 4-byte elements of a token block from element i on, each read a plain access that leaves its line state (R257, R297). -/
def State.readTokens (s : State) (c : Cursor) (a : Shape) (i : Nat) : Nat → Except Stop (List Byte × State)
  | 0 => .ok ([], s)
  | n + 1 =>
    match s.readElem c a { i0 := i, i1 := 0, i2 := 0, i3 := 0 } with
    | .error e => .error e
    | .ok (v, s1, _) =>
      match s1.readTokens c a (i + 1) n with
      | .error e => .error e
      | .ok (bs, s2) => .ok (bytesOf 4 v ++ bs, s2)

/-- XHASH as one element: both inputs are read before the digest is written (R257). -/
def State.hashElem (s : State) (c : Cursor) (a : Shape) (to_ prev : Word) : Except Stop State :=
  match s.readTokens c a 0 16 with
  | .error e => .error e
  | .ok (tokens, s0) =>
    let head : Except Stop (List Byte × State) :=
      if prev = 0 then .ok (zeros 16, s0)
      else
        match s0.touch c false prev 16 with
        | .error e => .error e
        | .ok (ks, s1) => .ok (s1.loadEach ks, s1.countEach ks)
    match head with
    | .error e => .error e
    | .ok (p, s1) =>
      match s1.touch c true to_ 16 with
      | .error e => .error e
      | .ok (ks, s2) => .ok (s2.storeEach (ks.zip (shake256 (p ++ tokens) 16)))

/-- An element of XAPP: packed in element order at the entry's address (R258). -/
def State.appendElem (s : State) (c : Cursor) (a : Shape) (to_ : Word) (n : Nat) : Except Stop State :=
  match s.readElem c a (a.index n) with
  | .error e => .error e
  | .ok (v, s1, _) =>
    let packed : Shape := { a with addr := 0, base := to_, scaled := false, ext := (a.count, 1, 1, 1), str1 := 0, str2 := 0, str3 := 0 }
    s1.writeElem c packed { i0 := n, i1 := 0, i2 := 0, i3 := 0 } v

/-- Whether a conversion of XMOVS leaves a code as it is, or what it becomes (R255). -/
def convertCode (d a : Format) (rnd : Rounding) (v : Nat) : Nat := (d.round rnd 0 (a.value 0 v)).1

/-- The element at a command's cursor. -/
def State.elemOf (s : State) (c : Cursor) (k : XCommand) : Except Stop State :=
  let r := k.shapes
  match k.instr, r.d, r.a, r.b with
  | .xmov _ _ _, some d, some a, _ =>
    s.moveElem c d a (d.index k.cursor)
  | .xmovs _ _ _ rnd, some d, some a, _ =>
    let i := d.index k.cursor
    s.copyElem c d a i i (convertCode d.fmt a.fmt rnd)
  | .xunpk _ _ _, some d, some a, _ =>
    let i := d.index k.cursor
    let word : Except Stop (Nat × State × Bool) := if a.scaled then s.readScale c a (i.i0 / 32) i else .ok (0x3F80, s, false)
    (match word with
     | .error e => .error e
     | .ok (w, s1, _) =>
       let (sc, ty) := scaleOf a.fmt w
       s1.copyElem c d a i i (fun v => (d.fmt.round .rne 0 ((sc.mul (a.fmt.value ty v)).1)).1))
  | .xfill _ _ _, some d, _, _ => s.writeElem c d (d.index k.cursor) k.opA.toNat
  | .xgath _ _ _ _, some d, some a, some b =>
    let i := d.index k.cursor
    (match s.rowIndex c b i.i1 with
     | .error e => .error e
     | .ok (some j, s1) => s1.copyElem c d a { i with i1 := j } i id
     | .ok (none, s1) => s1.writeElem c d i a.padding)
  | .xscat _ _ _ _, some d, some a, some b =>
    let i := a.index k.cursor
    (match s.rowIndex c b i.i1 with
     | .error e => .error e
     | .ok (some j, s1) => s1.copyElem c d a i { i with i1 := j } id
     | .ok (none, s1) =>
       match s1.readElem c a i with
       | .error e => .error e
       | .ok (_, s2, _) => .ok s2)
  | .xhash _ _ _ _, _, some a, _ => s.hashElem c a k.opD k.opB
  | .xapp _ _ _, _, some a, _ => s.appendElem c a k.opD k.cursor
  | _, _, _, _ => .ok s

/-- The cursor after an element; XHASH's whole token block is one (R257). -/
def XCommand.advance (k : XCommand) : XCommand :=
  { k with parked := none, cursor := (match k.instr with
    | .xhash _ _ _ _ => 16
    | _ => k.cursor + 1) }

/-- Whether commands of a slot proceed: a unit is bound, its slot is the active one, and no handler runs. -/
def State.commandsRun (s : State) (u : SlotId) : Bool :=
  (s.slot u).bound.isSome && (s.slot u).handler.isNone && ((s.cell u.cell).active == u.h1)

/-- Whether a command has yet to take its records afresh and cannot now, so that its footprint is not known. -/
def State.unread (s : State) (u : SlotId) (k : XCommand) : Bool :=
  k.fresh && !k.void &&
  (match s.takeRecords { slot := u, stream := .x } k.instr k.opD k.opA k.opB with
   | .ok _ => false
   | .error _ => true)

/-- Whether the range checker holds command n back: an earlier command that has not written its last byte overlaps it, and one of the
two writes (R254). An earlier command whose records cannot be taken afresh yet counts as overlapping (log entry 13). -/
def State.heldBack (s : State) (u : SlotId) (n : Nat) (k : XCommand) : Bool :=
  let mine := s.commandSpans u k
  (((s.slot u).xqueue.take n).filter (fun e => !e.ended)).any (fun e =>
    (!mine.isEmpty && s.unread u e) || (s.commandSpans u e).any (fun a => mine.any (Span.meets a)))

/-- Change command n of a slot. -/
def Slot.withCommand (l : Slot) (n : Nat) (f : XCommand → XCommand) : Slot :=
  { l with xqueue := l.xqueue.mapIdx (fun i k => if i = n then f k else k) }

/-- A command's check fails: the fault is raised at the head of the queue, and waits until then elsewhere (R253). -/
def State.commandFault (s : State) (u : SlotId) (n : Nat) (t : TrapInfo) : State :=
  let s1 := s.withSlot u (fun l => l.withCommand n (fun k => { k with fault := some t, parked := none }))
  if n = 0 then s1.takeTrap u .x t TrapMode.precise else s1

/-- A command parks alone (R61, R253): counted once. -/
def State.commandParks (s : State) (u : SlotId) (n : Nat) (k : XCommand) (frame : Nat) : State :=
  let s1 := if k.parked = some frame then s else (s.countPark (s.binding u).handle).urge frame 7
  s1.withSlot u (fun l => l.withCommand n (fun k => { k with parked := some frame }))

/-- Command n of a slot takes its records afresh if it must, and processes its next driving element. -/
def State.xElem (s : State) (u : SlotId) (n : Nat) : State :=
  let c : Cursor := { slot := u, stream := .x }
  match (s.slot u).xqueue[n]? with
  | none => s
  | some k =>
    if !s.commandsRun u || k.void then s
    else if k.fault.isSome then (match k.fault with
      | some t => if n = 0 then s.takeTrap u .x t TrapMode.precise else s
      | none => s)
    else
      match (if k.fresh then s.takeRecords c k.instr k.opD k.opA k.opB else .ok (k.shapes, s)) with
      | .error (.trap t) => s.commandFault u n t
      | .error (.park f) => s.commandParks u n k f
      | .error .hold => s
      | .ok (r, s1) =>
        let k1 := { k with fresh := false, recD := r.recD, recA := r.recA, recB := r.recB, total := drivingCount k.instr r }
        let s2 := s1.withSlot u (fun l => l.withCommand n (fun _ => k1))
        if k1.ended || s2.heldBack u n k1 then s2
        else
          match s2.elemOf c k1 with
          | .error (.trap t) => s2.commandFault u n t
          | .error (.park f) => s2.commandParks u n k1 f
          | .error .hold => s2
          | .ok s3 => s3.withSlot u (fun l => l.withCommand n XCommand.advance)

/-- The elements that the head of a queue has left, until none is or one does not proceed. -/
def State.xFinish (s : State) (u : SlotId) : Nat → State
  | 0 => s
  | n + 1 =>
    match (s.slot u).xqueue.head? with
    | none => s
    | some k => if k.ended || k.fault.isSome || k.parked.isSome || (s.slot u).handler.isSome then s else (s.xElem u 0).xFinish u n

/-- The head of a queue retires once it has written its last byte (R251): its post is made, and a fault that the next command holds is
raised (R253). -/
def State.xRetire (s : State) (u : SlotId) : State :=
  match (s.slot u).xqueue with
  | [] => s
  | k :: rest =>
    if !k.ended || !s.commandsRun u then s
    else
      let s1 := s.withSlot u (fun l =>
        let l1 := match k.post with
          | some p => l.withTokens .x p (· + 1)
          | none => l
        { l1 with xqueue := rest, x := { l1.x with retired := l1.x.retired + 1 } })
      let s2 := s1.settleUnit u
      match rest.head? with
      | some k2 => (match k2.fault with
        | some t => s2.takeTrap u .x t TrapMode.precise
        | none => s2)
      | none => s2

/-- The retirement of the oldest X command of a slot: the elements it has left are processed, and it retires. -/
def execXCommandRetire (u : SlotId) (s : State) : Host.Outcome State Fault Refusal :=
  .next (match (s.slot u).xqueue.head? with
    | some k =>
      let s1 := s.xElem u 0
      let total := ((s1.slot u).xqueue.head?.map (fun k => k.total - k.cursor)).getD 0
      if k.parked.isSome then s1.xRetire u else (s1.xFinish u total).xRetire u
    | none => s)

end Sys2Proof.Machine
end

