-- ==== Sys2Proof/Machine/Front.lean ====
section
/-! DEFINITION. The front end of a stream: entering lines (R105, R106, R109), reading ahead (R110), the parameter block (R151), the carry
of a local window (R274), and the instruction at the program counter; and how a program is placed for a first fetch. -/

namespace Sys2Proof.Machine

/-- What a move of a stream comes to: the machine stays, or an instruction is to be executed. -/
inductive Front where
  | stay (s : State)
  | run (s : State) (i : Instr)
  deriving DecidableEq, Repr

/-- The address of a line read early. -/
def Ahead.va : Ahead → Nat
  | .line l => l.va
  | .fault va _ => va

/-- What the read of a line early answers at its entry (R110). -/
def Ahead.answer : Ahead → Except Stop Line
  | .line l => .ok l
  | .fault _ t => .error (.trap t)

/-- What a stream has read early of the line at an address. -/
def State.aheadOf (s : State) (c : Cursor) (va : Nat) : Option Ahead := (s.stream c).ahead.head?.filter (fun a => decide (a.va = va))

/-- The line at an address for a stream that enters it: as it has read it early, with the fault it met then, or a fresh read (R110). -/
def State.lineFor (s : State) (c : Cursor) (va : Nat) : Except Stop Line :=
  match s.aheadOf c va with
  | some a => a.answer
  | none => s.readLine c va

/-- Count the fetch of a line that was not read ahead (R404). -/
def State.fetchedFor (s : State) (c : Cursor) (va : Nat) : State := if (s.aheadOf c va).isSome then s else s.fetched c va

/-- A trap at the entry of a line, or a park (rows 1 to 3 of Table 4.6). -/
def State.stopEntry (s : State) (c : Cursor) : Stop → State
  | .trap t => s.takeTrap c.slot c.stream t TrapMode.precise
  | .park f => s.park c f
  | .hold => s.setWait c .link

/-- The same for a line entered over a link: the fault of a read that was made early is raised, and its accesses count no more (R110). -/
def State.stopFall (s : State) (c : Cursor) (va : Nat) (e : Stop) : State :=
  match s.aheadOf c va with
  | some (.fault _ t) => s.raiseTrap c.slot c.stream t TrapMode.precise
  | _ => (s.fetchedFor c va).stopEntry c e

/-- The stream halts on an empty line with LAST set (R105). -/
def State.haltEmpty (s : State) (c : Cursor) : State :=
  (s.withStream c (fun t => { t with halted := true, ahead := [], waiting := none })).settleUnit c.slot

/-- Enter the line of the program counter by the link of the line at `src`, having met some empty lines in a row (R105): the state in
which the stream stands in a line with instructions, or the state in which it does not. -/
def State.fallIn (s : State) (c : Cursor) (src empties : Nat) : Nat → Except State State
  | 0 => .error s
  | n + 1 =>
    let pc := (s.stream c).pc
    if pc = 0 then .error (s.stopEntry c (.trap (trapAt causeSpace 0 src)))
    else
      match s.lineFor c (alignDown pc 64) with
      | .error e => .error (s.stopFall c (alignDown pc 64) e)
      | .ok l =>
        let s1 := (s.fetchedFor c (alignDown pc 64)).withStream c (fun t => { t with ahead := t.ahead.drop 1 })
        if l.count ≠ 0 then .ok (s1.withStream c (fun t => { t with entry := .inLine, line := l }))
        else if l.last then .error (s1.haltEmpty c)
        else if empties + 1 = 4 then .error (s1.stopEntry c (.trap (trapAt causeIllop 3 l.va)))
        else (s1.withStream c (fun t => { t with pc := l.nextPc, entry := .fall l.va (empties + 1) })).fallIn c l.va (empties + 1) n

/-- Bring a stream into the line of its program counter. A resume PC at or above its line's COUNT traps TARGET (Table 4.8); a stream that
starts at a line without instructions leaves it by its link (R105), and one that starts at any other word at or above COUNT traps TARGET too
(log entry 35: the rows of TARGET speak of branches and resumes). -/
def State.enterLine (s : State) (c : Cursor) : Except State State :=
  let t := s.stream c
  match t.entry with
  | .inLine => .ok s
  | .fall src k => s.fallIn c src k 5
  | e =>
    match codeAddressFault t.pc with
    | some f => .error (s.stopEntry c (.trap f))
    | none =>
      let s0 := s.fetched c (alignDown t.pc 64)
      match s.readLine c (alignDown t.pc 64) with
      | .error e => .error (s0.stopEntry c e)
      | .ok l =>
        if e = .start ∧ wordIndex t.pc = 0 ∧ l.count = 0 then s0.fallIn c l.va 0 5
        else if l.count ≤ wordIndex t.pc then .error (s0.stopEntry c (.trap (trapAt causeIllop 4 t.pc)))
        else .ok (s.withStream c (fun t => t.enter t.pc l))

/-- A stream with g1 to g9 as the parameter block gives them (R151). -/
def StreamSt.withParams (t : StreamSt) (param : Word) (bs : List Byte) : StreamSt :=
  (List.range 8).foldl (fun t i => t.setG (i + 1) (BitVec.ofNat 64 (natAt bs (8 * i) 8))) (t.setG 9 param)

/-- A stream that starts: one that has not started yet takes g1 to g9 from the parameter block; a PARAM of 0 gives 0. -/
def StreamSt.start (t : StreamSt) (param : Word) (bs : List Byte) : StreamSt :=
  if t.notStarted then { (if param = 0 then t else t.withParams param bs) with notStarted := false, waiting := none } else t

/-- Whether the parameter block of a slot is still to be read: V's mark says so for the slot, since S may resume at a graph position. -/
def Slot.needsParams (l : Slot) : Bool := l.v.notStarted && l.handler.isNone

/-- The parameter block is read before the first issue of S (R151), or at the resume from a boundary (R204), where S keeps the registers
that the boundary saved. The read is one of S, with its checks; `c` is S's cursor. -/
def State.readParams (s : State) (c : Cursor) : Except State State :=
  match s.launchOf (s.slot c.slot) with
  | none => .error s
  | some (_, l) =>
    let p := l.record.param
    let start (bs : List Byte) (l : Slot) : Slot :=
      { l with s := { l.s.start p bs with waiting := none }, v := l.v.start p bs, m := l.m.start p bs, x := l.x.start p bs }
    if p = 0 then .ok (s.withSlot c.slot (start []))
    else
      match s.sRead p 64 64 with
      | .error (.trap t) =>
        let s1 := if t.cause = causePoison then s.consumed c p else s
        .error (s1.takeTrap c.slot .s { t with tval := p } TrapMode.precise)
      | .error (.park f) => .error (s.park c f)
      | .error .hold => .error (s.setWait c .link)
      | .ok (bs, s1) => .ok (s1.withSlot c.slot (start bs))

/-- Whether the stream at a cursor may move at all: its slot is the active one of its cell, activated, and holds a unit, it has not halted,
no handler runs on the slot but in S, and S has read the parameter block or is about to. -/
def State.mayMove (s : State) (c : Cursor) : Bool :=
  let l := s.slot c.slot
  l.bound.isSome && l.activated && ((s.cell c.slot.cell).active == c.slot.h1) && !(s.stream c).halted && (l.handler.isNone || decide (c.stream = .s)) &&
  (!l.needsParams || decide (c.stream = .s))

/-- The carry of a local window is loaded when S first issues at the body (R274), unless its access races (R295). -/
def State.loadCarry (s : State) (c : Cursor) : Except State State :=
  match (s.slot c.slot).window with
  | some w =>
    if c.stream = .s ∧ w.carryPending ∧ (s.stream c).pc = w.body ∧ (s.slot c.slot).handler.isNone then
      match s.cellRace c (s.carrySpans c.slot w (guessAt 0)) with
      | some t => .error (s.takeTrap c.slot .s t TrapMode.precise)
      | none =>
        .ok ((s.setCarry c.slot w.block (s.guess c.slot w.block 0)).withSlot c.slot (fun l =>
          { l with window := some { w with carryPending := false } }))
    else .ok s
  | none => .ok s

/-- The instruction at the program counter of a stream in its line; an encoding that row 4 to 12 of Table 4.6 rejects is its trap. -/
def State.instrAt (s : State) (c : Cursor) : Instr :=
  let t := s.stream c
  match decode (s.ctx c) (t.line.wordsFrom (wordIndex t.pc)) with
  | .ok i => i
  | .error e => .encodingTrap e

/-- A move of the stream at `cur`. A CANCEL or DEADLINE that is due is taken first, at this boundary (R311). -/
def State.front (s : State) : Front :=
  let c := s.cur
  if !s.mayMove c then .stay s
  else if s.asyncDue c.slot then .stay (s.takeAsync c.slot)
  else
    match (if (s.slot c.slot).needsParams then s.readParams c else .ok s) with
    | .error s1 => .stay s1
    | .ok s1 =>
      match s1.enterLine c with
      | .error s2 => .stay s2
      | .ok s2 =>
        match s2.loadCarry c with
        | .error s3 => .stay s3
        | .ok s3 => .run (s3.interlocked (s3.instrAt c)) (s3.instrAt c)

/-- The last line that a stream has read, early or by entering it; none after a read that met a fault. -/
def StreamSt.lastLine (t : StreamSt) : Option Line :=
  match t.ahead.getLast? with
  | none => some t.line
  | some (.line l) => some l
  | some (.fault _ _) => none

/-- A stream reads the next line of its chain early (R110): not before it has entered the line two links earlier. A fault of the read,
the check of OWNER among them, is noted and raised at the entry; a read that parks or waits is made again there, where it parks. -/
def State.readAhead (s : State) (c : Cursor) : State :=
  let t := s.stream c
  match t.lastLine with
  | none => s
  | some from_ =>
    let va := from_.nextPc - 4
    let note (s : State) (a : Ahead) : State := s.withStream c (fun t => { t with ahead := t.ahead ++ [a] })
    if !s.mayMove c ∨ t.entry ≠ .inLine ∨ 2 ≤ t.ahead.length ∨ from_.last ∨ from_.nextPc = 0 then s
    else
      match s.readLine c va with
      | .ok l => note (s.fetched c va) (.line l)
      | .error (.trap f) => note ((s.fetched c va).countFault (s.binding c.slot) f) (.fault va f)
      | .error _ => s

/-- ENCODING_TRAP (R120): the trap of the row that rejects the instruction at the program counter, with TVAL its code address. -/
def encodingTrapInfo (pc : Nat) (t : DecodeTrap) : TrapInfo :=
  let (cause, sub) := match t with
    | .op => (causeIllop, 0)
    | .fn => (causeIllop, 1)
    | .target => (causeIllop, 4)
    | .len => (causeIlllen, 0)
    | .spill => (causeIlllen, 1)
    | .short => (causeIlllen, 2)
    | .opcode => (causeIllstream, 0)
    | .token => (causeIllstream, 2)
    | .priv => (causePriv, 0)
    | .reg => (causeIllreg, 0)
  trapAt cause sub pc

/-- Whether the stream at `cur` stands before words that decoding rejects by a row (Table 4.6). -/
def State.rejects (s : State) (t : DecodeTrap) : Bool :=
  s.mayMove s.cur && decide (s.me.entry = .inLine) && decide (s.instrAt s.cur = .encodingTrap t)

/-- The trap is taken where decoding rejects the words at the program counter by that row, and nowhere else. -/
def execEncodingTrap (t : DecodeTrap) (s : State) : Host.Outcome State Fault Refusal :=
  s.whenBound (fun s =>
    if s.rejects t then s.takeTrap s.cur.slot s.cur.stream (encodingTrapInfo s.me.pc t) TrapMode.precise else s)

/-! ### Placing a program -/

/-- The slot and the code address at which `withFetchWord` places a program. -/
def placedSlot : SlotId := { cell := 0, h1 := false }
def placedLine : Nat := 0x400000

/-- Bytes of a page-table entry at an index of a table. -/
def entryCells (table index value : Nat) : Nat × List Byte := (table + 8 * index, bytesOf 8 value)

/-- Page tables of five levels from 0x1000 that map the 2 MiB page at 0x400000 to itself, readable, writable and executable, and one
code line there that a stream owns, with LAST set. -/
def placedMemory (st : Stream) (words : List Nat) : List (Nat × List Byte) :=
  [entryCells 0x1000 0 0x2001, entryCells 0x2000 0 0x3001, entryCells 0x3000 0 0x4001, entryCells 0x4000 2 (0x400000 + 0x1F),
   (placedLine, bytesOf 4 (st.code * 2 ^ 30 + 0x10 + words.length) ++ words.flatMap (bytesOf 4))]

/-- The binding of a unit alone in its team, on cell 0, of micro-context 1 of partition 0. -/
def placedBinding : Binding :=
  { unit := { launch := 1, index := 0 }, handle := 1, home := 0, part := 0, prot := false, base := 0, size := 1, root := 0x1000,
    keySlot := 0, windows := [(0, 0), (0, 0), (0, 0), (0, 0)], area := 0, boundAt := 0 }

/-- The launch of that unit, of a job of a graph of its own. -/
def placedLaunch : Launch :=
  let r : LaunchRec := { sentry := placedLine + 4, ventry := placedLine + 4, mentry := placedLine + 4, xentry := placedLine + 4, param := 0,
                         items := 1, gsize := 0, pantry := false }
  { newLaunch 1 1 2 0 r 1 0 with group := some 0, units := [{ UnitSt.blank with status := .bound placedSlot }] }

/-- The job of that launch. -/
def placedJob : Job :=
  { mc := 1, source := .stream, lrec := 0, param := 0, graphs := [{ phase := 0, count := Counter.one }], phases := [Counter.one], job := Counter.one, deadline := none,
    everBound := true, route := 0, port := 0, seq := 0, failCause := 0, failOrder := 0 }

/-- The micro-context of that job. -/
def placedMc : MicroContext := { MicroContext.blank with state := .bound, root := 0x1000, quota := 1, job := some 2 }

/-- A stream at the placed line, or halted. -/
def placedStream (runs sup : Bool) : StreamSt := { StreamSt.blank with pc := placedLine + 4, halted := !runs, sup := sup }

/-- Whether an instruction is executed in supervisor mode only. -/
def needsSupervisor : Instr → Bool
  | .eret _ => true
  | _ => false

/-- The streams whose tokens an instruction waits for: that of its WAIT field, and TKWAIT's own. -/
def waitOf (i : Instr) : List Stream :=
  let own := match i with
    | .tkwait _ src => [src]
    | _ => []
  match i.hdr with
  | some h => h.wait.toList ++ own
  | none => own

/-- A state in which a stream of a bound unit stands before some words, with the tokens that the instruction there waits for. -/
def State.placeWords (s : State) (st : Stream) (i : Instr) (words : List Nat) : State :=
  let mem := (placedMemory st words).foldl (fun m e => Memory.write m e.1 e.2) s.mem
  let sup := needsSupervisor i
  let slot : Slot :=
    { Slot.blank with
      bound := some placedBinding
      s := placedStream (decide (st = .s)) sup, v := placedStream (decide (st = .v)) false
      m := placedStream (decide (st = .m)) false, x := placedStream (decide (st = .x)) false
      activated := true }
  let slot1 := (waitOf i).foldl (fun l p => l.withTokens p st (· + 1)) slot
  { s with
    agenda := [], cur := { slot := placedSlot, stream := st }, mem := mem
    cells := Map.set s.cells 0 { CellSt.blank with h0 := slot1 }
    launches := Map.set s.launches 1 placedLaunch, jobs := Map.set s.jobs 2 placedJob, mcs := Map.set s.mcs 1 placedMc
    fresh := max s.fresh 3 }

end Sys2Proof.Machine
end

