-- ==== Sys2Proof/Machine/Landing.lean ====
section
/-! DEFINITION. Events of a context slot: the landing of a V result, the taking of an asynchronous trap, the retry of a parked access and
the deadline of MASKW. -/

namespace Sys2Proof.Machine

/-- Whether a slot holds a unit, is the active slot of its cell, and runs no handler. -/
def State.slotRuns (s : State) (u : SlotId) : Bool :=
  (s.slot u).bound.isSome && ((s.cell u.cell).active == u.h1) && (s.slot u).handler.isNone

/-- The oldest V result with no beats left lands (R210); after V has halted, beats go on (R18, R24). A landing in a tile that the slot
does not own traps ACCFIRST first (R331). -/
def State.vLand (s : State) (u : SlotId) : State :=
  let due (l : Slot) : Bool := l.vflight.any (fun e => decide (e.offset = 0))
  let l := s.slot u
  let s1 := if !due l && l.v.halted then s.withSlot u Slot.beat else s
  match s1.landingTrap u with
  | some t => s1.takeTrap u .v t TrapMode.precise
  | none => (s1.landOldest u).settleUnit u

/-- V_RESULT_LAND. -/
def execVResultLand (u : SlotId) (s : State) : Host.Outcome State Fault Refusal := .next (if s.slotRuns u then s.vLand u else s)

/-- ASYNC_TRAP_TAKE: at instruction boundaries of the slot's streams (R311, R316). -/
def execAsyncTrapTake (u : SlotId) (s : State) : Host.Outcome State Fault Refusal := .next (if s.slotRuns u then s.takeAsync u else s)

/-- Whether the wait of a parked stream has ended: its frame is no longer absent (R61). -/
def parkOver (s : State) (w : Waiting) : Bool :=
  match w.on with
  | .segment f => (Map.find s.residency f).isSome
  | _ => false

/-- The retry of a parked access (R61): X command `k` takes its access again; another stream's instruction is retried by its next move,
which the end of its wait allows. -/
def State.retryPark (s : State) (u : SlotId) (stream : Stream) (k : Nat) : State :=
  match stream with
  | .x => if optAny ((s.slot u).xqueue[k]?) (fun c => optAny c.parked (fun f => (Map.find s.residency f).isSome)) then s.xElem u k
          else s.withStream { slot := u, stream := .x } (fun t => if optAny t.waiting (parkOver s) then { t with waiting := none } else t)
  | st => s.withStream { slot := u, stream := st } (fun t => if optAny t.waiting (parkOver s) then { t with waiting := none } else t)

/-- PARK_RETRY. -/
def execParkRetry (u : SlotId) (stream : Stream) (k : Nat) (s : State) : Host.Outcome State Fault Refusal :=
  .next (if s.slotRuns u then s.retryPark u stream k else s)

/-- A MASKW that waits meets its deadline (R287). -/
def State.maskLimit (s : State) (u : SlotId) : State :=
  let c : Cursor := { slot := u, stream := .s }
  match (s.stream c).waiting with
  | some w =>
    if w.on = .mask then
      (match s.instrAt c with
       | .maskw h a b =>
         s.atCursor c (fun s1 => if maskLate s1.cyc (s1.rg b) then s1.issueTo h .none (outsideWindow (maskwEffect a b)) else s1)
       | _ => s)
    else s
  | none => s

/-- MASKW_DEADLINE. -/
def execMaskwDeadline (u : SlotId) (s : State) : Host.Outcome State Fault Refusal := .next (if s.slotRuns u then s.maskLimit u else s)

end Sys2Proof.Machine
end

