-- ==== Sys2Proof/Machine/Walks.lean ====
section
/-! DEFINITION. Translation buffers and the walkers: walks that fill a buffer (R55 to R57), invalidations (R58, R59), and the results of
commands to the engines of a die (R201, R203). -/

namespace Sys2Proof.Machine

/-! ### Results of commands -/

/-- The commands that wait at an engine of a die, oldest first. -/
def State.waitingAt (s : State) (die : Nat) (e : Engine) : List Command :=
  s.commands.filter (fun c => decide (c.die = die) && decide (c.engine = e))

/-- The 16 bytes of a result: TAG, STATUS, zeros (R58, R285, R356). -/
def resultBytes (tag status : Nat) : List Byte := bytesOf 8 tag ++ bytesOf 1 status ++ zeros 7

/-- Results by the order of their commands (R201). -/
def insertResult (r : Result) : List Result → List Result
  | [] => [r]
  | x :: t => if r.id < x.id then r :: x :: t else x :: insertResult r t

/-- Whether a unit has not ended. -/
def State.unitLives (s : State) (r : UnitRef) : Bool := optAny (s.unit r) (fun u => !u.status.isEnded)

/-- An engine answers a command with its one result: to the registers of the VF that submitted it (R399), or to the unit's queue; the
results of a unit that has ended are discarded (R203). -/
def State.answer (s : State) (c : Command) (bytes : List Byte) : State :=
  let s1 := { s with commands := s.commands.filter (fun x => decide (x.id ≠ c.id)) }
  if c.vf ≠ 0 then { s1 with vfs := Map.put VfWalker.blank s1.vfs c.vf { Map.get VfWalker.blank s1.vfs c.vf with wres := bytes, wgo := false } }
  else if s.unitLives c.unit then
    { s1 with results := insertResult { id := c.id, engine := c.engine, unit := c.unit, bytes := bytes, direct := c.direct } s1.results }
  else s1

/-- Whether an earlier command of the same unit waits at the same engine. -/
def State.behindAnother (s : State) (c : Command) (p : Command → Bool) : Bool :=
  s.commands.any (fun x => decide (x.unit = c.unit) && decide (x.engine = c.engine) && decide (x.vf = c.vf) && decide (x.id < c.id) && p x)

/-! ### Walks -/

/-- Entries of a first-level buffer (Table 2.8). -/
def firstSize : Stream → Nat
  | .s => 32
  | .v => 32
  | .m => 64
  | .x => 64

/-- Entries of a shared buffer (Table 2.8). -/
def sharedSize (cell : Nat) : Nat := if isPantry cell then 1024 else 4096

/-- Put an entry into a buffer of n entries: an entry for the same page is replaced, and the oldest is dropped where none is free. -/
def fillBuffer (n : Nat) (e : BufferEntry) (es : List BufferEntry) : List BufferEntry :=
  let es1 := es.filter (fun x => !(decide (x.handle = e.handle) && decide (x.va = e.va) && decide (x.size = e.size)))
  (if n ≤ es1.length then es1.drop (es1.length + 1 - n) else es1) ++ [e]

/-- Whether a leaf may be cached: a SEG leaf only while its frame is resident (R60). -/
def State.mayCache (s : State) (leaf pa : Nat) : Bool := !bitOf leaf 6 || decide (Map.find s.residency (frameOf pa) = some .resident)

/-- A walk for a stream of a bound unit completes (R57): a page that passes rows 1 to 5 of Table 2.7 fills the named buffer (R56). -/
def State.walkFills (s : State) (u : SlotId) (stream : Stream) (va : Nat) (fill : BufferLevel) : State :=
  match (s.slot u).bound with
  | none => s
  | some b =>
    match s.walk b.part b.root va with
    | .error _ => s.countWalk b.part b.root va
    | .ok (lv, leaf) =>
      if !s.mayCache leaf (pageBase lv leaf) then s
      else
        let e : BufferEntry := { handle := b.handle, va := alignDown va (pageSize lv leaf), size := pageSize lv leaf, leaf := leaf }
        match fill with
        | .first => s.withStream { slot := u, stream := stream } (fun t => { t with buffer := fillBuffer (firstSize stream) e t.buffer })
        | .shared =>
          let k := bufferOf u.cell
          { s with buffers := Map.put [] s.buffers k (fillBuffer (sharedSize u.cell) e (Map.get [] s.buffers k)) }

/-- PAGE_WALK. -/
def execPageWalk (u : SlotId) (stream : Stream) (va : Word) (fill : BufferLevel) (s : State) : Host.Outcome State Fault Refusal :=
  .next (if space va = 0 ∧ rankField va = 0 then s.walkFills u stream (offset va) fill else s)

/-! ### Invalidation -/

/-- A slot whose first-level buffers keep the entries that meet a test. -/
def Slot.keepEntries (l : Slot) (keep : BufferEntry → Bool) : Slot :=
  let f (t : StreamSt) : StreamSt := { t with buffer := t.buffer.filter keep }
  { l with s := f l.s, v := f l.v, m := f l.m, x := f l.x }

/-- Drop from every first-level, cluster and pantry buffer of all dies the entries that meet a test (R59). -/
def State.purge (s : State) (p : BufferEntry → Bool) : State :=
  let keep (e : BufferEntry) : Bool := !p e
  let s1 := (s.cells.map (·.1)).foldl (fun s c =>
    s.withCell c (fun k => { k with h0 := k.h0.keepEntries keep, h1 := k.h1.keepEntries keep })) s
  (s.buffers.map (·.1)).foldl (fun s k =>
    { s with buffers := Map.put [] s.buffers k ((Map.get [] s.buffers k).filter keep) }) s1

/-- Whether an entry of a handle overlaps n bytes from an address; a page that overlaps by one byte is removed in full (R59). -/
def BufferEntry.overlaps (e : BufferEntry) (handle va n : Nat) : Bool :=
  decide (e.handle = handle) && decide (e.va < va + n) && decide (va < e.va + e.size) && decide (0 < n)

/-- Fields of a walker command (Table 2.9). -/
def walkOp (bs : List Byte) : Nat := byteAt bs 0
def walkHandle (bs : List Byte) : Nat := natAt bs 1 2

/-- Whether a walker command is invalid (Table 2.9). -/
def walkBad (bs : List Byte) : Bool :=
  !([1, 2, 3].contains (walkOp bs)) || decide (4096 ≤ walkHandle bs) || decide (4 ≤ byteAt bs 3) || !zeroAt bs 4 4

/-- Whether a walker command is not permitted: in user mode, another handle or OP 3 (R58); through a VF, a handle of another partition
or OP 3 (R399). -/
def State.walkDenied (s : State) (c : Command) : Bool :=
  let op := walkOp c.bytes
  if c.vf ≠ 0 then decide (op = 3) || decide ((s.mc (walkHandle c.bytes)).part + 1 ≠ c.vf)
  else c.user && (decide (op = 3) || decide (walkHandle c.bytes ≠ c.handle))

/-- Carry out a walker command (R58, R59). -/
def State.walkerCommand (s : State) (c : Command) : State :=
  let bs := c.bytes
  let tag := natAt bs 24 8
  if walkBad bs then s.answer c (resultBytes tag 2)
  else if s.walkDenied c then s.answer c (resultBytes tag 1)
  else
    let h := walkHandle bs
    let s1 := match walkOp bs with
      | 1 => s.purge (fun e => e.overlaps h (alignDown (natAt bs 8 8) 4096) (alignUp (natAt bs 16 8) 4096))
      | 2 => s.purge (fun e => decide (e.handle = h))
      | _ => s.purge (fun _ => true)
    s1.answer c (resultBytes tag 0)

/-- The oldest command that waits at the walker of a die takes effect, if its OP meets a test: results return in command order per die
(Table 2.10), so no later command can. -/
def State.walkerServes (s : State) (die k : Nat) (p : Nat → Bool) : State :=
  match k, s.waitingAt die .walker with
  | 0, c :: _ => if p (walkOp c.bytes) then s.walkerCommand c else s
  | _, _ => s

/-- WALKER_INVALIDATE_RANGE; a command with an OP that names no operation is answered here too. -/
def execWalkerInvalidateRange (die k : Nat) (s : State) : Host.Outcome State Fault Refusal :=
  .next (s.walkerServes die k (fun op => op != 2 && op != 3))

/-- WALKER_INVALIDATE_HANDLE. -/
def execWalkerInvalidateHandle (die k : Nat) (s : State) : Host.Outcome State Fault Refusal := .next (s.walkerServes die k (fun op => op == 2))

/-- WALKER_INVALIDATE_ALL. -/
def execWalkerInvalidateAll (die k : Nat) (s : State) : Host.Outcome State Fault Refusal := .next (s.walkerServes die k (fun op => op == 3))

/-- A write of 1 to the WGO of a VF: WCMD goes to the walker of the die that its byte 3 names (R399). While WGO reads 1 the write is
ignored. -/
def State.submitWalk (s : State) (vf : Nat) : State :=
  let w := Map.get VfWalker.blank s.vfs vf
  if w.wgo ∨ vf = 0 ∨ 16 < vf then s
  else
    let (n, s1) := s.next
    let bytes := w.wcmd ++ zeros (32 - w.wcmd.length)
    let c : Command :=
      { id := n, die := byteAt bytes 3 % 4, engine := .walker, unit := { launch := 0, index := 0 }, slot := { cell := 0, h1 := false },
        user := false, handle := 0, bytes := bytes, direct := false, ordinal := none, vf := vf, route := none }
    { s1 with commands := s1.commands ++ [c], vfs := Map.put VfWalker.blank s1.vfs vf { w with wgo := true } }

/-- WALKER_HOST_SUBMIT. -/
def execWalkerHostSubmit (vf : Nat) (s : State) : Host.Outcome State Fault Refusal := .next (s.submitWalk vf)

end Sys2Proof.Machine
end

