-- ==== Sys2Proof/Machine/Transport.lean ====
section
/-! DEFINITION. What leaves the Ethernet ports: sealed service frames (R411, R412), and the packets and messages of the peer transport
(R414, R416, R417). -/

namespace Sys2Proof.Machine

/-- The 32 bytes of a key slot; none while it holds no key. -/
def State.keyBytes (s : State) (slot : Nat) : Option (List Byte) := (Map.find s.keys slot).map (bytesOf 32)

/-- The key by which the module seals under a slot. -/
def State.sealingKey (s : State) (slot : Nat) : List Byte := (s.keyBytes slot).getD (Config.absentKey slot)

/-- The nonce of a service frame (R412). -/
def frameNonce (type stream handle seq : Nat) : List Byte := bytesOf 4 (type * 2 ^ 24 + stream % 4096 * 2 ^ 12 + handle % 4096) ++ bytesOf 8 seq

/-- The header of a service frame (Table 21.8). -/
def frameHeader (type stream handle seq : Nat) : List Byte :=
  bytesOf 1 1 ++ bytesOf 1 type ++ bytesOf 2 handle ++ bytesOf 8 seq ++ bytesOf 2 stream ++ zeros 2

/-- Die of an Ethernet port. -/
def dieOfPort (port : Nat) : Nat := port / 2

/-- Whether a port is down (R356). -/
def State.portIsDown (s : State) (port : Nat) : Bool := Map.get false s.portDown port

/-- Something leaves the module. -/
def State.emit (s : State) (o : Output) : State := { s with out := s.out ++ [o] }

/-- A sealed service frame of a micro-context leaves from a port, as the payload of its datagram. -/
def State.sendFrame (s : State) (port handle type stream seq : Nat) (plain : List Byte) : State :=
  let head := frameHeader type stream handle seq
  s.emit (.frame port (head ++ gcmSeal (s.sealingKey (s.mc handle).keySlot) (frameNonce type stream handle seq) head plain))

/-! ### Packets of the peer transport -/

/-- Cycles of a microsecond at the nominal clock. -/
def usCycles : Nat := 1000

/-- A peer entry. -/
def State.peer (s : State) (p : Nat) : Peer := Map.get Peer.blank s.peers p

/-- Change a peer entry. -/
def State.withPeer (s : State) (p : Nat) (f : Peer → Peer) : State := { s with peers := Map.put Peer.blank s.peers p (f (s.peer p)) }

/-- A channel of a peer entry. -/
def Peer.chan (p : Peer) (c : Nat) : Channel := Map.get Channel.blank p.chans c

/-- Change a channel of a peer entry. -/
def Peer.withChan (p : Peer) (c : Nat) (f : Channel → Channel) : Peer := { p with chans := Map.put Channel.blank p.chans c (f (p.chan c)) }

/-- The nonce of a peer packet (R414); `index` is the sender's peer index. -/
def packetNonce (chan index seq : Nat) : List Byte := bytesOf 4 (0xF0 * 2 ^ 24 + chan * 2 ^ 12 + index) ++ bytesOf 8 seq

/-- The header of a peer packet (Table 21.13). -/
def packetHeader (chan index seq : Nat) : List Byte := bytesOf 1 1 ++ bytesOf 1 0xF0 ++ bytesOf 2 (index + chan * 2 ^ 12) ++ bytesOf 8 seq ++ zeros 4

/-- The lowest port that may carry a peer's traffic and is not down. -/
def State.peerPort (s : State) (p : Nat) : Option Nat := (List.range 8).find? (fun k => bitOf (s.peer p).ports k && !s.portIsDown k)

/-- The bytes of packet `num` of a channel to a peer, sealed under the pair's key (R414, R416). -/
def State.packetBytes (s : State) (p chan num : Nat) (plain : List Byte) : List Byte :=
  let e := s.peer p
  let seq := e.epoch * 2 ^ 48 + num
  let head := packetHeader chan s.localIndex seq
  head ++ gcmSeal (s.sealingKey e.keySlot) (packetNonce chan s.localIndex seq) head plain

/-- The service MAC and IPv6 address of a port, with the UDP port of a peer's entry (R415); zero where PORT has set none. -/
def State.peerEnd (s : State) (p port : Nat) : ServiceAddr :=
  match Map.find s.ports port with
  | some a => { a with udp := (s.peer p).udp }
  | none => { udp := (s.peer p).udp, mac := 0, ipv6 := 0 }

/-- Bytes of a packet leave for a peer, from the port's service address to the entry's address (R415). -/
def State.emitPacket (s : State) (p : Nat) (bytes : List Byte) : State :=
  match s.peerPort p with
  | none => s
  | some k => s.emit (.peerPacket k (s.peerEnd p k) { udp := (s.peer p).udp, mac := (s.peer p).mac, ipv6 := (s.peer p).ipv6 } bytes)

/-- Packet `num` of a channel leaves for a peer (R416, R417). -/
def State.sendPacket (s : State) (p chan num : Nat) (plain : List Byte) : State := s.emitPacket p (s.packetBytes p chan num plain)

/-- Bit j of MAP: packet CUM + 2 + j has been received (Table 21.14). -/
def Channel.mapBits (c : Channel) : Nat := ((List.range 64).map (fun j => bit01 (c.held.any (fun e => decide (e.1 = c.cum + 2 + j))) * 2 ^ j)).sum

/-- The control record of channel 0 (R416): KIND 1 HELLO, 2 ACK. -/
def Peer.controlRecord (e : Peer) (kind : Nat) : List Byte :=
  bytesOf 1 kind ++ zeros 7 ++ bytesOf 8 e.epoch ++
  (List.range 5).flatMap (fun i => bytesOf 8 (e.chan (i + 1)).cum ++ bytesOf 8 (e.chan (i + 1)).mapBits)

/-- Send a control record under a fresh packet number of channel 0 (R417). -/
def State.sendControl (s : State) (p kind : Nat) : State :=
  let e := s.peer p
  (s.sendPacket p 0 e.next0 (e.controlRecord kind)).withPeer p (fun e =>
    { e with next0 := e.next0 + 1, ackDue := if kind = 2 then none else e.ackDue })

/-- Send the fragments that wait while fewer than 256 packets of the channel are unacknowledged (R417). -/
def State.pump (s : State) (p chan : Nat) : Nat → State
  | 0 => s
  | n + 1 =>
    let c := (s.peer p).chan chan
    match c.waiting with
    | [] => s
    | f :: rest =>
      if 256 ≤ c.unacked.length then s
      else
        let sent : SentPacket := { num := c.next, bytes := s.packetBytes p chan c.next f, sentAt := s.cyc, retries := 0, interval := 50 * usCycles }
        ((s.sendPacket p chan c.next f).withPeer p (fun e => e.withChan chan (fun c =>
          { c with next := c.next + 1, waiting := rest, unacked := c.unacked ++ [sent] }))).pump p chan n

/-- The fragments of a message from an offset on: MSGLEN, OFFSET and at most 8,192 bytes each (R416). -/
def fragments (msg : List Byte) (off : Nat) : Nat → List (List Byte)
  | 0 => []
  | n + 1 => (bytesOf 4 msg.length ++ bytesOf 4 off ++ (msg.drop off).take 8192) :: fragments msg (off + 8192) n

/-- A message (R416): MTYPE, MTAG and the body. -/
def messageBytes (mtype mtag : Nat) (body : List Byte) : List Byte := bytesOf 2 mtype ++ zeros 6 ++ bytesOf 8 mtag ++ body

/-- Send a message on a channel to a peer that is UP; towards any other peer nothing is sent. -/
def State.sendMessage (s : State) (p mtype mtag : Nat) (body : List Byte) : State :=
  let chan := mtype / 256
  if (s.peer p).state ≠ .up then s
  else
    let msg := messageBytes mtype mtag body
    let fs := fragments msg 0 (max 1 (ceilDiv msg.length 8192))
    (s.withPeer p (fun e => e.withChan chan (fun c => { c with waiting := c.waiting ++ fs }))).pump p chan fs.length

end Sys2Proof.Machine
end

