-- ==== Sys2Proof/Machine/Engines.lean ====
section
/-! DEFINITION. The Siphon's commands (R434), the egress engine (R356) and the collective engine (R285). -/

namespace Sys2Proof.Machine

/-! ### Addresses of a command -/

/-- The number of a byte that an engine reaches for a command (R47 to R54): space 1 is the own cell store of the issuing cell, which no
other unit may have taken since. -/
def State.commandPlace (s : State) (c : Command) (kind : Access) (a : Word) : Except Stop Nat :=
  if space a = 1 then
    let own := match (s.slot c.slot).bound with
      | some b => decide (b.unit = c.unit) && s.ownStoreOk c.slot (offset a) 1
      | none => decide (offset a < 2 ^ 20)
    if decide (rankField a = 0) && own then .ok (cellStoreAt c.slot.cell + offset a) else .error (trap0 causeSpace a)
  else
    match s.mcPlace c.handle kind a with
    | .ok k => s.throughLink (s.mc c.handle).part kind k
    | .error e => .error e

/-- What the check of a range of a command finds. -/
inductive RangeCheck where
  | ok (places : List Nat)
  | faults
  | waits (frames : List Nat)
  deriving DecidableEq, Repr

/-- The frames whose segments a range waits for. -/
def RangeCheck.frames : RangeCheck → List Nat
  | .waits fs => fs
  | _ => []

/-- Whether a range waits. -/
def RangeCheck.isWait : RangeCheck → Bool
  | .waits _ => true
  | _ => false

/-- Raise the urgency of the segments that a command waits for to 7 (R285, R356). -/
def State.urgeAll (s : State) (frames : List Nat) : State := frames.foldl (fun s f => s.urge f 7) s

/-- Check n bytes from an address for a command: a fault anywhere comes before a wait, which is for every absent segment in the range, or
for the host link. -/
def State.commandRange (s : State) (c : Command) (kind : Access) (a : Word) : Nat → RangeCheck
  | 0 => .ok []
  | n + 1 =>
    match s.commandPlace c kind a, s.commandRange c kind (a + 1) n with
    | .error (.trap _), _ => .faults
    | _, .faults => .faults
    | .error (.park f), .waits fs => .waits (f :: fs)
    | .error (.park f), .ok _ => .waits [f]
    | .error .hold, .waits fs => .waits fs
    | .error .hold, .ok _ => .waits []
    | .ok _, .waits fs => .waits fs
    | .ok k, .ok ks => .ok (k :: ks)

/-- Count what a command's access to a range has met of lines whose slots hold no key: bytes reached, or a walk that failed (R404). -/
def State.commandCount (s : State) (c : Command) (kind : Access) (a : Word) (n : Nat) : State :=
  match s.commandRange c kind a n with
  | .ok ks => s.countEach ks
  | .waits _ => s
  | .faults =>
    ((List.range n).findSome? (fun i => match s.commandPlace c kind (a + BitVec.ofNat 64 i) with
      | .error (.trap t) => some t
      | _ => none)).elim s (fun t => s.countFault (s.mcBinding c.handle) t)

/-! ### The Siphon -/

/-- The segment registered on a frame, in the table of the frame's home die. -/
def State.segmentAt (s : State) (frame : Nat) : Option Segment :=
  (Map.get [] s.segments (homeDie (frame * 2 ^ 21))).find? (fun e => decide (e.frame = frame))

/-- State of a frame as the Siphon reports it: 0 absent, 1 resident, 2 failed (R434). -/
def State.frameState (s : State) (frame : Nat) : Nat :=
  match Map.find s.residency frame with
  | none => 0
  | some .resident => 1
  | some .failed => 2

/-- The frame of the SEG leaf that maps an address of a micro-context, if one does (R434). -/
def State.segFrame (s : State) (h : Nat) (va : Word) : Option Nat :=
  if space va ≠ 0 ∨ rankField va ≠ 0 then none
  else
    match s.walk (s.mc h).part (s.mc h).root (offset va) with
    | .error _ => none
    | .ok (lv, leaf) => if bitOf leaf 6 then some (frameOf (pageBase lv leaf)) else none

/-- Count the walk of an address of a Siphon command that fails at a table without a key (R404). -/
def State.countSeg (s : State) (h : Nat) (va : Word) : State :=
  if space va ≠ 0 ∨ rankField va ≠ 0 then s
  else
    match s.walk (s.mc h).part (s.mc h).root (offset va) with
    | .error _ => s.countWalk (s.mc h).part (s.mc h).root (offset va)
    | .ok _ => s

/-- Whether a Siphon command is invalid (R434). -/
def siphonBad (bs : List Byte) : Bool :=
  !([1, 2].contains (byteAt bs 0)) || (decide (byteAt bs 0 = 2) && decide (8 ≤ byteAt bs 1)) || !zeroAt bs 2 6 || !zeroAt bs 16 8 ||
  decide (space (BitVec.ofNat 64 (natAt bs 8 8)) ≠ 0)

/-- Carry out a Siphon command (R434). -/
def State.siphonCommand (s : State) (c : Command) : State :=
  let bs := c.bytes
  let tag := natAt bs 24 8
  let result (status state urgency : Nat) : List Byte := bytesOf 8 tag ++ bytesOf 1 status ++ bytesOf 1 state ++ bytesOf 1 urgency ++ zeros 5
  if siphonBad bs then s.answer c (result 1 0 0)
  else
    match s.segFrame c.handle (BitVec.ofNat 64 (natAt bs 8 8)) with
    | none => (s.countSeg c.handle (BitVec.ofNat 64 (natAt bs 8 8))).answer c (result 2 0 0)
    | some f =>
      let s1 := if byteAt bs 0 = 2 ∧ s.frameState f = 0 then s.urge f (byteAt bs 1) else s
      s1.answer c (result 0 (s1.frameState f) ((s1.segmentAt f).elim 0 (·.urgency)))

/-- Command `k` that waits at the Siphon of a die, if its OP meets a test and no earlier one of its unit waits there. -/
def State.siphonServes (s : State) (die k : Nat) (p : Nat → Bool) : State :=
  match (s.waitingAt die .siphon)[k]? with
  | some c => if p (byteAt c.bytes 0) && !s.behindAnother c (fun _ => true) then s.siphonCommand c else s
  | none => s

/-- SIPHON_QUERY; a command with an OP that names no operation is answered here too. -/
def execSiphonQuery (die k : Nat) (s : State) : Host.Outcome State Fault Refusal := .next (s.siphonServes die k (fun op => op != 2))

/-- SIPHON_URGE. -/
def execSiphonUrge (die k : Nat) (s : State) : Host.Outcome State Fault Refusal := .next (s.siphonServes die k (fun op => op == 2))

/-! ### The egress engine -/

/-- Whether an egress command is invalid (Table 14.6). -/
def egressBad (bs : List Byte) : Bool :=
  let len := natAt bs 32 4
  decide (byteAt bs 0 ≠ 1) || !zeroAt bs 1 7 || decide (len = 0) || decide (8128 < len) || !zeroAt bs 36 4 || !zeroAt bs 48 16 ||
  !([0, 1, 5].contains (space (BitVec.ofNat 64 (natAt bs 24 8))))

/-- Carry out an egress command (R356): the first status of BADDESC, ROUTE, FAULT and LINKDOWN that applies, a wait for a segment, or the
reply, sealed under the micro-context's key (R412). -/
def State.egressCommand (s : State) (c : Command) : State :=
  let bs := c.bytes
  let tag := natAt bs 40 8
  if egressBad bs then s.answer c (resultBytes tag 1)
  else
    match c.route with
    | none => s.answer c (resultBytes tag 2)
    | some (route, port) =>
      if natAt bs 8 8 ≠ route.toNat then s.answer c (resultBytes tag 2)
      else
        match s.commandRange c .load (BitVec.ofNat 64 (natAt bs 24 8)) (natAt bs 32 4) with
        | .faults => (s.commandCount c .load (BitVec.ofNat 64 (natAt bs 24 8)) (natAt bs 32 4)).answer c (resultBytes tag 4)
        | .waits fs => s.urgeAll fs
        | .ok ks =>
          if s.portIsDown port then s.answer c (resultBytes tag 3)
          else ((s.countEach ks).sendFrame port c.handle 2 0 (natAt bs 16 8) (s.loadEach ks)).answer c (resultBytes tag 0)

/-- EGRESS_REPLY: replies from one slot leave in command order. -/
def execEgressReply (die k : Nat) (s : State) : Host.Outcome State Fault Refusal :=
  .next (match (s.waitingAt die .egress)[k]? with
    | some c => if s.behindAnother c (fun _ => true) then s else s.egressCommand c
    | none => s)

/-! ### Collectives -/

/-- Fields of a collective command (Table 11.7). -/
def collOp (bs : List Byte) : Nat := byteAt bs 0
def collType (bs : List Byte) : Nat := byteAt bs 1
def collRoot (bs : List Byte) : Nat := natAt bs 2 2
def collCount (bs : List Byte) : Nat := natAt bs 4 4
def collSrc (bs : List Byte) : Word := BitVec.ofNat 64 (natAt bs 8 8)
def collDst (bs : List Byte) : Word := BitVec.ofNat 64 (natAt bs 16 8)
def collGroup (bs : List Byte) : Nat := natAt bs 24 8
def collTag (bs : List Byte) : Nat := natAt bs 32 8

/-- Bytes of an element (Table 11.7): 8 for max-with-index. -/
def collElem (bs : List Byte) : Nat := if collOp bs = 1 ∧ collType bs = 1 then 8 else 4

/-- Bytes of a member's data. -/
def collSize (bs : List Byte) : Nat := collCount bs * collElem bs

/-- Members in the order of their ranks on this module: by die, then by TEAM.INDEX (R285). -/
def insertMember (m : Member) : List Member → List Member
  | [] => [m]
  | x :: t => if m.die < x.die ∨ (m.die = x.die ∧ m.team < x.team) then m :: x :: t else x :: insertMember m t

/-- The members of a group on this module in rank order. -/
def Group.ranked (g : Group) : List Member := g.members.foldl (fun l m => insertMember m l) []

/-- Members of a group on all packages. -/
def Group.size (g : Group) : Nat := g.members.length + (g.peers.map (·.count)).sum

/-- The rank of the first member on this module: packages come in ascending package rank. -/
def Group.firstRank (g : Group) : Nat := ((g.peers.filter (fun p => decide (p.rank < g.rank))).map (·.count)).sum

/-- Whether a command is invalid for its group (R285). -/
def collBad (g : Group) (team : Nat) (bs : List Byte) : Bool :=
  let es := collElem bs
  let ok (a : Word) : Bool := [0, 1, 5].contains (space a) && decide (offset a % es = 0)
  !([1, 2, 3].contains (collOp bs)) || (decide (collOp bs = 1) && decide (3 ≤ collType bs)) || decide (collCount bs = 0) ||
  decide (2 ^ 24 < collCount bs) || !ok (collSrc bs) || !ok (collDst bs) || !zeroAt bs 40 8 ||
  (decide (collOp bs = 2) && decide (g.size ≤ collRoot bs)) || !g.members.any (fun m => decide (m.team = team))

/-- Bytes that a command writes at DST: a gather takes the data of every member. -/
def collDstSize (g : Group) (bs : List Byte) : Nat := collSize bs * (if collOp bs = 3 then g.size else 1)

/-- The absent frames that a command waits for at its engine: a reply for those of its payload (R356), and a collective that has taken its
ordinal for those of its SRC and DST (R285). -/
def State.commandFrames (s : State) (c : Command) : List Nat :=
  let range (kind : Access) (a : Word) (n : Nat) : List Nat := (s.commandRange c kind a n).frames
  match c.engine with
  | .egress => if egressBad c.bytes ∨ s.behindAnother c (fun _ => true) then [] else range .load (BitVec.ofNat 64 (natAt c.bytes 24 8)) (natAt c.bytes 32 4)
  | .collective =>
    (match Map.find s.groups (collGroup c.bytes) with
     | some g => if c.ordinal.isNone then [] else range .load (collSrc c.bytes) (collSize c.bytes) ++ range .store (collDst c.bytes) (collDstSize g c.bytes)
     | none => [])
  | _ => []

/-- Give a command its member's next ordinal (R285). -/
def State.takeOrdinal (s : State) (c : Command) (n : Nat) (g : Group) : State :=
  let next := (g.members.find? (fun m => decide (m.team = c.unit.index))).elim 0 (·.next)
  { s with
    groups := Map.set s.groups n { g with members := g.members.map (fun m => if m.team = c.unit.index then { m with next := m.next + 1 } else m) }
    commands := s.commands.map (fun x => if x.id = c.id then { x with ordinal := some next } else x) }

/-- A command is submitted (R285): BADDESC and FAULT are answered at once and take no ordinal; a SEG page whose segment is absent raises
its urgency. -/
def State.submitCollective (s : State) (c : Command) : State :=
  let bs := c.bytes
  let fail (status : Nat) : State := s.answer c (resultBytes (collTag bs) status)
  match (if collGroup bs < 256 then Map.find s.groups (collGroup bs) else none) with
  | none => fail 2
  | some g =>
    if decide (g.handle ≠ c.handle) || collBad g c.unit.index bs || !s.dieServes (s.mc c.handle).part c.die then fail 2
    else
      match s.commandRange c .load (collSrc bs) (collSize bs), s.commandRange c .store (collDst bs) (collDstSize g bs) with
      | .faults, _ => (s.commandCount c .load (collSrc bs) (collSize bs)).answer c (resultBytes (collTag bs) 4)
      | _, .faults => (s.commandCount c .store (collDst bs) (collDstSize g bs)).answer c (resultBytes (collTag bs) 4)
      | src, dst =>
        (s.urgeAll (src.frames ++ dst.frames)).takeOrdinal c (collGroup bs) g

/-- Command `k` that waits at the collective engine of a die, if it is not yet submitted, its OP meets a test, and no earlier one of its
unit is still to be submitted. -/
def State.collectiveServes (s : State) (die k : Nat) (p : Nat → Bool) : State :=
  match (s.waitingAt die .collective)[k]? with
  | some c =>
    if c.ordinal.isNone && p (collOp c.bytes) && !s.behindAnother c (fun x => x.ordinal.isNone) then s.submitCollective c else s
  | none => s

/-- COLLECTIVE_REDUCE; a command with an OP that names no operation is answered here too. -/
def execCollectiveReduce (die k : Nat) (s : State) : Host.Outcome State Fault Refusal :=
  .next (s.collectiveServes die k (fun op => op != 2 && op != 3))

/-- COLLECTIVE_BROADCAST. -/
def execCollectiveBroadcast (die k : Nat) (s : State) : Host.Outcome State Fault Refusal := .next (s.collectiveServes die k (fun op => op == 2))

/-- COLLECTIVE_GATHER. -/
def execCollectiveGather (die k : Nat) (s : State) : Host.Outcome State Fault Refusal := .next (s.collectiveServes die k (fun op => op == 3))

/-- Two elements of a reduction combined (R285, R96, R99, R100): an earlier rank's and a later one's. -/
def combineElem (type a b : Nat) : Nat :=
  match type with
  | 0 => (arithLane .add .f32 (.round .rne) 0 a b).1
  | 1 => if pairWins (ElemType.format .f32) (b % 2 ^ 32, b / 2 ^ 32) (a % 2 ^ 32, a / 2 ^ 32) then b else a
  | _ => minMax .f32 false a b

/-- The winning pair's value as it is returned: a NaN is the canonical NaN (R99). -/
def finishElem (type a : Nat) : Nat :=
  if type = 1 ∧ (fp32.value (a % 2 ^ 32)).isNan then a / 2 ^ 32 * 2 ^ 32 + fp32.canonNan else a

/-- Two partials of n elements of `es` bytes combined. -/
def combinePartials (type es n : Nat) (a b : List Byte) : List Byte :=
  (List.range n).flatMap (fun i => bytesOf es (combineElem type (natAt a (es * i) es) (natAt b (es * i) es)))

/-- Partials reduced left to right; one partial alone is passed on with its bits as they are (log entry 99). -/
def reducePartials (type es n : Nat) : List (List Byte) → List Byte
  | [] => []
  | p :: t => t.foldl (combinePartials type es n) p

/-- What a member of a group has brought to an ordinal. -/
def State.memberCommand (s : State) (g : Group) (n ordinal : Nat) (m : Member) : Option Command :=
  s.commands.find? (fun c => decide (c.engine = .collective) && decide (c.handle = g.handle) && decide (collGroup c.bytes = n) &&
    decide (c.unit.index = m.team) && decide (c.ordinal = some ordinal))

/-- Whether a member has left its group: a launch of the micro-context holds its unit as ended, and none holds it as living. -/
def State.memberLeft (s : State) (g : Group) (m : Member) : Bool :=
  let us := ((Map.vals s.launches).filter (fun l => decide (l.mc = g.handle))).filterMap (fun l => l.units[m.team]?)
  us.any (fun u => u.status.isEnded) && us.all (fun u => u.status.isEnded)

/-- Whether the commands of an ordinal differ in OP, TYPE or COUNT. -/
def mismatched (cs : List Command) : Bool :=
  match cs with
  | [] => false
  | c :: t => t.any (fun x => decide (collOp x.bytes ≠ collOp c.bytes) || decide (collType x.bytes ≠ collType c.bytes) ||
      decide (collCount x.bytes ≠ collCount c.bytes))

/-- This package's partial for an ordinal (Table 21.15): the elements combined over its own dies, ROOT's data where ROOT lies here, or
its members' data in rank order. -/
def ownPartial (g : Group) (c : Command) (data : List (List Byte)) : List Byte :=
  match collOp c.bytes with
  | 1 => reducePartials (collType c.bytes) (collElem c.bytes) (collCount c.bytes) data
  | 2 => if g.firstRank ≤ collRoot c.bytes then data.getD (collRoot c.bytes - g.firstRank) [] else []
  | _ => data.flatten

/-- Send this package's contribution for an ordinal to every other package, once (R416). -/
def State.contribute (s : State) (n ordinal op type count : Nat) (part : List Byte) : State :=
  match Map.find s.groups n with
  | none => s
  | some g =>
    if g.sent.contains ordinal then s
    else
      let body := bytesOf 1 n ++ bytesOf 1 op ++ bytesOf 1 type ++ zeros 5 ++ bytesOf 8 ordinal ++ bytesOf 4 count ++ bytesOf 4 g.rank ++ part
      let s1 := g.peers.foldl (fun s p => s.sendMessage p.peer 0x0101 0 body) s
      { s1 with groups := Map.alter s1.groups n (fun g => { g with sent := g.sent ++ [ordinal] }) }

/-- Answer every command of an ordinal with a status, and forget the ordinal. -/
def State.endOrdinal (s : State) (n ordinal status : Nat) (cs : List Command) : State :=
  let s1 := cs.foldl (fun s c => s.answer c (resultBytes (collTag c.bytes) status)) s
  { s1 with groups := Map.alter s1.groups n (fun g =>
      { g with contribs := g.contribs.filter (fun x => decide (x.ordinal ≠ ordinal)), sent := g.sent.filter (fun o => decide (o ≠ ordinal)) }) }

/-- An ordinal loses a member: the commands that wait receive PEERLOST, a later member's will too, and the other packages are told by a
contribution of OP 0xFF. -/
def State.loseOrdinal (s : State) (n ordinal : Nat) (cs : List Command) : State :=
  let known := optAny (Map.find s.groups n) (fun g => g.lost.contains ordinal)
  let s1 := (if known then s else s.contribute n ordinal 0xFF 0 0 []).endOrdinal n ordinal 3 cs
  if known then s1 else { s1 with groups := Map.alter s1.groups n (fun g => { g with lost := g.lost ++ [ordinal] }) }

/-- The contributions of all packages for an ordinal, by package rank, this package's own among them. -/
def packageParts (g : Group) (ordinal : Nat) (own : List Byte) : List (List Byte) :=
  let ranks := (List.range 256)
  ranks.filterMap (fun r =>
    if r = g.rank then some own else (g.contribs.find? (fun x => decide (x.ordinal = ordinal) && decide (x.rank = r))).map (·.data))

/-- The data that each member receives. -/
def collOutcome (g : Group) (ordinal : Nat) (c : Command) (own : List Byte) : List Byte :=
  let parts := packageParts g ordinal own
  match collOp c.bytes with
  | 1 =>
    let es := collElem c.bytes
    let r := reducePartials (collType c.bytes) es (collCount c.bytes) parts
    (List.range (collCount c.bytes)).flatMap (fun i => bytesOf es (finishElem (collType c.bytes) (natAt r (es * i) es)))
  | 2 => (parts.find? (fun p => !p.isEmpty)).getD []
  | _ => parts.flatten

/-- Length of the partial that a package owes for a command: a contribution of another length says that a segment of it failed. -/
def partialLength (g : Group) (x : PeerShare) (c : Command) : Nat :=
  match collOp c.bytes with
  | 1 => collSize c.bytes
  | 2 =>
    let first := (if g.rank < x.rank then g.members.length else 0) + ((g.peers.filter (fun p => decide (p.rank < x.rank))).map (·.count)).sum
    if first ≤ collRoot c.bytes ∧ collRoot c.bytes < first + x.count then collSize c.bytes else 0
  | _ => x.count * collSize c.bytes

/-- Write each member's data to its DST, as the check of its range has found it, and answer its command; a DST that can no longer be reached
gives FAULT to that member alone (log entry 98). -/
def State.deliver (s : State) (g : Group) (ordinal : Nat) (cs : List (Command × RangeCheck)) (own : Command → List Byte) : State :=
  cs.foldl (fun s e =>
    let c := e.1
    match e.2 with
    | .ok ks => (s.storeEach (ks.zip (collOutcome g ordinal c (own c)))).answer c (resultBytes (collTag c.bytes) 0)
    | _ => (s.commandCount c .store (collDst c.bytes) (collDstSize g c.bytes)).answer c (resultBytes (collTag c.bytes) 4)) s

/-- Count what the reads of SRC that fault have met of tables without a key (R404). -/
def State.countFaults (s : State) (cs : List Command) : State :=
  cs.foldl (fun s c => match s.commandRange c .load (collSrc c.bytes) (collSize c.bytes) with
    | .faults => s.commandCount c .load (collSrc c.bytes) (collSize c.bytes)
    | _ => s) s

/-- The commands of an ordinal of a group combine (R285). -/
def State.combine (s : State) (n ordinal : Nat) : State :=
  match Map.find s.groups n with
  | none => s
  | some g =>
    let ms := g.ranked
    let cs := ms.filterMap (s.memberCommand g n ordinal)
    match cs with
    | [] => s
    | c :: _ =>
      if ms.any (fun m => (s.memberCommand g n ordinal m).isNone && s.memberLeft g m) || g.peers.any (fun p => (s.peer p.peer).state != .up) ||
          g.lost.contains ordinal || g.contribs.any (fun x => decide (x.ordinal = ordinal) && decide (x.op = 0xFF)) then
        s.loseOrdinal n ordinal cs
      else if cs.length < ms.length then s
      else if mismatched cs then (s.contribute n ordinal 0 0 0 []).endOrdinal n ordinal 1 cs
      else
        let op := collOp c.bytes
        let type := collType c.bytes
        let ranges := cs.map (fun x => s.commandRange x .load (collSrc x.bytes) (collSize x.bytes))
        let outs := cs.map (fun x => s.commandRange x .store (collDst x.bytes) (collDstSize g x.bytes))
        if (ranges ++ outs).any RangeCheck.isWait then s.urgeAll (ranges.flatMap RangeCheck.frames)
        else
          if ranges.any (fun r => decide (r = .faults)) then ((s.countFaults cs).contribute n ordinal op type (collCount c.bytes) [0]).endOrdinal n ordinal 4 cs
          else
            let data := ranges.map (fun r => match r with
              | .ok ks => s.loadEach ks
              | _ => [])
            let own (x : Command) : List Byte := ownPartial g x data
            let s0 := ranges.foldl (fun s r => match r with
              | .ok ks => s.countEach ks
              | _ => s) s
            let s1 := s0.contribute n ordinal op type (collCount c.bytes) (own c)
            let got (p : PeerShare) : Option Contribution := g.contribs.find? (fun x => decide (x.ordinal = ordinal) && decide (x.rank = p.rank))
            if g.peers.any (fun p => (got p).isNone) then s1
            else if g.peers.any (fun p => optAny (got p) (fun x =>
                decide (x.op ≠ op) || decide (x.type ≠ type) || decide (x.count ≠ collCount c.bytes))) then s1.endOrdinal n ordinal 1 cs
            else if g.peers.any (fun p => optAny (got p) (fun x => decide (x.data.length ≠ partialLength g p c))) then s1.endOrdinal n ordinal 4 cs
            else
              (s1.deliver g ordinal (cs.zip outs) own).endOrdinal n ordinal 0 []

/-- COLLECTIVE_COMPLETE. -/
def execCollectiveComplete (group : Nat) (ordinal : Nat) (s : State) : Host.Outcome State Fault Refusal := .next (s.combine group ordinal)

end Sys2Proof.Machine
end

