-- ==== Sys2Proof/Machine/Ladle.lean ====
section
/-! DEFINITION. The Ladles: the search for a tile group, the bind of a gang and its resume (R341, R342), victims (R343, R344, R352), the
alternation of slots (R345), aging (R346) and deadlines (R348). -/

namespace Sys2Proof.Machine

/-! ### The search -/

/-- Slots of a cell that hold no bound unit. -/
def State.freeSlots (s : State) (cell : Nat) : Nat := ([(s.cell cell).h0.bound, (s.cell cell).h1.bound].filter (·.isNone)).length

/-- The cells of a group of 2^g cells. -/
def groupCells (base g : Nat) : List Nat := (List.range (2 ^ g)).map (base + ·)

/-- Whether a launch has the group of the launch that it continues, and is to bind there without a search (R196),
whatever its own record's PANTRY says (log entry 93). -/
def Launch.inherits (l : Launch) : Bool :=
  decide (l.state = 0) && l.contOf.isNone && l.group.isSome && l.units.all (fun u => decide (u.status = .waiting))

/-- Launches that inherit a group with a cell: each keeps a slot of the cell. -/
def State.inheritors (s : State) (cell : Nat) : Nat :=
  ((Map.vals s.launches).filter (fun l => l.inherits && optAny l.group (fun b => decide (b ≤ cell ∧ cell < b + 2 ^ l.record.gsize)))).length

/-- Whether one ready micro-context is served before another: by level, then by READYAT, then by handle (R40, R346). -/
def State.servedBefore (s : State) (a b : Nat) : Bool :=
  let x := s.mc a
  let y := s.mc b
  if x.level ≠ y.level then decide (y.level < x.level)
  else if x.readyAt ≠ y.readyAt then decide (x.readyAt < y.readyAt)
  else decide (a < b)

/-- Launches that a search for launch n must leave a slot of a cell: units have been asked to leave the cell for them, and they are served
before it (R39, R343, R344). -/
def State.claimed (s : State) (n : Nat) (l : Launch) (cell : Nat) : Nat :=
  (s.launches.filter (fun e => decide (e.1 ≠ n) && decide (e.2.state = 0) && e.2.group.isNone &&
    optAny e.2.wants (fun b => decide (b ≤ cell ∧ cell < b + 2 ^ e.2.record.gsize)) &&
    (s.servedBefore e.2.mc l.mc || (decide (e.2.mc = l.mc) && decide (e.1 < n))))).length

/-- Whether a cell has a slot for a unit of launch n. -/
def State.spare (s : State) (n : Nat) (l : Launch) (cell : Nat) : Bool :=
  decide (s.inheritors cell + s.claimed n l cell < s.freeSlots cell)

/-- The groups of 2^g cells that a search tries, in order (R341): the home die first, then the next dies in turn. -/
def groupOrder (home g : Nat) : List Nat :=
  if g ≤ 7 then (List.range 4).flatMap (fun i => (List.range (2 ^ (7 - g))).map (fun k => 128 * ((home + i) % 4) + k * 2 ^ g))
  else (List.range (2 ^ (9 - g))).map (fun k => k * 2 ^ g)

/-- The first free group for launch n (R341). -/
def State.findGroup (s : State) (n : Nat) (l : Launch) : Option Nat :=
  let m := s.mc l.mc
  let g := l.record.gsize
  (groupOrder m.home g).find? (fun b => s.groupInPartition m.part b g && (groupCells b g).all (s.spare n l))

/-- The lowest pantry cell of the home die with a slot free (R353, R396). -/
def State.findPantry (s : State) (n : Nat) (l : Launch) : Option Nat :=
  let m := s.mc l.mc
  let allowed := match s.protector m.home with
    | some p => decide (p = m.part)
    | none => !s.isProtected m.part
  if allowed then ((List.range 8).map (fun i => 512 + 8 * m.home + i)).find? (s.spare n l) else none

/-- Where a launch may bind now: its inherited group (log entry 93), a pantry cell, or the first free group. -/
def State.placeFor (s : State) (n : Nat) (l : Launch) : Option Nat :=
  if l.inherits then (match l.group with
    | some b => if (groupCells b l.record.gsize).all (fun c => decide (0 < s.freeSlots c)) then some b else none
    | none => none)
  else if l.record.pantry then s.findPantry n l
  else s.findGroup n l

/-! ### Save areas (R318) -/

/-- The save areas that units of a micro-context hold. -/
def State.areasHeld (s : State) (h : Nat) : List Nat :=
  ((Map.vals s.launches).filter (fun l => decide (l.mc = h))).flatMap (fun l => l.units.filterMap (·.area))

/-- The areas free for a micro-context, lowest first. -/
def State.areasFree (s : State) (h : Nat) : List Nat :=
  let held := s.areasHeld h
  (List.range (2 ^ (s.mc h).savel)).filter (fun n => !held.contains n)

/-- Units of a launch that need an area. -/
def Launch.areasWanted (l : Launch) : Nat := (l.units.filter (fun u => u.status.wantsPlace && u.area.isNone)).length

/-- Give each unit that binds and holds no area the lowest free one, by TEAM.INDEX. -/
def giveAreas (free : List Nat) : List UnitSt → List UnitSt
  | [] => []
  | u :: t =>
    if u.status.wantsPlace && u.area.isNone then { u with area := some (free.headD 0) } :: giveAreas (free.drop 1) t
    else u :: giveAreas free t

/-! ### Binding a unit (R26, R42, R43, R151, R318, R342) -/

/-- Zero the pages of a cell store that meet a test. -/
def State.wipePages (s : State) (cell : Nat) (p : Nat → Bool) : State :=
  (List.range 256).foldl (fun s i => if p i then s.wipe (pageAt cell i) 4096 else s) s

/-- The clears that a bind of a unit makes in the cell store (R42); `kept` tells that the unit resumes after a forced pre-emption. Beside
another micro-context the first activation clears (R329). The slot already holds its binding and, where it resumes, its window. -/
def State.clearStore (s : State) (u : SlotId) (h : Nat) (r : UnitRef) (kept : Bool) : State :=
  let c := s.cell u.cell
  let other := (s.slot (otherSlot u)).bound
  let foreign := optAny other (fun b => decide (b.handle ≠ h))
  let s1 :=
    if kept then
      if other.isNone && decide (c.lastUnit ≠ some r) then
        s.wipePages u.cell (fun i => !((s.slot u).pages.contains i && s.pageValid u i))
      else s
    else if !foreign && decide (c.lastMc ≠ some h) then s.wipe (cellStoreAt u.cell) (2 ^ 20)
    else s
  (s1.withCell u.cell (fun c => { c with lastMc := some h, lastUnit := some r })).withSlot u (fun l => { l with beside := foreign })

/-- A stream as a bind leaves it: at an entry address, or halted where there is none; user mode or the modes of the unit. -/
def bindStream (old : StreamSt) (entry : Nat) (sup : Bool) : StreamSt :=
  { StreamSt.blank with pc := entry, entry := .start, halted := decide (entry = 0), notStarted := true, sup := sup, buffer := old.buffer }

/-- The slot of a unit as a bind leaves it, before a restore. -/
def bindSlot (old : Slot) (b : Binding) (r : LaunchRec) (m : MicroContext) (ceil : Nat) (x : UnitSt) : Slot :=
  let mode (i : Nat) : Bool := x.modes.getD i false
  { Slot.blank with
    bound := some b
    s := bindStream old.s r.sentry (mode 0), v := bindStream old.v r.ventry (mode 1)
    m := bindStream old.m r.mentry (mode 2), x := bindStream old.x r.xentry (mode 3)
    sr := { Specials.blank with level := min m.level ceil, ceil := ceil, tsave := tsaveOf (m.tsave + BitVec.ofNat 64 (b.area * 0x110000)) }
    hpopped := x.hpopped, submitted := x.submitted, cancel := x.cancel, deadline := x.deadline, mpoison := x.mpoison
    tookCancel := x.tookCancel, cancelOrder := x.cancelOrder }

/-- A unit resumes from a boundary (R204, R325): S at the graph position with g1 to g16; an unreadable or invalid header ends it. -/
def State.resumeBoundary (s : State) (u : SlotId) : State :=
  let tsave := (s.slot u).sr.tsave.toNat
  let s := (s.countSaved u tsave 64).countSaved u (tsave + 0x408) 128
  match s.savedBytes u tsave 64, s.savedBytes u (tsave + 0x408) 128 with
  | some hd, some regs =>
    (match RecordHeader.ofBytes hd with
     | some h =>
       s.withSlot u (fun l =>
         { l with s := (List.range 16).foldl (fun t i => t.setG (i + 1) (BitVec.ofNat 64 (natAt regs (8 * i) 8)))
                    { l.s with pc := h.gpos, entry := .fresh, halted := false, notStarted := false } })
     | none => s.failUnit u .s 0)
  | _, _ => s.failUnit u .s 0

/-- Bind unit i of a launch on its cell, or resume it there; a unit that resumes with nothing left to do completes (R18). The slot's cached
shape records stay (log entry 32: the spec is silent). -/
def State.bindUnit (s : State) (n base i : Nat) : State :=
  match Map.find s.launches n with
  | none => s
  | some l =>
    let r : UnitRef := { launch := n, index := i }
    match s.unit r with
    | none => s
    | some x =>
      if !x.status.wantsPlace then s
      else
        let m := s.mc l.mc
        let cell := base + i
        let u : SlotId := { cell := cell, h1 := (s.cell cell).h0.bound.isSome }
        let b : Binding :=
          { unit := r, handle := l.mc, home := m.home, part := m.part, prot := s.isProtected m.part, base := base, size := 2 ^ l.record.gsize,
            root := m.root, keySlot := m.keySlot, windows := m.windows, area := x.area.getD 0, boundAt := s.cyc }
        let s1 := s.withSlot u (fun old => bindSlot old b l.record m (s.ceiling l.mc) x)
        let s2 := (b.shares (isPantry cell)).foldl (fun s g => s.takeGranule g l.mc) s1
        let s3 := s2.withUnit r (fun x => { x with status := .bound u })
        let s4 := match x.status with
          | .saved 1 =>
            ((s3.withSlot u (fun t => (t.setImg 0 (s3.tileValid u 0)).setImg 1 (s3.tileValid u 1))).restore u).clearStore u l.mc r true
          | .saved _ => (s3.resumeBoundary u).clearStore u l.mc r false
          | _ => ((s3.setDesc u 0 [0]).setDesc u 16 (zeros 32)).clearStore u l.mc r false
        s4.settleUnit u

/-- Which slot of a cell runs (R345): of two bound ones that of the higher level, unless a trap handler is in progress on the active one
(R328); else the bound one. A unit that has bound in the active slot is activated (R329), once the save areas of the cell can be read
(R410). -/
def State.settleCell (s : State) (cell : Nat) : State :=
  if s.cellHeld cell then s else
  let c := s.cell cell
  let a : SlotId := { cell := cell, h1 := c.active }
  let act := c.slot c.active
  let rest := c.slot (!c.active)
  if act.bound.isNone then (if rest.bound.isSome then s.activate (otherSlot a) else s)
  else if rest.bound.isSome ∧ act.sr.level < rest.sr.level ∧ act.handler.isNone then
    (if act.activated then s.switchSlots cell else s.activate (otherSlot a))
  else if act.activated then s
  else s.activate a

/-- TCAUSE[7:0] of the trap that a unit ended by force had taken, for its job's record (R438). -/
def Slot.forcedCause (l : Slot) : Nat :=
  if l.handler.isSome then l.sr.tcause.field 0 8 else if l.tookCancel then causeCancel else 0

/-- End the bound units of a job by force: no handler, no saving, and each ends as failed (R436). -/
def State.forceJob (s : State) (jn : Nat) : State :=
  (s.launchesOf jn).foldl (fun s n =>
    match Map.find s.launches n with
    | none => s
    | some l => (List.range l.units.length).foldl (fun s i =>
        match (s.unit { launch := n, index := i }).bind (fun u => u.status.place) with
        | some sl => s.endUnit { launch := n, index := i } 3 (s.slot sl).forcedCause
        | none => s) s) s

/-- Whether a running rung ends the bound units of a job by force (R436): engine, partition and device. -/
def State.forcing (s : State) (jn : Nat) : Bool := s.rungs.any (fun r => decide (2 ≤ r.rung) && r.jobs.contains jn)

/-- Bind the units of a launch together at a base (R342); units that a rung ends by force end at once. -/
def State.bindLaunch (s : State) (n base : Nat) : State :=
  match Map.find s.launches n with
  | none => s
  | some l =>
    let s1 := s.withLaunch n (fun l =>
      { l with units := giveAreas (s.areasFree l.mc) l.units, group := some base, boundAt := s.cyc, request := none, pool := false, wants := none })
    let s2 := (List.range l.units.length).foldl (fun s i => s.bindUnit n base i) s1
    let s3 := (groupCells base l.record.gsize).foldl (fun s c => s.settleCell c) s2
    let s4 := (s3.withJob l.job (fun j => { j with everBound := true })).settleMc l.mc false
    if s4.forcing l.job then s4.forceJob l.job else s4

/-! ### Victims (R343, R344, R352) -/

/-- Whether the unit of a slot belongs to a job and waits in JOIN or WAITEV. -/
def State.joins (s : State) (u : SlotId) (job : Nat) : Bool :=
  match s.launchOf (s.slot u) with
  | some (_, l) => decide (l.job = job) && optAny (s.slot u).s.waiting (fun w => decide (w.on = .counter))
  | none => false

/-- The priority of a bound unit for a launch's search: −1 for a unit of its job that waits in JOIN or WAITEV, none for any other unit of
its own micro-context. -/
def State.victimLevel (s : State) (u : SlotId) (l : Launch) : Option Int :=
  match (s.slot u).bound with
  | none => none
  | some b => if s.joins u l.job then some (-1) else if b.handle = l.mc then none else some (s.slot u).sr.level

/-- Of two bound slots the one that is taken: of lower priority, then bound later, then H1. None where the lower one may not be taken. -/
def State.takenSlot (s : State) (l : Launch) (cell : Nat) : Option (SlotId × Int) :=
  let a : SlotId := { cell := cell, h1 := false }
  let b : SlotId := { cell := cell, h1 := true }
  match s.victimLevel a l, s.victimLevel b l with
  | some x, some y =>
    if x < y then some (a, x)
    else if y < x then some (b, y)
    else if (s.binding b).boundAt < (s.binding a).boundAt then some (a, x)
    else some (b, y)
  | some x, none => some (a, x)
  | none, some y => some (b, y)
  | none, none => none

/-- What taking a group costs: the highest priority among the units taken, with the latest bind among them and the slots; cells with a
slot free cost nothing. None where a unit may not be taken. -/
def State.groupCost (s : State) (n : Nat) (l : Launch) (cells : List Nat) : Option (Int × Nat × List SlotId) :=
  cells.foldl (fun acc c => match acc with
    | none => none
    | some (cost, last, us) =>
      if s.spare n l c then acc
      else
        match s.takenSlot l c with
        | none => none
        | some (u, x) => some (max cost x, max last (s.binding u).boundAt, u :: us)) (some (-2, 0, []))

/-- The group to take, with its units, if one costs less than the launch's priority: the lowest cost, then the latest bind, then the lowest
index. -/
def State.chooseVictims (s : State) (n : Nat) (l : Launch) : Option (Nat × List SlotId) :=
  let m := s.mc l.mc
  let g := l.record.gsize
  let found := (groupOrder m.home g).foldl (fun (best : Option (Nat × Int × Nat × List SlotId)) b =>
    if !s.groupInPartition m.part b g then best
    else
      match s.groupCost n l (groupCells b g) with
      | none => best
      | some (cost, last, us) =>
        if (m.level : Int) ≤ cost then best
        else
          match best with
          | none => some (b, cost, last, us)
          | some (b0, cost0, last0, us0) =>
            if cost < cost0 ∨ (cost = cost0 ∧ (last0 < last ∨ (last = last0 ∧ b < b0))) then some (b, cost, last, us) else some (b0, cost0, last0, us0))
    none
  found.map (fun x => (x.1, x.2.2.2))

/-- Ask the gang of a slot for a boundary (R344). -/
def State.requestBoundary (s : State) (u : SlotId) : State :=
  match (s.slot u).bound with
  | none => s
  | some b => s.withLaunch b.unit.launch (fun l => { l with request := some (l.request.getD s.cyc) })

/-- The gang of a launch leaves its cells by force (R326), each unit at the return of the firmware's handler where that runs (R327). -/
def State.forceOut (s : State) (n : Nat) : State :=
  match Map.find s.launches n with
  | none => s
  | some l => l.units.foldl (fun s u => match u.status.place with
      | some sl => s.forceSlot sl
      | none => s) s

/-- Take the units of a chosen group: the gangs of the launch's own job go at once, and every other gang is asked for a boundary. -/
def State.takeVictims (s : State) (l : Launch) (us : List SlotId) : State :=
  us.foldl (fun s u => match (s.slot u).bound with
    | some b => if s.joins u l.job then s.forceOut b.unit.launch else s.requestBoundary u
    | none => s) s

/-! ### The event -/

/-- Launches of a micro-context that wait for a place, in the order of their creation. -/
def State.waitingLaunches (s : State) (h : Nat) : List Nat :=
  let ls := s.launches.filter (fun e => decide (e.2.mc = h) && decide (e.2.state = 0) && e.2.contOf.isNone && (e.2.inherits || e.2.group.isNone) &&
    e.2.units.any (fun u => u.status.wantsPlace))
  (ls.filter (fun e => e.2.inherits) ++ ls.filter (fun e => !e.2.inherits)).map (·.1)

/-- Put a micro-context into the order of service. -/
def State.queueUp (s : State) (h : Nat) : List Nat → List Nat
  | [] => [h]
  | x :: t => if s.servedBefore h x then h :: x :: t else x :: s.queueUp h t

/-- The ready micro-contexts homed on a die, in the order of service; units of a job under reset resume to take their CANCEL (R436). -/
def State.readyQueue (s : State) (die : Nat) : List Nat :=
  (s.mcs.filter (fun e => decide (e.2.home = die) && (decide (e.2.state = .ready) || decide (e.2.state = .drain)))).foldl (fun q e => s.queueUp e.1 q) []

/-- Whether a bind of a launch at a base waits for the host link (R410): a unit resumes from an area there, or a unit beside which one binds
has its area there. -/
def State.bindHeld (s : State) (l : Launch) (base : Nat) : Bool :=
  let m := s.mc l.mc
  (s.linkHeld m.part .load && l.units.any (fun x => match x.status with
    | .saved _ => s.areaOnHost m.part m.root (m.tsave.toNat + x.area.getD 0 * 0x110000)
    | _ => false)) ||
  (groupCells base l.record.gsize).any s.cellHeld

/-- Note the group that a launch waits for its victims to leave. -/
def State.setWants (s : State) (n : Nat) (b : Option Nat) : State := s.withLaunch n (fun l => { l with wants := b })

/-- Try to bind one waiting launch: whether it has bound, and the state. Without a free group its victims are asked to leave, and their
cells are kept for it; a launch whose units cannot all be given save areas waits. -/
def State.tryLaunch (s : State) (n : Nat) : Bool × State :=
  match Map.find s.launches n with
  | none => (false, s)
  | some l =>
    if (s.areasFree l.mc).length < l.areasWanted then (false, s.setWants n none)
    else
      match s.placeFor n l with
      | some b => if s.bindHeld l b then (false, s) else (true, s.bindLaunch n b)
      | none =>
        if l.inherits || l.record.pantry then (false, s)
        else
          match s.chooseVictims n l with
          | none => (false, s.setWants n none)
          | some (b, us) =>
            let s1 := (s.takeVictims l us).setWants n (some b)
            match s1.findGroup n l with
            | some b => if s1.bindHeld l b then (false, s1) else (true, s1.bindLaunch n b)
            | none => (false, s1)

/-- The first of some launches that can bind does. One of the same level, or of a lower one, may so bind on free cells while one ahead of it
finds neither a free group nor victims (log entry 48: the rules do not say). -/
def State.tryLaunches (s : State) : List Nat → State
  | [] => s
  | n :: t =>
    match s.tryLaunch n with
    | (true, s1) => s1
    | (false, s1) => s1.tryLaunches t

/-- Whether some waiting launch could bind now on a group with a cell. -/
def State.bindable (s : State) (cell : Nat) : Bool :=
  (s.mcs.filter (fun e => decide (e.2.state = .ready) || decide (e.2.state = .drain))).any (fun e => (s.waitingLaunches e.1).any (fun n =>
    optAny (Map.find s.launches n) (fun l => decide (l.areasWanted ≤ (s.areasFree l.mc).length) &&
      optAny (s.placeFor n l) (fun b => decide (b ≤ cell ∧ cell < b + 2 ^ l.record.gsize)))))

/-- Whether a slot of a cell that units asked under R344 have left awaits the freed group's bind, so that the cell's other slot stays
resting (R381): a launch that has asked for the cell has not bound yet, the gang that was asked is still leaving, or a launch that waits can
bind there. -/
def State.awaited (s : State) (cell : Nat) : Bool :=
  s.launches.any (fun e => decide (e.2.state = 0) && e.2.group.isNone &&
    optAny e.2.wants (fun b => decide (b ≤ cell ∧ cell < b + 2 ^ e.2.record.gsize))) ||
  optAny (s.cell cell).freed (fun n =>
    optAny (Map.find s.launches n) (fun l => l.units.any (fun u => u.status.place.isSome)) || s.bindable cell)

/-- A resting unit whose neighbour has left runs, unless the freed slot awaits its bind (R345, R381). -/
def State.wakeCell (s : State) (cell : Nat) : State := if s.awaited cell then s else s.settleCell cell

/-- LADLE_BIND: jobs that wait at the die's micro-contexts begin where nothing holds them, the first waiting launch that can bind does,
and units whose neighbours have left run. -/
def execLadleBind (die : Nat) (s : State) : Host.Outcome State Fault Refusal :=
  let s1 := (s.mcs.filter (fun e => decide (e.2.home = die) && !e.2.waiting.isEmpty)).foldl (fun s e => s.serve e.1) s
  let s2 := s1.tryLaunches ((s1.readyQueue die).flatMap s1.waitingLaunches)
  .next (if (s.die die).up then
      (s2.cells.filter (fun e => decide (dieOf e.1 = die) && ((e.2.slot e.2.active).bound.isNone || !(e.2.slot e.2.active).activated))).foldl (fun s e => s.wakeCell e.1) s2
    else s)

/-- BOUNDARY_TIMEOUT: a request that no boundary has met after 25 µs becomes a forced pre-emption (R325, R344). -/
def execBoundaryTimeout (launch : Nat) (s : State) : Host.Outcome State Fault Refusal :=
  .next (match Map.find s.launches launch with
    | some l => if optAny l.request (fun t => decide (t + 25 * usCycles ≤ s.cyc)) then s.forceOut launch else s
    | none => s)

/-- SLICE_EXPIRY: slots of equal level alternate when the slice ends; of different levels, the higher runs (R345). -/
def execSliceExpiry (cell : Nat) (s : State) : Host.Outcome State Fault Refusal :=
  let c := s.cell cell
  let act := c.slot c.active
  let rest := c.slot (!c.active)
  let slice := (s.partition (s.binding { cell := cell, h1 := c.active }).part).tslice
  .next (if act.bound.isNone then s.wakeCell cell
    else if rest.bound.isNone then s
    else if act.sr.level ≠ rest.sr.level then s.settleCell cell
    else if slice ≠ 0 ∧ c.activeSince + slice * usCycles ≤ s.cyc then s.switchSlots cell
    else s)

/-- Whether a wait is one of R38, or for one: V results and an M instruction in progress end by themselves. -/
def isProgressWait : WaitOn → Bool
  | .results | .earlier | .link => false
  | _ => true

/-- Whether every stream of a slot has waited for 2,000 c (R345); before S has read the parameter block only S can move (R151). -/
def Slot.idles (l : Slot) (cyc : Nat) : Bool :=
  let waits (t : StreamSt) : Bool := t.halted || optAny t.waiting (fun w => isProgressWait w.on && decide (w.since + 2000 ≤ cyc))
  waits l.s && (l.needsParams || (waits l.v && waits l.m && waits l.x)) && l.mflight.isNone && l.xqueue.all (fun k => k.parked.isSome) &&
  !(l.s.halted && l.v.halted && l.m.halted && l.x.halted)

/-- Whether a body has answered that it waits. -/
def Eff.isWait : Eff → Bool
  | .wait _ => true
  | _ => false

/-- Whether the instruction at which a stream of a resting slot waits would wait still: what it awaits is looked for where R192 to R203,
R268, R274, R284, R285 and R287 put it. -/
def State.awaits (s : State) (c : Cursor) : Bool :=
  let s1 := { s with cur := c }
  let r := s1.myUnit
  let asked (f : Submission → Bool) : Bool := optAny s1.here.submitted f
  let replied (x : Submission) : Bool := s.results.any (fun y => decide (y.id = x.id))
  let empty (q : Word) : Bool := match s1.queueOf q false with
    | .ok n => (s.dq n).entries.isEmpty
    | .error _ => false
  let full (q : Word) : Bool := match s1.queueOf q true with
    | .ok n => decide (64 ≤ (s.dq n).entries.length)
    | .error _ => false
  match s.instrAt c with
  | .bara _ n _ => (baraEffect n s1).isWait
  | .barw _ n _ => (barwEffect n s1).isWait
  | .join _ a => (joinEffect a s1).isWait
  | .waitev _ d a b child level => (waitevEffect d a b child level s1).isWait
  | .enq _ _ e => decide (8 ≤ s1.outstanding r e)
  | .deq _ _ e => (s1.readyResult r e).isNone
  | .sframe _ d a b => (onStream a (sframeEffect d b) s1).isWait
  | .dqsend _ _ b => full (s1.rg b)
  | .dqrecv _ _ _ b => empty (s1.rg b)
  | .specb _ a _ _ =>
    let operand : Word := BitVec.ofNat 64 ((s1.rg a).field 0 5)
    if asked (fun x => decide (x.pc = s1.me.pc)) then empty operand else full operand
  | .cred _ _ _ | .cbcst _ _ | .cgath _ _ => !asked replied
  | .maskw _ a b => (maskwEffect a b s1).isWait
  | _ => true

/-- Whether what a stream of a resting slot waited for has not come. -/
def State.stands (s : State) (c : Cursor) (w : WaitOn) : Bool :=
  let l := s.slot c.slot
  match w with
  | .token p => decide (l.tokens p c.stream = 0)
  | .room q => decide (16 ≤ l.tokens c.stream q + l.reserved c.stream q)
  | .segment f => (Map.find s.residency f).isNone
  | .results | .earlier | .link => false
  | .commands | .window => true
  | .barrier | .counter | .engine | .frame | .queue | .collective | .mask => s.awaits c

/-- Whether a resting slot waits in the same way (R345): as it stopped, with none of what it waits for come since. -/
def State.restIdles (s : State) (u : SlotId) : Bool :=
  let l := s.slot u
  l.idles s.cyc && [Stream.s, .v, .m, .x].all (fun st => match (l.stream st).waiting with
    | some w => (l.stream st).halted || s.stands { slot := u, stream := st } w.on
    | none => true) &&
  l.xqueue.all (fun k => optAny k.parked (fun f => (Map.find s.residency f).isNone))

/-- YIELD_TIMEOUT: a running slot that waits yields to the other, if that is not waiting in the same way (R345). -/
def execYieldTimeout (cell : Nat) (s : State) : Host.Outcome State Fault Refusal :=
  let c := s.cell cell
  let rest : SlotId := { cell := cell, h1 := !c.active }
  .next (if (c.slot c.active).idles s.cyc && (s.slot rest).bound.isSome && !s.restIdles rest then s.switchSlots cell else s)

/-- AGE_EXPIRY: the level of a ready micro-context rises by one at the end of a whole AGE, never above CEIL (R346). -/
def execAgeExpiry (handle : Nat) (s : State) : Host.Outcome State Fault Refusal :=
  let m := s.mc handle
  let age := (s.partition m.part).age * usCycles
  .next (if m.state = .ready ∧ age ≠ 0 ∧ m.risenAt + age ≤ s.cyc ∧ m.level < s.ceiling handle then
      s.withMc handle (fun m => { m with level := m.level + 1, risenAt := m.risenAt + age })
    else s)

/-! ### Deadlines (R348) -/

/-- How far up the order of R438 a reason stands. -/
def EndReason.rank : EndReason → Nat
  | .plain => 0
  | .deadline => 1
  | .reset => 2
  | .memlost => 3

/-- Note why a job ends: a reason that comes first in R438 stays. -/
def State.addReason (s : State) (jn : Nat) (r : EndReason) : State :=
  if (Map.get .plain s.reasons jn).rank < r.rank then { s with reasons := Map.set s.reasons jn r } else s

/-- A job in progress passes its deadline. -/
def State.jobLate (s : State) (jn : Nat) (j : Job) : State :=
  let s1 := (s.addReason jn .deadline).withJob jn (fun j => { j with deadline := none })
  if j.everBound then
    (s1.launchesOf jn).foldl (fun s n => match Map.find s.launches n with
      | some l => if l.units.all (fun u => decide (u.status = .waiting)) then s.cancelPending n else s.signalLaunch n true
      | none => s) s1
  else ((s1.withMc j.mc (fun m => { m with dlmiss := min (m.dlmiss + 1) (2 ^ 32 - 1) })).cancelJob jn 0 4).closeJob jn

/-- A job that waits for the one before it passes its deadline: it fails without binding. -/
def State.pendingLate (s : State) (jn : Nat) : State :=
  match s.mcs.find? (fun e => e.2.waiting.any (fun p => decide (p.id = jn) && optAny p.deadline (fun d => decide (d ≤ s.cyc)))) with
  | none => s
  | some (h, m) =>
    match m.waiting.find? (fun p => decide (p.id = jn)) with
    | none => s
    | some p =>
      ((s.complete h p.source 3 0 p.seq).withMc h (fun m =>
        { freeRingSlot m p.source with waiting := m.waiting.filter (fun p => decide (p.id ≠ jn)), dlmiss := min (m.dlmiss + 1) (2 ^ 32 - 1) })).settleMc h false

/-- DEADLINE_EXPIRY. -/
def execDeadlineExpiry (job : Nat) (s : State) : Host.Outcome State Fault Refusal :=
  .next (match Map.find s.jobs job with
    | some j => if optAny j.deadline (fun d => decide (d ≤ s.cyc)) then s.jobLate job j else s
    | none => s.pendingLate job)

end Sys2Proof.Machine
end

