-- ==== Sys2Proof/Machine/Frames.lean ====
section
/-! DEFINITION. Frames at the Ethernet ports (R337, R338, R411, R412), the egress of streams (R269), forwarding (R451), ports that go
down and come up (R356), and queues with their notifies (R354, R355). -/

namespace Sys2Proof.Machine

/-! ### Datagrams -/

/-- A number of bytes in network order. -/
def netAt (bs : List Byte) (off n : Nat) : Nat := natOf ((bs.drop off).take n).reverse

/-- A datagram as a port takes it in: the source address and port, and the payload. -/
structure Datagram where
  src : Nat
  sport : Nat
  payload : List Byte
  deriving DecidableEq, Repr

/-- Parse an Ethernet frame, untagged or with one 802.1Q tag, of at most 9,216 bytes, that holds an IPv6 datagram without extension
headers or fragments and in it a UDP datagram for a port's service address (R411). -/
def parseFrame (a : ServiceAddr) (f : List Byte) : Option Datagram :=
  let tagged := decide (netAt f 12 2 = 0x8100)
  let ip := if tagged then f.drop 18 else f.drop 14
  let type := if tagged then netAt f 16 2 else netAt f 12 2
  let udp := ip.drop 40
  let len := netAt udp 4 2
  if 9216 < f.length ∨ f.length < (if tagged then 66 else 62) then none
  else if natOf (f.take 6) ≠ a.mac ∨ type ≠ 0x86DD ∨ byteAt ip 0 / 16 ≠ 6 ∨ byteAt ip 6 ≠ 17 then none
  else if natAt ip 24 16 ≠ a.ipv6 ∨ netAt udp 2 2 ≠ a.udp then none
  else if len < 8 ∨ udp.length < len ∨ netAt ip 4 2 < len then none
  else some { src := natAt ip 8 16, sport := netAt udp 0 2, payload := (udp.take len).drop 8 }

/-! ### Service frames -/

/-- Fields of a service frame (Table 21.8). -/
def frameType (p : List Byte) : Nat := byteAt p 1
def frameHandle (p : List Byte) : Nat := natAt p 2 2
def frameSeq (p : List Byte) : Nat := natAt p 4 8
def frameStream (p : List Byte) : Nat := natAt p 12 2

/-- Step 1 of R412 as far as it needs no key: the header, and lengths that the plaintext of the type may have. -/
def frameFormed (type : Nat) (p : List Byte) : Bool :=
  let n := p.length - 32
  decide (32 ≤ p.length) && decide (byteAt p 0 = 1) && decide (frameType p = type) && decide (frameHandle p < 4096) && zeroAt p 14 2 &&
  (if type = 1 then decide (frameStream p = 0) && decide (n ≤ 8128) else decide (8 ≤ n) && decide (n % 4 = 0) && decide (n ≤ 8 + 4096))

/-- Whether a window accepts a sequence number: above the highest, or among the 64 below it and not yet accepted; an empty window accepts
any (R412). -/
def windowAccepts (w : Option Replay) (seq : Nat) : Bool :=
  match w with
  | none => true
  | some r => decide (r.high < seq) || (decide (seq < r.high) && decide (r.high ≤ seq + 64) && !r.seen.getLsbD (r.high - seq - 1))

/-- The window after it has accepted a sequence number: bit j stands for the number j + 1 below the highest. -/
def windowMoves (w : Option Replay) (seq : Nat) : Replay :=
  match w with
  | none => { high := seq, seen := 0 }
  | some r =>
    if r.high < seq then
      let k := seq - r.high
      { high := seq, seen := if k ≤ 64 then (r.seen <<< k) ||| (1 <<< (k - 1) : BitVec 64) else 0 }
    else { r with seen := r.seen ||| (1 <<< (r.high - seq - 1) : BitVec 64) }

/-- A frame that fails authentication or replay is counted (R412). -/
def State.authFails (s : State) (h : Nat) : State := s.withMc h (fun m => { m with authfail := min (m.authfail + 1) (2 ^ 32 - 1) })

/-- Open a service frame under the key of a micro-context; the nonce takes the handle that the frame names. -/
def State.openFrame (s : State) (h : Nat) (p : List Byte) : Option (List Byte) :=
  match s.keyBytes (s.mc h).keySlot with
  | none => none
  | some k => gcmOpen k (frameNonce (frameType p) (frameStream p) (frameHandle p) (frameSeq p)) (p.take 16) (p.drop 16)

/-- Whether frames and notifies to a micro-context are discarded (R336). -/
def State.closed (s : State) (h : Nat) : Bool := decide ((s.mc h).state = .invalid) || decide ((s.mc h).state = .drain)

/-- The cycle at which a deadline of some microseconds from a cycle passes; 0 stands for none (R348). -/
def deadlineAt (us from_ : Nat) : Option Nat := if us = 0 then none else some (from_ + us * usCycles)

/-- The lowest free slot of a request ring (R338). -/
def MicroContext.freeRing (m : MicroContext) : Option Nat := (List.range 16).find? (fun k => !m.ring.contains k)

/-- A job joins those that wait at its micro-context (R339): a frame comes before a queue entry that reached the Ladle in the same cycle. -/
def MicroContext.queueJob (m : MicroContext) (p : PendingJob) : MicroContext :=
  let later (q : PendingJob) : Bool := !p.source.isQueue && q.source.isQueue && decide (q.at_ = p.at_)
  { m with waiting := m.waiting.filter (fun q => !later q) ++ [p] ++ m.waiting.filter later }

/-- A request is placed in its micro-context's ring (R338): descriptor and payload, and a job of it waits. -/
def State.placeRequest (s : State) (h port k seq : Nat) (payload : List Byte) : State :=
  let m := s.mc h
  let slot := m.rqring + BitVec.ofNat 64 (8192 * k)
  let (id, s1) := s.next
  let route : Word := Config.routeTag id ++ BitVec.ofNat 32 id
  let desc := bytesOf 8 (slot + 64).toNat ++ bytesOf 8 (payload.length + port * 2 ^ 32) ++ bytesOf 8 seq ++ bytesOf 8 route.toNat ++
    bytesOf 8 s.cyc ++ bytesOf 8 k ++ zeros 16
  let s2 := s1.mcStore h slot (desc ++ payload)
  (s2.withMc h (fun m =>
    { m with ring := k :: m.ring }.queueJob
      { id := id, source := .request k, lrec := m.lrec, param := slot, deadline := deadlineAt m.dline s.cyc, route := route, port := port
        seq := seq, at_ := s.cyc, parked := false })).serve h

/-- A request frame for a micro-context is checked and placed (R337, R412): `h` is the micro-context, which the frame itself may name by
the handle it had before a migration. -/
def State.takeRequest (s : State) (h port : Nat) (p : List Byte) : State :=
  if !frameFormed 1 p || s.closed h then s
  else
    match s.openFrame h p with
    | none => s.authFails h
    | some plain =>
      if !windowAccepts (Map.find s.replay h) (frameSeq p) then s.authFails h
      else
        match (s.mc h).freeRing with
        | none => s.withMc h (fun m => { m with rqdrop := min (m.rqdrop + 1) (2 ^ 32 - 1) })
        | some k =>
          ({ s with replay := Map.set s.replay h (windowMoves (Map.find s.replay h) (frameSeq p)) }).placeRequest h port k (frameSeq p) plain

/-- The lowest buffer of a record that is free (11.3). -/
def StreamRec.freeBuffer (r : StreamRec) : Option Nat :=
  (List.range 16).find? (fun b => !r.queue.any (fun f => decide (f.buf = b)) && decide (r.held ≠ some b))

/-- An IDLE owner whose WAKE is 1 takes up a job for LREC (R337). -/
def State.wake (s : State) (h : Nat) : State :=
  let m := s.mc h
  if m.state = .idle ∧ m.wake then
    let (id, s1) := s.next
    (s1.withMc h (fun m =>
      m.queueJob { id := id, source := .stream, lrec := m.lrec, param := 0, deadline := deadlineAt m.dline s.cyc, route := 0, port := 0
                   seq := 0, at_ := s.cyc, parked := false })).serve h
  else s

/-- A frame is queued on a stream record, or dropped where no buffer is free (11.3, R268). -/
def State.queueFrame (s : State) (n : Nat) (plain : List Byte) : State :=
  let r := s.srec n
  match r.freeBuffer with
  | none => s.withSrec n (fun r => { r with drops := r.drops + 1 })
  | some b =>
    let tokens := plain.drop 8
    let s1 := s.mcStore r.owner (r.fbuf + BitVec.ofNat 64 (4096 * b)) tokens
    (s1.withSrec n (fun r =>
      { r with queue := r.queue ++ [{ play := natAt plain 0 4, kind := byteAt plain 4, len := tokens.length / 4, buf := b }] })).wake r.owner

/-- A stream frame for a micro-context is checked and queued (R412). -/
def State.takeStreamFrame (s : State) (h : Nat) (p : List Byte) : State :=
  let n := frameStream p
  if !frameFormed 3 p || s.closed h then s
  else if 4096 ≤ n ∨ (s.srec n).owner ≠ h then s
  else
    match s.openFrame h p with
    | none => s.authFails h
    | some plain =>
      if 4 ≤ byteAt plain 4 ∨ !zeroAt plain 5 3 then s
      else if !windowAccepts (Map.find s.replayStream n) (frameSeq p) then s.authFails h
      else ({ s with replayStream := Map.set s.replayStream n (windowMoves (Map.find s.replayStream n) (frameSeq p)) }).queueFrame n plain

/-- A frame for a handle that has been migrated goes unchanged to the peer inside the peer transport (R451): FWD carries the client's
address, its port, and the payload. -/
def State.forward (s : State) (peer : Nat) (d : Datagram) : State :=
  s.sendMessage peer 0x0501 0 (bytesOf 16 d.src ++ bytesOf 2 d.sport ++ zeros 6 ++ d.payload)

/-- A datagram reaches a port that is up, has a service address, and lies on a running die. -/
def State.arrives (s : State) (port : Nat) (frame : List Byte) : Option Datagram :=
  if s.portIsDown port || !(s.die (dieOfPort port)).up || decide (8 ≤ port) then none
  else
    match Map.find s.ports port with
    | none => none
    | some a => parseFrame a frame

/-- A service frame of a type: forwarded where its handle is INVALID and forwarding is set (R451), and else taken. -/
def State.serviceFrame (s : State) (port : Nat) (frame : List Byte) (type : Nat) (take : Nat → List Byte → State) : State :=
  match s.arrives port frame with
  | none => s
  | some d =>
    let h := frameHandle d.payload
    if d.payload.length < 16 ∨ frameType d.payload ≠ type then s
    else
      match (if (s.mc h).state = .invalid then Map.find s.forwards h else none) with
      | some p => s.forward p d
      | none => take h d.payload

/-- SERVICE_REQUEST_FRAME. -/
def execServiceRequestFrame (port : Nat) (frame : List Byte) (s : State) : Host.Outcome State Fault Refusal :=
  .next (s.serviceFrame port frame 1 (fun h p => s.takeRequest h port p))

/-- STREAM_INPUT_FRAME. -/
def execStreamInputFrame (port : Nat) (frame : List Byte) (s : State) : Host.Outcome State Fault Refusal :=
  .next (s.serviceFrame port frame 3 (fun h p => s.takeStreamFrame h p))

/-! ### Stream output -/

/-- The port that the stream output of a record leaves from: the first of its die's two that is up. -/
def State.streamPort (s : State) (n : Nat) : Option Nat := [2 * (n / 1024), 2 * (n / 1024) + 1].find? (fun p => !s.portIsDown p)

/-- Send a frame of type 4 or 5 for a record: OSEQ is increased by 1 first (R412). -/
def State.streamSend (s : State) (n port type : Nat) (plain : List Byte) : State :=
  let s1 := s.withSrec n (fun r => { r with oseq := r.oseq + 1 })
  s1.sendFrame port (s1.srec n).owner type n (s1.srec n).oseq plain

/-- The n handed entries of a record that lie lowest and are not sent. -/
def StreamRec.toSend (r : StreamRec) (n : Nat) : List Delivery := (r.delivery.filter (fun e => !e.prov && !e.sent)).take n

/-- The egress engine serves a stream record (R267, R269): a truncation notice that is due leaves first; else the next `n` handed
entries leave in position order, as they stand in region 3 (R387), or as the record holds them where the region cannot be read (log entry
104). Entries that lie in host memory wait for their reads (R410). -/
def State.sendStream (s : State) (k n : Nat) : State :=
  let r := s.srec k
  match s.streamPort k with
  | none => s
  | some port =>
    if r.owner = 0xFFFF then s
    else
      match r.notices with
      | t :: rest => (s.withSrec k (fun r => { r with notices := rest })).streamSend k port 5 (bytesOf 4 t ++ zeros 4)
      | [] =>
        let es := r.toSend (min n 1016)
        if es.isEmpty ∨ es.any (fun e => s.readHeld r.owner (r.ringAt 3 e.pos)) then s
        else
          let plain := es.flatMap (fun e => (s.mcLoad r.owner (r.ringAt 3 e.pos) 8).getD (deliveryBytes e.token e.pos))
          let s1 := es.foldl (fun s e => s.mcCount r.owner .load (r.ringAt 3 e.pos) 8) s
          (s1.streamSend k port 4 plain).withSrec k (fun r =>
            ({ r with delivery := r.delivery.map (fun e => if es.contains e then { e with sent := true } else e) }).release)

/-- EGRESS_STREAM_SEND. -/
def execEgressStreamSend (rec : Nat) (n : Nat) (s : State) : Host.Outcome State Fault Refusal := .next (s.sendStream rec n)

/-- ETHERNET_PORT_DOWN. -/
def execEthernetPortDown (port : Nat) (s : State) : Host.Outcome State Fault Refusal :=
  .next (if port < 8 then { s with portDown := Map.put false s.portDown port true } else s)

/-- ETHERNET_PORT_UP. -/
def execEthernetPortUp (port : Nat) (s : State) : Host.Outcome State Fault Refusal :=
  .next { s with portDown := Map.put false s.portDown port false }

/-! ### Queues -/

/-- The cycle of the notify that announced entry i (R348): the first whose tail lies beyond it. -/
def MicroContext.announced (m : MicroContext) (i cyc : Nat) : Nat :=
  match m.notes.find? (fun e => decide (i < e.1)) with
  | some e => e.2
  | none => cyc

/-- Entry i of a queue is read (R354): a job of it waits, or it is skipped and counted. -/
def State.readEntry (s : State) (h i : Nat) : State :=
  let m := s.mc h
  let at_ := m.qbase + BitVec.ofNat 64 (64 * (i % 2 ^ m.qlog))
  let s := s.mcCount h .load at_ 64
  let skip : State := s.withMc h (fun m => { m with skipped := m.skipped + 1 })
  match s.mcLoad h at_ 64 with
  | none => skip
  | some e =>
    if natAt e 0 2 ≠ h then skip
    else
      let (id, s1) := s.next
      let lrec := natAt e 8 8
      let dline := natAt e 24 4
      let p : PendingJob :=
        { id := id, source := .queue i, lrec := if lrec = 0 then m.lrec else BitVec.ofNat 64 lrec, param := BitVec.ofNat 64 (natAt e 16 8)
          deadline := deadlineAt (if dline = 0 then m.dline else dline) (m.announced i s.cyc), route := 0, port := 0
          seq := 0, at_ := s.cyc, parked := false }
      s1.withMc h (fun m => m.queueJob p)

/-- A mapped queue is read from its head to its tail, in order. Its jobs begin at the Ladle's next turn, so that a frame of the same cycle
can come before them (R339); they wait, so an IDLE micro-context is READY from now on (Table 14.2). -/
def State.readQueue (s : State) (h : Nat) : State :=
  let m := s.mc h
  let n := min (m.tail - m.head) (2 ^ m.qlog)
  let s1 := (List.range n).foldl (fun s i => s.readEntry h (m.head + i)) s
  (s1.withMc h (fun m => { m with head := m.tail, notes := [], mapUsed := s.cyc })).settleMc h false

/-- Whether a queue lies in host memory whose reads wait for the host link (R410). -/
def State.queueHeld (s : State) (h : Nat) : Bool :=
  let m := s.mc h
  s.readHeld h (m.qbase + BitVec.ofNat 64 (64 * (m.head % 2 ^ m.qlog)))

/-- A notify of a new tail reaches a queue (R355): a mapped queue is read at once, and an unmapped one sets PEND. A queue whose reads wait
for the host link gives up its slot with PEND set, so that it is remapped and read once the link carries them. -/
def State.notify (s : State) (h tail : Nat) : State :=
  let m := s.mc h
  if tail ≤ m.tail then (if m.mapped then s else s.withMc h (fun m => { m with pend := true }))
  else
    let s1 := s.withMc h (fun m => { m with tail := tail, notes := m.notes ++ [(tail, s.cyc)] })
    if m.mapped && !s.queueHeld h then s1.readQueue h else s1.withMc h (fun m => { m with pend := true, mapped := false })

/-- QUEUE_NOTIFY: a write of the notify word of a handle on a VF's pages (R399). -/
def execQueueNotify (vf : Nat) (offset : Nat) (value : Nat) (s : State) : Host.Outcome State Fault Refusal :=
  let h := offset / 256
  .next (if offset % 256 = 0 ∧ h < 4096 ∧ !s.closed h ∧ (s.mc h).part + 1 = vf then s.notify h value else s)

/-- Hardware queue slots (R355). -/
def queueSlots : Nat := 512

/-- The queue to unmap where no slot is free: empty, of a micro-context without a job, least recently used (R355). -/
def State.idleQueue (s : State) : Option Nat :=
  let idle := s.mcs.filter (fun e => e.2.mapped && e.2.job.isNone && e.2.waiting.isEmpty && decide (e.2.head = e.2.tail))
  (idle.foldl (fun (best : Option (Nat × Nat)) e => match best with
    | some (_, t) => if e.2.mapUsed < t then some (e.1, e.2.mapUsed) else best
    | none => some (e.1, e.2.mapUsed)) none).map (·.1)

/-- A slot for a queue: a free one, or one whose queue is unmapped for it. -/
def State.queueSlot (s : State) : Option State :=
  if (s.mcs.filter (fun e => e.2.mapped)).length < queueSlots then some s
  else (s.idleQueue).map (fun h => s.withMc h (fun m => { m with mapped := false }))

/-- Whether another queue with PEND set comes before one: in READYAT order, then by handle. -/
def State.remapsFirst (s : State) (h : Nat) : Bool :=
  s.mcs.all (fun e => !e.2.pend || decide (e.2.qsrc = 0) || decide (e.1 = h) || decide ((s.mc h).readyAt < e.2.readyAt) || (decide ((s.mc h).readyAt = e.2.readyAt) && decide (h < e.1)))

/-- QUEUE_REMAP: of a micro-context that has a queue (R354), PEND is cleared, and the queue is read to the producer's index. -/
def execQueueRemap (handle : Nat) (s : State) : Host.Outcome State Fault Refusal :=
  let m := s.mc handle
  .next (if m.pend && decide (m.qsrc ≠ 0) && !m.mapped && !s.closed handle && !s.queueHeld handle && s.remapsFirst handle then
      (match s.queueSlot with
       | none => s
       | some s1 => (s1.withMc handle (fun m => { m with pend := false, mapped := true })).readQueue handle)
    else s)

end Sys2Proof.Machine
end

