-- ==== Sys2Proof/Machine/Siphon.lean ====
section
/-! DEFINITION. The Siphon's sources: which absent segment is fetched next, from which source, and the check of what it delivers (R60,
R366, R430 to R432). -/

namespace Sys2Proof.Machine

/-- The segments registered on a die. -/
def State.segmentsOn (s : State) (die : Nat) : List Segment := Map.get [] s.segments die

/-- Change the segment registered on a frame of a die. -/
def State.withSegment (s : State) (die frame : Nat) (f : Segment → Segment) : State :=
  { s with segments := Map.put [] s.segments die ((s.segmentsOn die).map (fun e => if e.frame = frame then f e else e)) }

/-- Whether a source can be tried now: host-placed data only once SEGCHK has asked for its check, flash only where its drive is attached
and configured, a peer only while it is UP (R11, R432). -/
def State.canTry (s : State) (e : Segment) (src : Nat) : Bool :=
  bitOf e.src src && !e.failed.contains src && (decide (src ≠ 0) || e.asked) &&
  (decide (src ≠ 1) || optAny (Map.find s.drives e.drive) (·.ready)) && (decide (src ≠ 2) || decide ((s.peer e.peer).state = .up))

/-- Reads of a drive that its I/O queue pair of 64 entries holds (R433). -/
def State.readsOf (s : State) (drive : Nat) : Nat :=
  (s.segments.flatMap (fun e => e.2.filter (fun x => decide (x.reading = some 1 ∧ x.drive = drive)))).length

/-- Whether a source has room for a read: a drive's queue pair has 64 entries (R433). -/
def State.sourceRoom (s : State) (e : Segment) (src : Nat) : Bool := decide (src ≠ 1) || decide (s.readsOf e.drive < 64)

/-- The next source of a segment, in the order host-placed, flash, peer (R432). -/
def State.nextSource (s : State) (e : Segment) : Option Nat := [0, 1, 2].find? (s.canTry e)

/-- Whether a segment is absent and may be started: none of its sources is being read, and one can be tried. -/
def State.startable (s : State) (e : Segment) : Bool :=
  (Map.find s.residency e.frame).isNone && e.reading.isNone && (s.nextSource e).isSome

/-- Whether one segment is fetched before another: by urgency, then by order number (R366, R430). -/
def Segment.before (a b : Segment) : Bool := decide (b.urgency < a.urgency) || (decide (a.urgency = b.urgency) && decide (a.order < b.order))

/-- Whether a segment's turn has come: no startable one comes before it, and one of urgency 0 waits until every frame earlier in the
order is resident (R432). -/
def State.isNext (s : State) (die : Nat) (e : Segment) : Bool :=
  let es := s.segmentsOn die
  s.startable e && es.all (fun x => !(s.startable x && x.before e)) &&
  (decide (e.urgency ≠ 0) || es.all (fun x => decide (e.order ≤ x.order) || decide (Map.find s.residency x.frame = some .resident)))

/-- The Siphon starts on a source of a segment: a read is asked of the drive, or a message goes to the peer. -/
def State.startSource (s : State) (die : Nat) (e : Segment) (src : Nat) : State :=
  let s1 := s.withSegment die e.frame (fun e => { e with reading := some src, since := s.cyc })
  match src with
  | 1 => s1.emit (.flashRead e.drive 1 e.lba (2 ^ 21 / (Map.get { block := 512, ready := false } s.drives e.drive).block))
  | 2 => s1.sendMessage e.peer 0x0201 e.frame (bytesOf 32 e.hash)
  | _ => s1

/-- SIPHON_FETCH. -/
def execSiphonFetch (die : Nat) (frame : Nat) (s : State) : Host.Outcome State Fault Refusal :=
  .next (match (s.segmentsOn die).find? (fun e => decide (e.frame = frame)) with
    | some e => if s.isNext die e then (match s.nextSource e with
        | some src => if s.sourceRoom e src then s.startSource die e src else s
        | none => s) else s
    | none => s)

/-- A source of a segment has failed: the next is tried, and after the last the frame becomes failed, with an error record (R432). -/
def State.sourceFails (s : State) (die : Nat) (e : Segment) (src : Nat) : State :=
  let s1 := s.withSegment die e.frame (fun e => { e with reading := none, asked := false, failed := src :: e.failed })
  if [0, 1, 2].all (fun k => !bitOf e.src k || decide (k = src) || e.failed.contains k) then
    ({ s1 with residency := Map.set s1.residency e.frame .failed }).error { ErrorInfo.base 1 5 die with addr := BitVec.ofNat 64 (e.frame * 2 ^ 21) }
  else s1

/-- The bytes of a frame. -/
def State.frameBytes (s : State) (frame : Nat) : List Byte := Memory.read s.mem (frame * 2 ^ 21) (2 ^ 21)

/-- The check of what stands in a segment's frame (R60): a match makes the frame resident. -/
def State.checkFrame (s : State) (die : Nat) (e : Segment) (src : Nat) : State :=
  if shake256 (s.frameBytes e.frame) 32 = bytesOf 32 e.hash then
    ({ s with residency := Map.set s.residency e.frame .resident }).withSegment die e.frame (fun e =>
      { e with reading := none, asked := false, failed := [] })
  else s.sourceFails die e src

/-- Data of a source is written into a segment's frame and checked; data that is not one whole segment fails. -/
def State.deliverSegment (s : State) (die : Nat) (e : Segment) (src : Nat) (data : List Byte) : State :=
  if data.length = 2 ^ 21 then ({ s with mem := Memory.write s.mem (e.frame * 2 ^ 21) data }).checkFrame die e src
  else s.sourceFails die e src

/-- SEGMENT_CHECK: of host-placed data where SEGCHK has asked for it, and of what a drive has read. -/
def execSegmentCheck (die : Nat) (frame : Nat) (data : List Byte) (s : State) : Host.Outcome State Fault Refusal :=
  .next (match (s.segmentsOn die).find? (fun e => decide (e.frame = frame)) with
    | some e =>
      (match e.reading with
       | some 0 => if e.asked then s.checkFrame die e 0 else s
       | some 1 => s.deliverSegment die e 1 data
       | _ => s)
    | none => s)

/-- SIPHON_SOURCE_TIMEOUT: a read that has not completed within 100 ms. -/
def execSiphonSourceTimeout (die : Nat) (frame : Nat) (s : State) : Host.Outcome State Fault Refusal :=
  .next (match (s.segmentsOn die).find? (fun e => decide (e.frame = frame)) with
    | some e =>
      (match e.reading with
       | some src => if e.since + 100000 * usCycles ≤ s.cyc then s.sourceFails die e src else s
       | none => s)
    | none => s)

end Sys2Proof.Machine
end

