-- ==== Sys2Proof/Machine/Host.lean ====
section
/-! DEFINITION. What the host reaches: the registers of the physical function and of the virtual functions (R394, R398, R400, R410, R422,
R452, R454), partitions (R395), IDE streams (R410), and the rings of records (R439). -/

namespace Sys2Proof.Machine

/-- Whether the host link carries accesses to registers and the module runs. -/
def State.serving (s : State) : Bool := s.hostUp && decide (s.phase = 2)

/-- Bytes lengthened with zeros to a size. -/
def padTo (n : Nat) (bs : List Byte) : List Byte := bs ++ zeros (n - bs.length)

/-! ### Partitions (R393 to R397) -/

/-- The clusters of some dies, as CLUSTERS counts them. -/
def diesClusters (dies : Nat) : Nat := ((List.range 4).map (fun d => if bitOf dies d then 0xFFFF * 2 ^ (16 * d) else 0)).sum

/-- The enabled partitions other than one. -/
def State.othersEnabled (s : State) (p : Nat) : List Partition := (s.partitions.filter (fun e => e.2.enable && decide (e.1 ≠ p))).map (·.2)

/-- Whether a partition entry names a die held in reset. -/
def State.namesBadDie (s : State) (e : Partition) : Bool :=
  (List.range 4).any (fun d => (s.die d).bad && (bitOf e.dies d || decide (bitsOf e.clusters (16 * d) 16 ≠ 0)))

/-- The ERR code of an attempt to enable a partition; 0 where every check of R395 holds. An overlap with a partition of the other kind
is 4 (Table 21.11). -/
def State.enableError (s : State) (p : Nat) : Nat :=
  let e := s.partition p
  let others := s.othersEnabled p
  let meets (x : Partition) : Bool := decide (x.clusters &&& e.clusters ≠ 0)
  if e.clusters = 0 then 1
  else if others.any (fun x => meets x && x.prot == e.prot) then 2
  else if e.prot && decide (e.clusters ≠ diesClusters e.dies) then 3
  else if others.any (fun x => meets x && x.prot != e.prot) || (!e.prot && decide (e.dies ≠ 0)) then 4
  else if e.prot && decide (4 ≤ (others.filter (·.prot)).length) then 5
  else if e.keyBase = 0 ∨ e.keyCount = 0 ∨ 1024 < e.keyBase + e.keyCount ∨
      others.any (fun x => decide (x.keyBase < e.keyBase + e.keyCount) && decide (e.keyBase < x.keyBase + x.keyCount)) then 6
  else if s.namesBadDie e then 8
  else 0

/-- A write that sets ENABLE (R395). -/
def State.enablePartition (s : State) (p : Nat) : State :=
  if (s.partition p).enable ∨ 16 ≤ p then s
  else
    let err := s.enableError p
    s.withPartition p (fun e => { e with enable := decide (err = 0), err := err })

/-- A write that clears ENABLE: accepted only while every micro-context of the partition is INVALID (R395). -/
def State.disablePartition (s : State) (p : Nat) : State :=
  if !(s.partition p).enable then s
  else if s.mcs.any (fun e => decide (e.2.part = p) && decide (e.2.state ≠ .invalid)) then s.withPartition p (fun e => { e with err := 7 })
  else s.withPartition p (fun e => { e with enable := false, err := 0 })

/-- PARTITION_ENABLE. -/
def execPartitionEnable (p : Nat) (s : State) : Host.Outcome State Fault Refusal := .next (if s.serving then s.enablePartition p else s)

/-- PARTITION_DISABLE. -/
def execPartitionDisable (p : Nat) (s : State) : Host.Outcome State Fault Refusal := .next (if s.serving then s.disablePartition p else s)

/-- The scheduling register of a partition (Table 14.4). -/
def Partition.sched (e : Partition) : Word := BitVec.ofNat 64 (e.tslice + e.age * 2 ^ 20 + e.ceil * 2 ^ 40)

/-- Lower PRIO.LEVEL of a bound unit to a ceiling, which PRIO shows from then on. -/
def Slot.lowerTo (l : Slot) (p ceil : Nat) : Slot :=
  if optAny l.bound (fun b => decide (b.part = p)) then { l with sr := { l.sr with level := min l.sr.level ceil, ceil := ceil } } else l

/-- A micro-context that stands at a ceiling when SCHED is written: the whole AGEs that have ended there raised it no further, so the count
goes on from the end of the last (R346). -/
def MicroContext.atCeiling (m : MicroContext) (ceil age cyc : Nat) : MicroContext :=
  if m.state = .ready ∧ ceil ≤ m.level ∧ age ≠ 0 then { m with risenAt := cyc - (cyc - m.risenAt) % (age * usCycles) } else m

/-- A write of SCHED: a lower CEIL lowers every level above it at once, in the ready queues and in bound units (R346, R347). -/
def State.writeSched (s : State) (p : Nat) (v : Word) : State :=
  if 16 ≤ p then s
  else
    let ceil := v.field 40 5
    let old := s.partition p
    let s1 := s.withPartition p (fun e => { e with ceil := ceil, age := v.field 20 20, tslice := v.field 0 20 })
    { s1 with
      mcs := s1.mcs.map (fun e => if e.2.part = p then (e.1, { (e.2.atCeiling old.ceil old.age s.cyc) with level := min e.2.level ceil }) else e)
      cells := s1.cells.map (fun e => (e.1, { e.2 with h0 := e.2.h0.lowerTo p ceil, h1 := e.2.h1.lowerTo p ceil })) }

/-- SCHED_WRITE. -/
def execSchedWrite (p : Nat) (value : Word) (s : State) : Host.Outcome State Fault Refusal := .next (if s.serving then s.writeSched p value else s)

/-- An 8-byte write of word w of a partition entry (Table 21.1): while ENABLE is 1, only SCHED and the clearing of ENABLE count. -/
def State.writeEntry (s : State) (p w : Nat) (v : Word) : State :=
  let e := s.partition p
  if w = 2 then s.writeSched p v
  else if e.enable then (if w = 1 ∧ !v.bit 8 then s.disablePartition p else s)
  else
    match w with
    | 0 => s.withPartition p (fun e => { e with clusters := v.toNat })
    | 1 =>
      let s1 := s.withPartition p (fun e => { e with dies := v.field 0 4, prot := v.bit 9 })
      if v.bit 8 then s1.enablePartition p else s1
    | 3 => s.withPartition p (fun e => { e with keyBase := v.field 0 16, keyCount := v.field 16 16 })
    | _ => s

/-- The 64 bytes of a partition entry as a read shows them (Table 21.1). -/
def Partition.bytes (e : Partition) : List Byte :=
  bytesOf 8 e.clusters ++ bytesOf 1 e.dies ++ bytesOf 1 (bit01 e.enable + 2 * bit01 e.prot) ++ bytesOf 1 e.err ++ zeros 5 ++
  bytesOf 8 e.sched.toNat ++ bytesOf 2 e.keyBase ++ bytesOf 2 e.keyCount ++ zeros 36

/-! ### Mailboxes (R400, R401) -/

/-- A mailbox: function 0 is the PF. -/
def State.mailbox (s : State) (func : Nat) : Mailbox := Map.get Mailbox.blank s.mailboxes func

/-- Change a mailbox. -/
def State.withMailbox (s : State) (func : Nat) (f : Mailbox → Mailbox) : State :=
  { s with mailboxes := Map.put Mailbox.blank s.mailboxes func (f (s.mailbox func)) }

/-- n bytes of a mailbox's DATA. -/
def Mailbox.bytes (m : Mailbox) (off n : Nat) : List Byte := (List.range n).map (fun i => Map.get 0 m.data (off + i))

/-- Write bytes of DATA; what passes its end is dropped. -/
def Mailbox.write (m : Mailbox) (off : Nat) (bs : List Byte) : Mailbox :=
  { m with data := bs.zipIdx.foldl (fun d e => if off + e.2 < 4080 then Map.put 0 d (off + e.2) e.1 else d) m.data }

/-- A call completes: DATA, then STATUS, then GO (R400). -/
def State.completeCall (s : State) (func status : Nat) (data : List Byte) : State :=
  s.withMailbox func (fun m => { (m.write 0 data) with status := status, len := min data.length 4080, go := false, delivered := false })

/-- Codes of the calls of Table 21.5. -/
def isLidCode (code : Nat) : Bool := decide (1 ≤ code ∧ code ≤ 7)

/-- A write of CTRL that sets GO submits a call; one that names no CLASS, or no call of Lid, completes at once with BADARG. Messages to
the PF driver come from VFs only. -/
def State.submitCall (s : State) (func cls code : Nat) : State :=
  let s1 := s.withMailbox func (fun m => { m with go := true, delivered := false, cls := cls, code := code })
  if cls = 1 ∧ isLidCode code then s1
  else if cls = 0 ∧ func ≠ 0 then s1
  else s1.completeCall func 1 []

/-- A write to a mailbox (Table 21.4a): while GO reads 1 it is ignored. -/
def State.writeMailbox (s : State) (func off : Nat) (v : Word) : State :=
  if (s.mailbox func).go then s
  else if off = 0 then
    (if v.bit 0 then s.submitCall func (v.field 4 4) (v.field 8 8)
     else s.withMailbox func (fun m => { m with cls := v.field 4 4, code := v.field 8 8 }))
  else if 0x10 ≤ off ∧ off < 0x1000 then s.withMailbox func (fun m => m.write (off - 0x10) (bytesOf 8 v.toNat))
  else s

/-- What a read of a mailbox shows. -/
def Mailbox.read (m : Mailbox) (off : Nat) : Word :=
  if off = 0 then BitVec.ofNat 64 (bit01 m.go + m.cls * 2 ^ 4 + m.code * 2 ^ 8)
  else if off = 8 then BitVec.ofNat 64 (m.status + m.len * 2 ^ 32)
  else BitVec.ofNat 64 (natOf (m.bytes (off - 0x10) 8))

/-- MAILBOX_PF_MESSAGE: a CLASS 0 call reaches the PF driver. -/
def execMailboxPfMessage (vf : Nat) (s : State) : Host.Outcome State Fault Refusal :=
  let m := s.mailbox vf
  .next (if m.go && decide (m.cls = 0) && !m.delivered && !(s.ideStream 0).stop.getD 0 false then
      (s.withMailbox vf (fun m => { m with delivered := true })).emit (.message vf m.code (m.bytes 0 4080))
    else s)

/-- MAILBOX_PF_RESPONSE: the PF driver writes the response and completes the call. -/
def execMailboxPfResponse (vf : Nat) (status : Nat) (data : List Byte) (s : State) : Host.Outcome State Fault Refusal :=
  let m := s.mailbox vf
  .next (if m.go && decide (m.cls = 0) && m.delivered then s.completeCall vf (status % 256) (data.take 4080) else s)

/-! ### IDE streams (R410) -/

/-- Change the IDE stream of a function. -/
def State.withIde (s : State) (func : Nat) (f : IdeStream → IdeStream) : State :=
  { s with ide := Map.put IdeStream.blank s.ide func (f (s.ideStream func)) }

/-- A write of the thresholds of a function: a field outside 16 to 40 leaves its threshold unchanged. -/
def State.writeThresholds (s : State) (func : Nat) (v : Word) : State :=
  let fields := [v.field 18 6, v.field 12 6, v.field 6 6]
  if 16 < func then s
  else s.withIde func (fun i => { i with thr := i.thr.mapIdx (fun k t => let f := fields.getD k 0; if 16 ≤ f ∧ f ≤ 40 then f else t) })

/-- IDE_THRESHOLD_WRITE. -/
def execIdeThresholdWrite (func : Nat) (value : Word) (s : State) : Host.Outcome State Fault Refusal :=
  .next (if s.serving then s.writeThresholds func value else s)

/-- IDE_THRESHOLD_REACHED: a sub-stream (0 P, 1 NP, 2 CPL) has sent 2^THR packets; WANT is set, and a key refresh is requested. -/
def execIdeThresholdReached (func : Nat) (sub : Nat) (s : State) : Host.Outcome State Fault Refusal :=
  .next (if func ≤ 16 ∧ sub < 3 ∧ !(s.ideStream func).want.getD sub true then
      s.withIde func (fun i => { i with want := i.want.set sub true, count := i.count.set sub (max (i.count.getD sub 0) (2 ^ i.thr.getD sub 0)) })
    else s)

/-- IDE_SUBSTREAM_STOP: a sub-stream that reaches twice its threshold before a refresh stops sending. -/
def execIdeSubstreamStop (func : Nat) (sub : Nat) (s : State) : Host.Outcome State Fault Refusal :=
  .next (if func ≤ 16 ∧ sub < 3 ∧ (s.ideStream func).want.getD sub false then
      s.withIde func (fun i => { i with stop := i.stop.set sub true, count := i.count.set sub (max (i.count.getD sub 0) (2 * 2 ^ i.thr.getD sub 0)) })
    else s)

/-- IDE_KEY_REFRESH: one sub-stream has a new key and goes on, with the posted writes that have waited for it; the others are not touched.
The stream is secure once each of its sub-streams has been keyed. -/
def execIdeKeyRefresh (func : Nat) (sub : Nat) (s : State) : Host.Outcome State Fault Refusal :=
  .next (if func ≤ 16 ∧ sub < 3 then
      (if sub = 0 then s.drained func else s).withIde func (fun i =>
        let r := i.refreshes.set sub (i.refreshes.getD sub 0 + 1)
        { i with want := i.want.set sub false, stop := i.stop.set sub false, count := i.count.set sub 0, refreshes := r
                 keys := i.keys.set sub (Config.ideKey func sub (r.getD sub 0))
                 secure := r.all (fun k => decide (k ≠ 0)) })
    else s)

/-- The thresholds at the bit positions of IDESTAT. -/
def IdeStream.thresholds (i : IdeStream) : Nat := i.thr.getD 0 0 * 2 ^ 18 + i.thr.getD 1 0 * 2 ^ 12 + i.thr.getD 2 0 * 2 ^ 6

/-- IDESTAT (Table 21.4). -/
def IdeStream.stat (i : IdeStream) : Word :=
  let bits (l : List Bool) : Nat := bit01 (l.getD 0 false) + 2 * bit01 (l.getD 1 false) + 4 * bit01 (l.getD 2 false)
  BitVec.ofNat 64 (bit01 i.secure + i.thresholds + bits i.want * 2 ^ 24 + bits i.stop * 2 ^ 27)

/-! ### Control commands (R423) -/

/-- CRES (R423): TAG, STATUS and VALUE. -/
def controlResult (tag status value : Nat) : List Byte := bytesOf 8 tag ++ bytesOf 1 status ++ zeros 3 ++ bytesOf 4 value

/-- The 64 bytes of CCMD. -/
def State.command (s : State) : List Byte := padTo 64 s.ccmd

/-- The command in CCMD is answered: CRES is written and CGO cleared. -/
def State.control (s : State) (status value : Nat) : State :=
  { s with cres := controlResult (natAt s.command 56 8) status value, cgo := false, ctlRuns := false }

/-- Whether a command names an operation and selects one of its kinds (Tables 22.3, 21.12, 23.1). -/
def controlKnown (c : List Byte) : Bool :=
  match byteAt c 0 with
  | 0x09 => decide (byteAt c 1 ≤ 4)
  | 0x0A => decide (byteAt c 1 ≤ 1) && decide (byteAt c 2 < 4) && decide (byteAt c 3 < (if byteAt c 1 = 0 then 16 else 4)) && zeroAt c 4 4
  | 0x0B => decide (byteAt c 1 ≤ 2)
  | 0x0C => decide (byteAt c 2 ≤ 1)
  | 0x0E => decide (byteAt c 2 ≤ 2)
  | 0x12 => decide (byteAt c 1 < 64) || decide (byteAt c 1 = 0xFF)
  | op => decide (1 ≤ op ∧ op ≤ 0x11)

/-- Whether the target of a RESET is in range (Table 22.5). -/
def resetTargetOk (rung target : Nat) : Bool :=
  match rung with
  | 0 => decide (target < 4096)
  | 1 => decide (target % 2 ^ 16 < 4096) && decide (target < 2 ^ 17)
  | 2 => decide (target % 16 < 4) && decide (target < 128)
  | 3 => decide (target < 16)
  | _ => decide (target = 0)

/-- Whether a RESET or FENCE command is free of non-zero bytes outside its operands. -/
def ladderCommandOk (c : List Byte) : Bool :=
  match byteAt c 0 with
  | 0x09 => zeroAt c 2 6 && zeroAt c 16 40 && resetTargetOk (byteAt c 1) (natAt c 8 8)
  | 0x0A => zeroAt c 8 48
  | _ => true

/-- A write of 1 to CGO: a command that names nothing is answered BADARG at once; any other waits for its event. -/
def State.submitControl (s : State) : State :=
  if s.cgo then s
  else
    let s1 := { s with cgo := true, ctlRuns := false }
    if controlKnown s1.command && ladderCommandOk s1.command then s1 else s1.control 1 0

/-! ### Registers of the physical function (Tables 22.1, 14.5, 23.3) -/

/-- A write of the power cap register of a die: a field out of range leaves its value (Table 23.3). -/
def Die.writeCap (d : Die) (v : Word) : Die :=
  let t := v.field 8 7
  let c := v.field 0 7
  { d with tlim := if 60 ≤ t ∧ t ≤ 110 then t else d.tlim, cap := if 1 ≤ c ∧ c ≤ 64 then c else d.cap }

/-- A write of the ramp register of a die (Table 14.5). -/
def Die.writeRamp (d : Die) (v : Word) : Die :=
  let c := v.field 0 7
  { d with rampOff := v.bit 7, step := if 1 ≤ c ∧ c ≤ 64 then c else d.step }

/-- An 8-byte write to a register of the PF. -/
def State.writePf (s : State) (off : Nat) (v : Word) : State :=
  if 0x40 ≤ off ∧ off < 0x60 then s.withDie ((off - 0x40) / 8) (fun d => d.writeCap v)
  else if 0x60 ≤ off ∧ off < 0x80 then s.withDie ((off - 0x60) / 8) (fun d => d.writeRamp v)
  else if 0x1000 ≤ off ∧ off < 0x1400 then s.writeEntry ((off - 0x1000) / 64) (off % 64 / 8) v
  else if 0x2000 ≤ off ∧ off < 0x2088 then s.writeThresholds ((off - 0x2000) / 8) v
  else if 0x4000 ≤ off ∧ off < 0x4040 then
    (if s.cgo then s else { s with ccmd := overlay s.command (off - 0x4000) (bytesOf 8 v.toNat) })
  else if off = 0x4050 then (if v.bit 0 then s.submitControl else s)
  else if 0x8000 ≤ off ∧ off < 0x9000 then s.writeMailbox 0 (off - 0x8000) v
  else s

/-- An 8-byte write to a register of a VF (Tables 21.2, 21.3). -/
def State.writeVf (s : State) (vf bar off : Nat) (v : Word) : State :=
  match bar with
  | 0 =>
    if 0x100 ≤ off ∧ off < 0x120 then
      { s with vfs := Map.put VfWalker.blank s.vfs vf (let w := Map.get VfWalker.blank s.vfs vf
                                                       { w with wcmd := overlay (padTo 32 w.wcmd) (off - 0x100) (bytesOf 8 v.toNat) }) }
    else if off = 0x130 then (if v.bit 0 then s.submitWalk vf else s)
    else s
  | 2 => if off < 0x1000 then s.writeMailbox vf off v else s
  | 4 =>
    let h := off / 256
    if off % 256 = 0 ∧ h < 4096 ∧ !s.closed h ∧ (s.mc h).part + 1 = vf then s.notify h v.toNat else s
  | _ => s

/-- REGISTER_WRITE: an aligned host write of 8 bytes. -/
def execRegisterWrite (func : Nat) (bar : Nat) (offset : Nat) (value : Word) (s : State) : Host.Outcome State Fault Refusal :=
  .next (if !s.serving || decide (offset % 8 ≠ 0) then s
    else if func = 0 then (if bar = 0 then s.writePf offset value else s)
    else if func ≤ 16 then s.writeVf func bar offset value
    else s)

/-! ### Reads -/

/-- DEVSTAT (Table 22.2). -/
def State.devstat (s : State) : Word :=
  let marks (n : Nat) (f : Nat → Bool) : Nat := ((List.range n).map (fun i => bit01 (f i) * 2 ^ i)).sum
  BitVec.ofNat 64 (s.phase + bit01 s.warm * 2 ^ 2 + bit01 (!s.rungs.isEmpty) * 2 ^ 3 + marks 4 (fun d => (s.die d).up) * 2 ^ 24 +
    marks 4 (fun d => (s.die d).bad) * 2 ^ 28 + marks 16 (fun k => bitOf (s.die (k / 4)).fencedStacks (k % 4)) * 2 ^ 32)

/-- CLUFENCE (Table 22.1). -/
def State.clufence (s : State) : Word := BitVec.ofNat 64 ((List.range 4).map (fun d => (s.die d).fencedClusters % 2 ^ 16 * 2 ^ (16 * d))).sum

/-- The telemetry block that a function sees of a die before its first refresh (Table 23.4). -/
def telemetryBlank : List Word := [0, 0, 0, 0, 0, 0x410, 0, 0]

/-- The telemetry block that a function sees of a die. -/
def State.telemetryOf (s : State) (func die : Nat) : List Word := Map.get telemetryBlank s.telemetry (4 * func + die)

/-- Whether a partition holds a die, or a cluster of it. -/
def Partition.holdsDie (e : Partition) (d : Nat) : Bool := bitOf e.dies d || decide (bitsOf e.clusters (16 * d) 16 ≠ 0)

/-- What an aligned 8-byte read of a register of the PF returns. -/
def State.readPf (s : State) (off : Nat) : Word :=
  if off = 0 then s.devstat
  else if off = 8 then s.clufence
  else if off = 0x10 then BitVec.ofNat 64 s.starts
  else if off = 0x18 then BitVec.ofNat 64 s.refused
  else if 0x40 ≤ off ∧ off < 0x60 then
    let d := s.die ((off - 0x40) / 8)
    BitVec.ofNat 64 (d.cap + d.tlim * 2 ^ 8)
  else if 0x60 ≤ off ∧ off < 0x80 then
    let d := s.die ((off - 0x60) / 8)
    BitVec.ofNat 64 (d.step + bit01 d.rampOff * 2 ^ 7)
  else if 0x1000 ≤ off ∧ off < 0x1400 then BitVec.ofNat 64 (natAt (s.partition ((off - 0x1000) / 64)).bytes (off % 64) 8)
  else if 0x2000 ≤ off ∧ off < 0x2088 then BitVec.ofNat 64 (s.ideStream ((off - 0x2000) / 8)).thresholds
  else if 0x3000 ≤ off ∧ off < 0x3400 then (s.telemetryOf 0 ((off - 0x3000) / 256)).getD (off % 256 / 8) 0
  else if off = 0x4040 ∨ off = 0x4048 then BitVec.ofNat 64 (natAt s.cres (off - 0x4040) 8)
  else if off = 0x4050 then BitVec.ofNat 64 (bit01 s.cgo)
  else if 0x8000 ≤ off ∧ off < 0x9000 then (s.mailbox 0).read (off - 0x8000)
  else 0

/-- What an aligned 8-byte read of a register of a VF returns (Table 21.3). -/
def State.readVf (s : State) (vf bar off : Nat) : Word :=
  let e := s.partition (vf - 1)
  match bar with
  | 0 =>
    if off = 0 then BitVec.ofNat 64 (vf - 1 + bit01 e.prot * 2 ^ 4 + e.dies * 2 ^ 8 + countOnes 64 e.clusters * 2 ^ 32)
    else if off = 8 then BitVec.ofNat 64 e.clusters
    else if off = 0x10 then e.sched
    else if off = 0x18 then BitVec.ofNat 64 (e.keyBase + e.keyCount * 2 ^ 16)
    else if off = 0x120 ∨ off = 0x128 then BitVec.ofNat 64 (natAt (Map.get VfWalker.blank s.vfs vf).wres (off - 0x120) 8)
    else if off = 0x130 then BitVec.ofNat 64 (bit01 (Map.get VfWalker.blank s.vfs vf).wgo)
    else if off = 0x200 then (s.ideStream vf).stat
    else if 0x3000 ≤ off ∧ off < 0x3400 ∧ e.holdsDie ((off - 0x3000) / 256) then
      (s.telemetryOf vf ((off - 0x3000) / 256)).getD (off % 256 / 8) 0
    else 0
  | 2 => if off < 0x1000 then (s.mailbox vf).read off else 0
  | _ => 0

/-- What an aligned 8-byte host read returns; none where nothing answers: in a failed module only DEVSTAT and the mailbox status do (R426),
and a completion waits while the function's completion sub-stream has stopped (R410). -/
def State.hostRead (s : State) (func bar off : Nat) : Option Word :=
  if !s.hostUp || (s.ideStream func).stop.getD 2 false then none
  else if s.phase = 2 then some (if func = 0 then (if bar = 0 then s.readPf off else 0) else if func ≤ 16 then s.readVf func bar off else 0)
  else if s.phase = 1 then (if func = 0 ∧ bar = 0 ∧ off = 0 then some s.devstat else none)
  else if s.phase = 3 ∧ func = 0 ∧ bar = 0 ∧ (off = 0 ∨ off = 0x8008) then some (s.readPf off)
  else if s.phase = 3 ∧ 1 ≤ func ∧ func ≤ 16 ∧ bar = 2 ∧ off = 8 then some (s.readVf func bar off)
  else none

/-! ### Rings (R439) -/

/-- Bytes of an entry of a ring: completion records are 32 bytes, error records 64. -/
def ringEntry (k : Nat) : Nat := if k % 2 = 0 then 32 else 64

/-- Whether a ring has room: it is set up, its host memory can be read and written, and the host's consumer index is less than 2^LOG2N
behind. -/
def State.ringRoom (s : State) (k : Nat) : Bool :=
  match Map.find s.rings k with
  | none => false
  | some r =>
    s.hostUp && !(s.ideStream (k / 2)).stop.getD 0 false && !(s.ideStream (k / 2)).stop.getD 1 false &&
    decide (r.produced < natOf (Memory.read s.mem (hostAt (r.base + 8)) 8) + 2 ^ r.log2n)

/-- Write a record to a ring: the entry, then the producer index. -/
def State.ringPut (s : State) (k : Nat) (bs : List Byte) : State :=
  match Map.find s.rings k with
  | none => s
  | some r =>
    let at_ := hostAt (r.base + 64 + ringEntry k * (r.produced % 2 ^ r.log2n))
    { s with
      mem := Memory.write (Memory.write s.mem at_ bs) (hostAt r.base) (bytesOf 8 (r.produced + 1))
      rings := Map.set s.rings k { r with produced := r.produced + 1 } }

/-- The first waiting record that some ring of its own has room for, with the records before and after it. -/
def State.writable (s : State) (before : List Record) : List Record → Option (List Record × Record × List Record)
  | [] => none
  | r :: t => if r.rings.any s.ringRoom then some (before, r, t) else s.writable (before ++ [r]) t

/-- RING_WRITE: the oldest record that a ring has room for is written there; it waits on while another of its rings is full. -/
def execRingWrite (die : Nat) (s : State) : Host.Outcome State Fault Refusal :=
  .next (match s.writable [] (s.die die).records with
    | none => s
    | some (before, r, rest) =>
      let ready := r.rings.filter s.ringRoom
      let left := r.rings.filter (fun k => !s.ringRoom k)
      let s1 := ready.foldl (fun s k => s.ringPut k r.bytes) s
      s1.withDie die (fun d => { d with records := before ++ (if left.isEmpty then [] else [{ r with rings := left }]) ++ rest }))

/-- HOST_LINK_DOWN: resident work goes on; records wait (R9). -/
def execHostLinkDown (s : State) : Host.Outcome State Fault Refusal := .next { s with hostUp := false }

/-- HOST_LINK_UP. -/
def execHostLinkUp (s : State) : Host.Outcome State Fault Refusal := .next { s with hostUp := true }

end Sys2Proof.Machine
end

