-- ==== Sys2Proof/Machine/Lid.lean ====
section
/-! DEFINITION. The calls to Lid (R401, Tables 21.5, 21.6): protected page tables (R402), keys (R405, R406), the re-encryption sweep (R407,
R408) and attestation (R420). A call takes effect in full or not at all. -/

namespace Sys2Proof.Machine

/-- The arguments of the call that waits in a mailbox, if it is the call of a code and Lid runs. -/
def State.lidCall (s : State) (func code : Nat) : Option (List Byte) :=
  let m := s.mailbox func
  if m.go && decide (m.cls = 1) && decide (m.code = code) && decide (s.phase = 2) && decide (func ≤ 16) then some (m.bytes 0 1600) else none

/-- Carry out a call: what it answers, and the state where it takes effect. -/
def State.serveCall (s : State) (func code : Nat) (f : List Byte → State × Nat × List Byte) : Host.Outcome State Fault Refusal :=
  .next (match s.lidCall func code with
    | none => s
    | some a =>
      let (s1, status, data) := f a
      s1.completeCall func status data)

/-- A call that changes nothing. -/
def State.denyCall (s : State) (status : Nat) : State × Nat × List Byte := (s, status, [])

/-- Whether a slot lies in the key range of a partition (Table 21.1). -/
def Partition.hasSlot (e : Partition) (k : Nat) : Bool := e.enable && decide (e.keyBase ≤ k) && decide (k < e.keyBase + e.keyCount)

/-- Whether an enabled protected partition holds a slot. -/
def State.slotProtected (s : State) (k : Nat) : Bool := s.partitions.any (fun e => e.2.prot && e.2.hasSlot k)

/-- Whether a slot lies in the PF's reserved range: no enabled partition holds it (23.8, R414). -/
def State.slotReserved (s : State) (k : Nat) : Bool := decide (1 ≤ k ∧ k < 1024) && !s.partitions.any (fun e => e.2.hasSlot k)

/-- Whether a caller may load, clear or name a slot: a VF one of its range, the PF one that no protected partition holds. -/
def State.maySlot (s : State) (func k : Nat) : Bool :=
  if func = 0 then !s.slotProtected k else (s.partition (func - 1)).hasSlot k

/-! ### Page tables of protected partitions (R402) -/

/-- Whether a caller may edit the tables of a micro-context: a VF of a protected partition, and its own handle, INVALID or IDLE. A handle
that nothing has configured since it became INVALID is no other partition's. -/
def State.mayEdit (s : State) (func h : Nat) : Bool :=
  let m := s.mc h
  decide (func ≠ 0) && s.isProtected (func - 1) &&
  (match m.state with
   | .invalid => !m.written || decide (m.part + 1 = func)
   | .idle => decide (m.part + 1 = func)
   | _ => false)

/-- HOME of a micro-context; handle mod 4 while no control block has been written for it (Table 14.1). -/
def State.homeOf (s : State) (h : Nat) : Nat :=
  let m := s.mc h
  if m.state = .invalid ∧ !m.written then h % 4 else m.home

/-- Tables that Lid has allocated on a die. -/
def State.tablesOn (s : State) (die : Nat) : List Nat := (s.tables.flatMap (·.2)).filter (fun a => decide (a / 2 ^ 38 = die))

/-- A place for a new table on a die: none where Lid cannot allocate one. -/
def State.newTable (s : State) (die : Nat) : Option Nat :=
  let n := (s.tablesOn die).length
  let a := die * 2 ^ 38 + (Config.tableAddress die n).toNat % 2 ^ 26 * 4096
  if (s.tablesOn die).contains a ∨ s.reserved a ∨ Map.get 0 s.frameKeys (frameOf a) ≠ 0 then none else some a

/-- A table is allocated for a micro-context, and zeroed. -/
def State.addTable (s : State) (h a : Nat) : State := { s.wipe a 4096 with tables := Map.put [] s.tables h (a :: Map.get [] s.tables h) }

/-- PTROOT. -/
def execPtroot (func : Nat) (s : State) : Host.Outcome State Fault Refusal :=
  s.serveCall func 1 (fun a =>
    let h := natAt a 0 2
    let die := s.homeOf h
    if 4096 ≤ h ∨ !zeroAt a 2 6 then s.denyCall 1
    else if !s.mayEdit func h || !bitOf (s.partition (func - 1)).dies die then s.denyCall 2
    else
      match s.newTable die with
      | none => s.denyCall 5
      | some t =>
        let s1 := { s with tables := Map.put [] s.tables h [] }
        ((s1.addTable h t).withMc h (fun m => { m with root := t, home := die, part := func - 1 }), 0, bytesOf 8 t))

/-- The tables of a tree at a level and below, as address, level and first virtual address: each table's non-leaf entries that are present
name the next. -/
def State.treeFrom (s : State) (t va : Nat) : Nat → List (Nat × Nat × Nat)
  | 0 => []
  | lv + 1 =>
    (t, lv, va) :: (if lv = 0 then [] else
      (List.range 512).flatMap (fun i =>
        let e := natOf (s.load (t + 8 * i) 8)
        if bitOf e 0 && !bitOf e 1 then s.treeFrom (bitsOf e 12 40 * 2 ^ 12) (va + i * 2 ^ (12 + 9 * lv)) lv else []))

/-- The tables of a micro-context's tree. -/
def State.treeOf (s : State) (h : Nat) : List (Nat × Nat × Nat) :=
  if (Map.get [] s.tables h).contains (s.mc h).root then s.treeFrom (s.mc h).root 0 5 else []

/-- The frames that a range of physical addresses touches. -/
def framesOf (base size : Nat) : List Nat := (List.range (frameOf (base + size - 1) + 1 - frameOf base)).map (frameOf base + ·)

/-- Whether a leaf may stand in a protected tree: inside the partition's protected memory, P set and H clear, and keyed with a slot of
the partition; a SEG leaf maps a resident segment (R402). -/
def State.leafAllowed (s : State) (p lv e : Nat) : Bool :=
  let base := pageBase lv e
  let size := pageSize lv e
  let part := s.partition p
  let held (a : Nat) : Bool := decide (a < 2 ^ 40 + 2 ^ 33) && bitOf part.dies (homeDie a)
  bitOf e 8 && !bitOf e 7 && held base && held (base + size - 1) &&
  (if bitOf e 6 then decide (Map.find s.residency (frameOf base) = some .resident)
   else !isDevice base || (framesOf base size).all (fun f => part.hasSlot (Map.get 0 s.frameKeys f)))

/-- PTWRITE. -/
def execPtwrite (func : Nat) (s : State) : Host.Outcome State Fault Refusal :=
  s.serveCall func 2 (fun a =>
    let h := natAt a 0 2
    let t := natAt a 8 8
    let i := natAt a 16 2
    let e := natAt a 24 8
    if 4096 ≤ h ∨ !zeroAt a 2 6 ∨ 512 ≤ i ∨ !zeroAt a 18 6 then s.denyCall 1
    else if !s.mayEdit func h then s.denyCall 2
    else
      let tree := s.treeOf h
      match tree.find? (fun x => decide (x.1 = t)) with
      | none => s.denyCall 2
      | some (_, lv, _) =>
        let leaf := decide (lv = 0) || bitOf e 1
        let bad := match s.entryFault lv e with
          | some sub => decide (sub ≠ 0)
          | none => false
        if bad || (bitOf e 0 && leaf && !s.leafAllowed (func - 1) lv e) then s.denyCall 2
        else
          let span := 2 ^ (12 + 9 * lv)
          let old := tree.filter (fun x => decide (x.1 = t))
          let write (s : State) (e : Nat) : State × Nat × List Byte :=
            let s1 := s.store (t + 8 * i) (bytesOf 8 e)
            (s1.purge (fun b => old.any (fun x => b.overlaps h (x.2.2 + i * span) span)), 0, bytesOf 8 e)
          if bitOf e 0 && !leaf && !tree.any (fun x => decide (x.1 = bitsOf e 12 40 * 2 ^ 12) && decide (x.2.1 + 1 = lv)) then
            match s.newTable (s.homeOf h) with
            | none => s.denyCall 5
            | some n => write (s.addTable h n) (n + e % 2 ^ 12 + e / 2 ^ 52 * 2 ^ 52)
          else write s e)

/-! ### Keys (R404 to R406) -/

/-- The key and the check value that a shared secret gives for a slot (R405). -/
def slotKey (ss : List Byte) (slot : Nat) : List Byte := shake256 (ss ++ asciiBytes "PK4 slot key" ++ bytesOf 2 slot) 32
def keyCheck (key : List Byte) : List Byte := shake256 (key ++ asciiBytes "PK4 key check") 16

/-- Whether a control block names a slot. -/
def State.blockNames (s : State) (k : Nat) : Bool :=
  s.mcs.any (fun e => decide (e.2.keySlot = k) && (e.2.written || decide (e.2.state ≠ .invalid)))

/-- Whether a frame is keyed with a slot. -/
def State.frameNames (s : State) (k : Nat) : Bool := s.frameKeys.any (fun e => decide (e.2 = k))

/-- Sweeps that have not reached their end. -/
def Sweep.running (w : Sweep) : Bool := decide (w.sp < (w.first + w.count) * 2 ^ 21)

/-- KEYLOAD. -/
def execKeyload (func : Nat) (s : State) : Host.Outcome State Fault Refusal :=
  s.serveCall func 3 (fun a =>
    let k := natAt a 0 2
    if k = 0 ∨ 1024 ≤ k ∨ !zeroAt a 2 6 then s.denyCall 1
    else if !s.maySlot func k then s.denyCall 2
    else if (Map.find s.keys k).isSome && (s.frameNames k || s.blockNames k) then s.denyCall 3
    else
      let key := slotKey (Config.kemDecapsulate ((a.drop 8).take 1568)) k
      if keyCheck key = (a.drop 1576).take 16 then ({ s with keys := Map.set s.keys k (natOf key) }, 0, []) else s.denyCall 4)

/-- KEYCLR. -/
def execKeyclr (func : Nat) (s : State) : Host.Outcome State Fault Refusal :=
  s.serveCall func 4 (fun a =>
    let k := natAt a 0 2
    if k = 0 ∨ 1024 ≤ k then s.denyCall 1
    else if !s.maySlot func k then s.denyCall 2
    else if s.frameNames k || s.blockNames k || s.sweeps.any (fun w => w.running && (decide (w.oldSlot = k) || decide (w.newSlot = k))) then
      s.denyCall 3
    else ({ s with keys := Map.drop s.keys k }, 0, []))

/-- Whether a caller may key a frame: the PF one of an unprotected die, a VF of a protected partition one of its dies (R401). -/
def State.mayFrame (s : State) (func f : Nat) : Bool :=
  match s.protector (homeDie (f * 2 ^ 21)) with
  | none => decide (func = 0)
  | some p => decide (p + 1 = func)

/-- Whether a frame holds data that the caller does not own: a segment, a table of Lid, or data under another partition's slot. -/
def State.foreignFrame (s : State) (func f : Nat) : Bool :=
  let k := Map.get 0 s.frameKeys f
  decide (k = segmentSlot) || (s.tables.flatMap (·.2)).any (fun a => decide (frameOf a = f)) ||
  (decide (func ≠ 0) && s.partitions.any (fun e => decide (e.1 + 1 ≠ func) && e.2.hasSlot k)) || (decide (func = 0) && s.slotProtected k)

/-- The frames FIRST to FIRST + COUNT − 1. -/
def frameRange (first count : Nat) : List Nat := (List.range count).map (first + ·)

/-- Whether a range of frames lies in device memory. -/
def State.framesExist (s : State) (first count : Nat) : Bool :=
  decide (1 ≤ count) && decide (first + count ≤ 2 ^ 19) && (frameRange first count).all (fun f => !s.reserved (f * 2 ^ 21 + 2 ^ 21 - 1))

/-- Whether a running sweep covers a frame of a range. -/
def State.sweeping (s : State) (first count : Nat) : Bool :=
  s.sweeps.any (fun w => w.running && decide (w.first < first + count) && decide (first < w.first + w.count))

/-- Key some frames with a slot. -/
def State.keyFrames (s : State) (fs : List Nat) (k : Nat) : State :=
  { s with frameKeys := fs.foldl (fun m f => Map.put 0 m f k) s.frameKeys }

/-- FRAMEKEY: the frames are keyed and zeroed under the new key. -/
def execFramekey (func : Nat) (s : State) : Host.Outcome State Fault Refusal :=
  s.serveCall func 5 (fun a =>
    let first := natAt a 0 8
    let count := natAt a 8 8
    let k := natAt a 16 2
    if 2 ^ 19 < count ∨ 2 ^ 19 < first ∨ 1024 ≤ k then s.denyCall 1
    else if !s.framesExist first count then s.denyCall 1
    else if k = 0 ∨ !s.maySlot func k ∨ (frameRange first count).any (fun f => !s.mayFrame func f || s.foreignFrame func f) then s.denyCall 2
    else if s.sweeping first count then s.denyCall 3
    else ((s.wipe (first * 2 ^ 21) (count * 2 ^ 21)).keyFrames (frameRange first count) k, 0, []))

/-! ### The sweep (R407, R408) -/

/-- The line at SP is rewritten under the new key (R408): every access to it waits for that, so it is done as SP arrives there. A line
whose old slot holds no key is written as zeros. -/
def State.rewriteLine (s : State) (w : Sweep) : State :=
  let held (k : Nat) : Bool := decide (k = 0) || (Map.find s.keys k).isSome
  if held w.oldSlot || !held w.newSlot then s else s.wipe w.sp 64

/-- The dies on which a range of frames lies. -/
def framesDies (first count : Nat) : List Nat :=
  (List.range 4).filter (fun d => decide (homeDie (first * 2 ^ 21) ≤ d) && decide (d ≤ homeDie ((first + count - 1) * 2 ^ 21)))

/-- Sweeps that run on a die (R407). -/
def State.sweepsOn (s : State) (die : Nat) : Nat :=
  (s.sweeps.filter (fun w => w.running && (framesDies w.first w.count).contains die)).length

/-- REKEY: a sweep starts. -/
def execRekey (func : Nat) (s : State) : Host.Outcome State Fault Refusal :=
  match s.lidCall func 6 with
  | some a =>
    if natAt a 8 8 = 0 then .next s
    else
      s.serveCall func 6 (fun a =>
        let first := natAt a 0 8
        let count := natAt a 8 8
        let k := natAt a 16 2
        let fs := frameRange first count
        let old := Map.get 0 s.frameKeys first
        let die := homeDie (first * 2 ^ 21)
        if 2 ^ 19 < count ∨ 2 ^ 19 < first ∨ 1024 ≤ k then s.denyCall 1
        else if !s.framesExist first count || fs.any (fun f => decide (Map.get 0 s.frameKeys f ≠ old)) then s.denyCall 1
        else if k = 0 ∨ old = 0 ∨ !s.maySlot func k ∨ fs.any (fun f => !s.mayFrame func f || s.foreignFrame func f) then s.denyCall 2
        else if s.sweeping first count || (framesDies first count).any (fun d => decide (16 ≤ s.sweepsOn d)) then s.denyCall 3
        else
          let w : Sweep := { die := die, first := first, count := count, oldSlot := old, newSlot := k, sp := first * 2 ^ 21 }
          let meets (x : Sweep) : Bool := decide (x.first < first + count) && decide (first < x.first + x.count)
          (({ s with sweeps := s.sweeps.filter (fun x => !meets x) ++ [w] }).rewriteLine w, 0, []))
  | none => .next s

/-- REKEY_STATUS: a REKEY with COUNT 0 answers the pointer of the sweep that covers FIRST, and in bit 0 whether it is done. -/
def execRekeyStatus (func : Nat) (s : State) : Host.Outcome State Fault Refusal :=
  match s.lidCall func 6 with
  | some a =>
    if natAt a 8 8 ≠ 0 then .next s
    else
      s.serveCall func 6 (fun a =>
        let first := natAt a 0 8
        match s.sweeps.find? (fun w => decide (w.first ≤ first) && decide (first < w.first + w.count)) with
        | none => s.denyCall 1
        | some w => if !s.mayFrame func first then s.denyCall 2 else (s, 0, bytesOf 8 (w.sp + bit01 (!w.running))))
  | none => .next s

/-- SWEEP_STEP: SP moves past a line, and the next is rewritten, as one indivisible step; at the end the frame key map names the new slot. -/
def execSweepStep (k : Nat) (s : State) : Host.Outcome State Fault Refusal :=
  .next (match s.sweeps[k]? with
    | none => s
    | some w =>
      if !w.running then s
      else
        let w1 := { w with sp := w.sp + 64 }
        let s1 := { s with sweeps := s.sweeps.set k w1 }
        if w1.running then s1.rewriteLine w1 else s1.keyFrames (frameRange w.first w.count) w.newSlot)

/-! ### Attestation (R420) -/

/-- The image of a kind (0 Jalcen, 1 Ladle microcode, 2 Lid) that runs on a die. -/
def State.runningImage (s : State) (die kind : Nat) : Nat :=
  match Map.find s.firmware (3 * die + kind) with
  | some f => f.running.hash
  | none => 0

/-- The 512-byte report (Table 21.9) for a caller. -/
def State.report (s : State) (func : Nat) (nonce : List Byte) : List Byte :=
  let e := if func = 0 then Partition.blank else s.partition (func - 1)
  bytesOf 4 1 ++ zeros 4 ++ shake256 Config.identityKey 32 ++ nonce ++ bytesOf 1 (if func = 0 then 0xFF else func - 1) ++
  bytesOf 1 (bit01 e.prot) ++ bytesOf 1 e.dies ++ zeros 5 ++ (List.range 4).flatMap (fun d => bytesOf 32 (s.runningImage d 0)) ++
  (List.range 4).flatMap (fun d => bytesOf 32 (s.runningImage d 1)) ++
  shake256 ((List.range 16).flatMap (fun p => (s.partition p).bytes)) 32 ++ shake256 Config.kemKey 32 ++ bytesOf 8 s.cyc ++ bytesOf 8 s.starts ++
  zeros 96

/-- ATTEST: the report and its signature. -/
def execAttest (func : Nat) (s : State) : Host.Outcome State Fault Refusal :=
  s.serveCall func 7 (fun a =>
    let (n, s1) := s.next
    let r := s.report func (a.take 32)
    (s1, 0, r ++ (padTo 3309 (Config.sign n r)).take 3309))

end Sys2Proof.Machine
end

