-- ==== Sys2Proof/Machine/Migrate.lean ====
section
/-! DEFINITION. Migration to a peer module (R450, R451): what the source sends, what the destination makes of it, and how either gives
up. The bodies of the messages are the model's own, since only another module reads them. -/

namespace Sys2Proof.Machine

/-! ### Words of a message body -/

/-- Words as bytes, and back. -/
def wordsBytes (ws : List Nat) : List Byte := ws.flatMap (bytesOf 8)
def bytesWords (bs : List Byte) : List Nat := (List.range (bs.length / 8)).map (fun i => natAt bs (8 * i) 8)

/-- The first n groups of k words. -/
def groupsOf (k : Nat) (ws : List Nat) : Nat → List (List Nat)
  | 0 => []
  | n + 1 => ws.take k :: groupsOf k (ws.drop k) n

/-- Word i of a list. -/
def wordAt (ws : List Nat) (i : Nat) : Nat := ws.getD i 0

/-- A word and 1, with 0 for none. -/
def optWord : Option Nat → Nat
  | none => 0
  | some n => n + 1

/-- What `optWord` stands for. -/
def wordOpt (n : Nat) : Option Nat := if n = 0 then none else some (n - 1)

/-- A replay window as three words. -/
def replayWords : Option Replay → List Nat
  | none => [0, 0, 0]
  | some r => [1, r.high, r.seen.toNat]

/-- A replay window from its words. -/
def wordsReplay (ws : List Nat) : Option Replay :=
  if wordAt ws 0 = 0 then none else some { high := wordAt ws 1, seen := BitVec.ofNat 64 (wordAt ws 2) }

/-! ### Stream records -/

/-- A stream record as words, without its owner and the tags of its entries: no window is open where it moves. -/
def StreamRec.words (r : StreamRec) : List Nat :=
  [r.live.toNat, r.fbuf.toNat, r.len0, r.len1, r.c, r.p, r.knext, r.oseq, r.drops, optWord r.held, r.ckpts.length, r.queue.length,
   r.delivery.length, r.notices.length] ++
  r.regions.flatMap (fun x => [x.1.toNat, x.2.1, x.2.2]) ++ r.ckpts ++ r.queue.flatMap (fun f => [f.play, f.kind, f.len, f.buf]) ++
  r.delivery.flatMap (fun e => [e.token, e.pos, bit01 e.prov, bit01 e.sent]) ++ r.notices

/-- A stream record of an owner from its words. -/
def wordsStream (owner : Nat) (ws : List Nat) : StreamRec :=
  let nk := wordAt ws 10
  let nq := wordAt ws 11
  let nd := wordAt ws 12
  let b1 := ws.drop 26
  let b2 := b1.drop nk
  let b3 := b2.drop (4 * nq)
  { owner := owner, regions := (groupsOf 3 (ws.drop 14) 4).map (fun g => (BitVec.ofNat 64 (wordAt g 0), wordAt g 1, wordAt g 2))
    live := BitVec.ofNat 64 (wordAt ws 0), fbuf := BitVec.ofNat 64 (wordAt ws 1), len0 := wordAt ws 2, len1 := wordAt ws 3, c := wordAt ws 4
    p := wordAt ws 5, ckpts := b1.take nk, knext := wordAt ws 6
    queue := (groupsOf 4 b2 nq).map (fun g => { play := wordAt g 0, kind := wordAt g 1, len := wordAt g 2, buf := wordAt g 3 })
    held := wordOpt (wordAt ws 9)
    delivery := (groupsOf 4 b3 nd).map (fun g =>
      { token := wordAt g 0, pos := wordAt g 1, tag := none, prov := decide (wordAt g 2 = 1), sent := decide (wordAt g 3 = 1) })
    notices := (b3.drop (4 * nd)).take (wordAt ws 13), drops := wordAt ws 8, oseq := wordAt ws 7 }

/-- The stream records that a micro-context owns. -/
def State.ownedStreams (s : State) (h : Nat) : List Nat := (s.streams.filter (fun e => decide (e.2.owner = h))).map (·.1)

/-! ### Control blocks -/

/-- A waiting job as words: a deadline is given as the cycles that remain. -/
def State.pendingWords (s : State) (p : PendingJob) : List Nat :=
  (match p.source with
   | .request k => [0, k]
   | .queue i => [1, i]
   | .stream => [2, 0]) ++ [p.lrec.toNat, p.param.toNat, optWord (p.deadline.map (fun d => d - s.cyc)), p.route.toNat, p.port, p.seq]

/-- A waiting job from its words, under a number. -/
def State.wordsPending (s : State) (id : Nat) (ws : List Nat) : PendingJob :=
  { id := id
    source := (match wordAt ws 0 with
      | 0 => .request (wordAt ws 1)
      | 1 => .queue (wordAt ws 1)
      | _ => .stream)
    lrec := BitVec.ofNat 64 (wordAt ws 2), param := BitVec.ofNat 64 (wordAt ws 3), deadline := (wordOpt (wordAt ws 4)).map (fun d => s.cyc + d)
    route := BitVec.ofNat 64 (wordAt ws 5), port := wordAt ws 6, seq := wordAt ws 7, at_ := s.cyc, parked := false }

/-- A control block with its counters, its marks and its ring contents as words; times are given as the cycles that have passed. -/
def State.blockWords (s : State) (m : MicroContext) : List Nat :=
  [m.home, m.base, m.savel, m.lrec.toNat, m.root, m.keySlot, m.quota, m.dline, m.tsave.toNat, m.rqring.toNat, m.qbase.toNat, m.qlog, m.qsrc,
   m.parks, m.rqdrop, m.authfail, m.dlmiss, bit01 m.wake, m.head, m.tail, m.skipped, m.ring.length, m.waiting.length, bit01 m.pend,
   s.cyc - m.readyAt, m.notes.length] ++
  m.windows.flatMap (fun w => [w.1, w.2]) ++ m.ring ++ m.waiting.flatMap s.pendingWords ++ m.notes.flatMap (fun e => [e.1, s.cyc - e.2])

/-- A control block of a partition from its words, not yet in use, and the state that has numbered its waiting jobs. -/
def State.wordsBlock (s : State) (part : Nat) (ws : List Nat) : MicroContext × State :=
  let nr := wordAt ws 21
  let nw := wordAt ws 22
  let nn := wordAt ws 25
  let b := ws.drop 34
  let m : MicroContext := { MicroContext.blank with
    home := wordAt ws 0, part := part, base := wordAt ws 1, savel := wordAt ws 2, lrec := BitVec.ofNat 64 (wordAt ws 3), root := wordAt ws 4
    keySlot := wordAt ws 5, quota := wordAt ws 6, dline := wordAt ws 7, tsave := BitVec.ofNat 64 (wordAt ws 8)
    rqring := BitVec.ofNat 64 (wordAt ws 9), qbase := BitVec.ofNat 64 (wordAt ws 10), qlog := wordAt ws 11, qsrc := wordAt ws 12
    parks := wordAt ws 13, rqdrop := wordAt ws 14, authfail := wordAt ws 15, dlmiss := wordAt ws 16, wake := decide (wordAt ws 17 = 1)
    head := wordAt ws 18, tail := wordAt ws 19, skipped := wordAt ws 20, written := true
    pend := decide (wordAt ws 23 = 1), readyAt := s.cyc - wordAt ws 24
    notes := (groupsOf 2 (b.drop (nr + 8 * nw)) nn).map (fun g => (wordAt g 0, s.cyc - wordAt g 1))
    windows := (groupsOf 2 (ws.drop 26) 4).map (fun g => (wordAt g 0, wordAt g 1)), ring := b.take nr
    waiting := ((groupsOf 8 (b.drop nr) nw).zipIdx).map (fun e => s.wordsPending (s.fresh + e.2) e.1) }
  (m, { s with fresh := s.fresh + nw })

/-! ### Page trees of protected micro-contexts -/

/-- A tree as words: address, first virtual address, level and the 512 entries of each table. -/
def State.treeWords (s : State) (h : Nat) : List Nat :=
  (s.treeOf h).flatMap (fun t => [t.1, t.2.2, t.2.1] ++ (List.range 512).map (fun i => natOf (s.load (t.1 + 8 * i) 8)))

/-- The segments that the leaves of a tree map, as frame and the four words of the hash. -/
def State.treeSegments (s : State) (h : Nat) : List (List Nat) :=
  let segs := (List.range 4).flatMap s.segmentsOn
  let frames := (s.treeOf h).flatMap (fun t => (List.range 512).filterMap (fun i =>
    let e := natOf (s.load (t.1 + 8 * i) 8)
    if bitOf e 0 && bitOf e 6 && (decide (t.2.1 = 0) || bitOf e 1) then some (frameOf (pageBase t.2.1 e)) else none))
  (segs.filter (fun g => frames.contains g.frame)).map (fun g =>
    [g.frame, g.hash % 2 ^ 64, g.hash / 2 ^ 64 % 2 ^ 64, g.hash / 2 ^ 128 % 2 ^ 64, g.hash / 2 ^ 192])

/-- The frame under which a die of this module has registered a hash. -/
def State.segmentFrame (s : State) (hash : Nat) : Option Nat :=
  (((List.range 4).flatMap s.segmentsOn).find? (fun g => decide (g.hash = hash))).map (·.frame)

/-- Allocate tables for the tables of a tree that has come: addresses there and here. -/
def State.allocTables (s : State) (h die : Nat) : List (List Nat) → Option (List (Nat × Nat) × State)
  | [] => some ([], s)
  | t :: rest =>
    match s.newTable die with
    | none => none
    | some a =>
      match (s.addTable h a).allocTables h die rest with
      | none => none
      | some (m, s1) => some ((wordAt t 0, a) :: m, s1)

/-- What an address stands for under a map; itself where the map has none. -/
def mapped (m : List (Nat × Nat)) (a : Nat) : Nat := ((m.find? (fun e => decide (e.1 = a))).map (·.2)).getD a

/-- Write the tables of a tree that has come, with the addresses that their non-leaf entries name replaced. -/
def State.fillTables (s : State) (m : List (Nat × Nat)) (ts : List (List Nat)) : State :=
  ts.foldl (fun s t =>
    let es := (List.range 512).map (fun i =>
      let e := wordAt t (3 + i)
      if bitOf e 0 && !bitOf e 1 && decide (wordAt t 2 ≠ 0) then e % 2 ^ 12 + e / 2 ^ 52 * 2 ^ 52 + mapped m (bitsOf e 12 40 * 2 ^ 12) else e)
    (es.zipIdx).foldl (fun s e => s.store (mapped m (wordAt t 0) + 8 * e.2) (bytesOf 8 e.1)) s) s

/-- A leaf with its frame replaced by the frame map; one that may not stand in the partition's tree becomes absent. -/
def State.moveLeaf (s : State) (p lv e : Nat) (frames : List (Nat × Nat)) : Nat :=
  let pa := bitsOf e 12 40 * 2 ^ 12
  let e1 := e % 2 ^ 12 + e / 2 ^ 52 * 2 ^ 52 + mapped frames (frameOf pa) * 2 ^ 21 + pa % 2 ^ 21
  if (frames.any (fun f => decide (f.1 = frameOf pa))) && (bitOf e 6 || s.leafAllowed p lv e1) then e1 else 0

/-- Lid rewrites the leaf addresses of a protected tree through the frame map (R450). -/
def State.moveLeaves (s : State) (h p : Nat) (frames : List (Nat × Nat)) : State :=
  (s.treeOf h).foldl (fun s t =>
    (List.range 512).foldl (fun s i =>
      let e := natOf (s.load (t.1 + 8 * i) 8)
      if bitOf e 0 && (decide (t.2.1 = 0) || bitOf e 1) then s.store (t.1 + 8 * i) (bytesOf 8 (s.moveLeaf p t.2.1 e frames)) else s) s) s

/-! ### The source -/

/-- A migration ends without having moved anything: from its cut on, the handle is restored to IDLE and forwarding is cleared. -/
def State.giveUpMigration (s : State) (status value : Nat) : State :=
  match s.migration with
  | none => s
  | some g =>
    let s0 := if g.step = 0 then s else s.sendMessage g.peer 0x04FF g.handle []
    let s1 := ({ s0 with migration := none }).control status value
    if g.step = 2 then
      (({ s1 with forwards := Map.drop s1.forwards g.handle }).withMc g.handle (fun m => { m with state := .idle })).serve g.handle
    else s1.serve g.handle

/-- A job that has never been bound goes back to the head of the ring, for the Ladle binds jobs of the handle no more (R450); one that the
runtime has added graphs to counts as running. -/
def State.holdBack (s : State) (h : Nat) : State :=
  match (s.mc h).job with
  | none => s
  | some jn =>
    match Map.find s.jobs jn with
    | none => s
    | some j =>
      if j.everBound ∨ j.graphs.length ≠ 1 ∨ j.job.ended ≠ 0 then s
      else
        let p : PendingJob :=
          { id := jn, source := j.source, lrec := j.lrec, param := j.param, deadline := j.deadline, route := j.route, port := j.port, seq := j.seq
            at_ := s.cyc, parked := false }
        let s1 := { s with jobs := Map.drop s.jobs jn, launches := s.launches.filter (fun e => decide (e.2.job ≠ jn)) }
        (s1.withMc h (fun m => { m with job := none, waiting := p :: m.waiting })).settleMc h false

/-- Step 1 is over once no job of the handle is in progress: the peer is asked, with the key slot's contents, whether its slot and the
stream records are free. -/
def State.askPeer (s : State) (g : Migration) : State :=
  let m := s.mc g.handle
  if m.job.isSome then s
  else if (s.mc g.handle).ring.any (fun k => s.readHeld g.handle (m.rqring + BitVec.ofNat 64 (8192 * k))) then s
  else if (s.peer g.peer).state ≠ .up ∨ (m.state ≠ .idle ∧ m.state ≠ .ready) then s.giveUpMigration 2 3
  else
    let owned := s.ownedStreams g.handle
    let body := wordsBytes [g.handle, g.phandle, m.keySlot, owned.length] ++ padTo 32 ((s.keyBytes m.keySlot).getD []) ++ wordsBytes owned
    ({ s with migration := some { g with step := 1 } }).sendMessage g.peer 0x0401 g.handle body

/-- The ring slots in use of a micro-context with their 8 KiB, descriptor and payload (R338); none of a slot that cannot be reached. -/
def State.ringContents (s : State) (h : Nat) : List (Nat × List Byte) :=
  (s.mc h).ring.filterMap (fun k => (s.mcLoad h ((s.mc h).rqring + BitVec.ofNat 64 (8192 * k)) 8192).map (fun bs => (k, bs)))

/-- The ring slots that a migration has brought are written where the micro-context's ring lies. -/
def State.fillRing (s : State) (h : Nat) (ring : List (Nat × List Byte)) : State :=
  ring.foldl (fun s e => s.mcStore h ((s.mc h).rqring + BitVec.ofNat 64 (8192 * e.1)) e.2) s

/-- Steps 2 and 3: the cut is made, and the parts are sent. -/
def State.cutOver (s0 : State) (g : Migration) : State :=
  let h := g.handle
  let s := (s0.mc h).ring.foldl (fun s k => s.mcCount h .load ((s.mc h).rqring + BitVec.ofNat 64 (8192 * k)) 8192) s0
  let m := s.mc h
  let ring := s.ringContents h
  let tree := if s.isProtected m.part then s.treeWords h else []
  let segs := if s.isProtected m.part then s.treeSegments h else []
  let block := s.blockWords m
  let body := wordsBytes ([block.length, tree.length / 515, segs.length, ring.length] ++ replayWords (Map.find s.replay h) ++ block ++ tree ++
    segs.flatten ++ ring.flatMap (fun e => e.1 :: bytesWords e.2))
  let s1 := ({ s with migration := some { g with step := 2 }, forwards := Map.set s.forwards h g.peer }).withMc h (fun m => { m with state := .invalid })
  let s2 := s1.sendMessage g.peer 0x0402 h body
  let s3 := g.frames.foldl (fun s f => (s.countEach ((List.range (2 ^ 15)).map (f.1 * 2 ^ 21 + 64 * ·))).sendMessage g.peer 0x0403 h (wordsBytes [f.1, f.2] ++ s.loadEach ((List.range (2 ^ 21)).map (f.1 * 2 ^ 21 + ·)))) s2
  let s4 := (s.ownedStreams h).foldl (fun s n =>
    s.sendMessage g.peer 0x0404 h (wordsBytes ([n] ++ replayWords (Map.find s.replayStream n) ++ (s.srec n).words))) s3
  s4.sendMessage g.peer 0x0405 h [0]

/-- Step 4 at the source: the stream records are unowned, the key slot is cleared, and the command is answered. -/
def State.finishMigration (s : State) (g : Migration) : State :=
  let m := s.mc g.handle
  let s1 := (s.ownedStreams g.handle).foldl (fun s n => s.withSrec n (fun r => { StreamRec.blank with oseq := r.oseq })) s
  let s2 := s1.withMc g.handle (fun m =>
    { m with written := false, ring := [], waiting := [], pend := false, mapped := false, head := 0, tail := 0, notes := [], skipped := 0 })
  ({ s2 with keys := Map.drop s2.keys m.keySlot, migration := none }).control 0 0

/-! ### The destination -/

/-- The partial copy that a peer's migration has brought. -/
def State.incomingFrom (s : State) (peer : Nat) : Option Incoming := s.incoming.find? (fun i => decide (i.peer = peer))

/-- Change the partial copy of a migration. -/
def State.setIncoming (s : State) (i : Incoming) : State :=
  { s with incoming := s.incoming.map (fun x => if x.peer = i.peer then i else x) }

/-- The migration from a peer is over. -/
def State.dropIncoming (s : State) (peer : Nat) : State := { s with incoming := s.incoming.filter (fun i => decide (i.peer ≠ peer)) }

/-- The partial copy of a peer's migration is discarded. -/
def State.discardIncoming (s : State) (peer : Nat) : State :=
  match s.incomingFrom peer with
  | none => s
  | some i =>
    let s1 := i.frames.foldl (fun s f =>
      if Map.get 0 s.frameKeys f.2 = i.keySlot then (s.wipe (f.2 * 2 ^ 21) (2 ^ 21)).keyFrames [f.2] 0 else s) s
    let s2 := i.streams.foldl (fun s n => s.withSrec n (fun r => { StreamRec.blank with oseq := r.oseq })) s1
    { s2 with keys := Map.drop s2.keys i.keySlot, tables := Map.put [] s2.tables i.handle [] }.dropIncoming peer

/-- The partition whose range holds a key slot. -/
def State.slotOwner (s : State) (k : Nat) : Option Nat := (s.partitions.find? (fun e => e.2.hasSlot k)).map (·.1)

/-- A peer asks to migrate: its handle must be INVALID here and no other migration's, the key slot free in a partition's range, and the
records unowned. An earlier copy from the peer that is still here is discarded: a module sends one migration at a time. -/
def State.takeMkey (s0 : State) (peer : Nat) (body : List Byte) : Option State :=
  let s := s0.discardIncoming peer
  let h := natAt body 8 8
  let k := natAt body 16 8
  let n := natAt body 24 8
  let recs := (bytesWords (body.drop 64)).take (min n 4096)
  if 4096 ≤ h ∨ s.incoming.any (fun i => decide (i.handle = h)) ∨ (s.mc h).state ≠ .invalid ∨ (s.slotOwner k).isNone ∨ (Map.find s.keys k).isSome ∨ s.blockNames k ∨
     s.frameNames k ∨ recs.any (fun r => decide ((s.srec r).owner ≠ 0xFFFF)) then none
  else
    some { s with
      keys := Map.set s.keys k (natAt body 32 32)
      incoming := s.incoming ++ [{ peer := peer, source := natAt body 0 8, handle := h, keySlot := k, frames := [], streams := [], block := none
                                   window := none, ringBytes := [] }] }

/-- The control block comes: a protected partition's tree is allocated in its own memory. -/
def State.takeMcb (s : State) (i : Incoming) (body : List Byte) : Option State :=
  let ws := bytesWords body
  let nb := wordAt ws 0
  let nt := wordAt ws 1
  let p := (s.slotOwner i.keySlot).getD 0
  let part := s.partition p
  let rest := ws.drop (7 + nb)
  let (m, s1) := s.wordsBlock p ((ws.drop 7).take nb)
  let home := if !part.prot || bitOf part.dies m.home then m.home else ((List.range 4).find? (bitOf part.dies)).getD 0
  let ts := groupsOf 515 rest nt
  let segs := (groupsOf 5 (rest.drop (515 * nt)) (wordAt ws 2)).filterMap (fun g =>
    (s.segmentFrame (wordAt g 1 + wordAt g 2 * 2 ^ 64 + wordAt g 3 * 2 ^ 128 + wordAt g 4 * 2 ^ 192)).map (fun f => (wordAt g 0, f)))
  let ring := (groupsOf 1025 (rest.drop (515 * nt + 5 * wordAt ws 2)) (wordAt ws 3)).map (fun g => (wordAt g 0, wordsBytes (g.drop 1)))
  let take (s : State) (root : Nat) : State :=
    s.setIncoming { i with block := some { m with home := home, root := root, keySlot := i.keySlot }, window := wordsReplay (ws.drop 4)
                           frames := i.frames ++ segs, ringBytes := ring }
  if part.prot then
    match s1.allocTables i.handle home ts with
    | none => none
    | some (am, s2) => some (take (s2.fillTables am ts) (mapped am m.root))
  else some (take s1 m.root)

/-- A frame comes: it is keyed with the slot, where the partition may hold it. -/
def State.takeMframe (s : State) (i : Incoming) (body : List Byte) : Option State :=
  let f := natAt body 8 8
  let p := (s.slotOwner i.keySlot).getD 0
  let lies := match s.protector (homeDie (f * 2 ^ 21)) with
    | some q => decide (q = p)
    | none => !s.isProtected p
  if body.length ≠ 2 ^ 21 + 16 ∨ 2 ^ 19 ≤ f ∨ s.reserved (f * 2 ^ 21 + 2 ^ 21 - 1) ∨ !lies ∨ s.foreignFrame (p + 1) f ∨ s.sweeping f 1 then none
  else
    let s1 := (s.wipe (f * 2 ^ 21) (2 ^ 21)).keyFrames [f] i.keySlot
    some ({ s1 with mem := Memory.write s1.mem (f * 2 ^ 21) (body.drop 16) }.setIncoming { i with frames := i.frames ++ [(natAt body 0 8, f)] })

/-- A stream record comes, into the record of the same index. -/
def State.takeMstream (s : State) (i : Incoming) (body : List Byte) : Option State :=
  let ws := bytesWords body
  let n := wordAt ws 0
  if 4096 ≤ n ∨ (s.srec n).owner ≠ 0xFFFF then none
  else
    let s1 := s.withSrec n (fun _ => wordsStream i.handle (ws.drop 4))
    some ({ s1 with
      replayStream := (match wordsReplay (ws.drop 1) with
        | some r => Map.set s1.replayStream n r
        | none => Map.drop s1.replayStream n) }.setIncoming { i with streams := i.streams ++ [n] })

/-- The copy is whole: the ring's contents are put where the ring lies, and the handle becomes IDLE, or READY where the ring holds
requests. -/
def State.takeMdone (s : State) (i : Incoming) : Option State :=
  match i.block with
  | none => none
  | some m =>
    let h := i.handle
    let s1 := s.withMc h (fun _ => { m with state := .idle, level := min m.base (s.partition m.part).ceil })
    let s2 := if (s.partition m.part).prot then s1.moveLeaves h m.part i.frames else s1
    let s3 := s2.fillRing h i.ringBytes
    some ((({ s3 with
      replay := (match i.window with
        | some r => Map.set s3.replay h r
        | none => Map.drop s3.replay h)
      migrated := Map.set s3.migrated (4096 * i.peer + i.source) h }).dropIncoming i.peer).serve h)

/-- A part that the destination takes, or else the migration is aborted on both sides. -/
def State.takePart (s : State) (peer mtag : Nat) (part : Incoming → Option State) (reply : Bool) : State :=
  match s.incomingFrom peer with
  | none => s
  | some i =>
    match part i with
    | some s1 => if reply then s1.sendMessage peer 0x0405 mtag [] else s1
    | none => (s.discardIncoming peer).sendMessage peer 0x04FF mtag []

/-- The migration that a reply from a peer concerns, at a step. -/
def State.migrationAt (s : State) (peer mtag step : Nat) : Option Migration :=
  match s.migration with
  | some g => if g.peer = peer ∧ g.handle = mtag ∧ g.step = step then some g else none
  | none => none

end Sys2Proof.Machine
end

