-- ==== Sys2Proof/Machine/Peers.lean ====
section
/-! DEFINITION. The peer transport as it receives and keeps time (R416 to R418), and the messages of Table 21.15. -/

namespace Sys2Proof.Machine

/-! ### States of a peer entry (R418) -/

/-- The handshake starts under the next EPOCH; past 0xFFFF the entry stays DOWN. -/
def State.startHandshake (s : State) (p : Nat) : State :=
  if 0xFFFF ≤ (s.peer p).epoch then s.withPeer p (fun e => { e with state := .down })
  else
    (s.withPeer p (fun e =>
      { e with state := .hello, epoch := e.epoch + 1, heardHello := false, acked := false, next0 := 1, ctl := [], chans := [], ackDue := none })).sendControl p 1

/-- An entry that has heard the peer's HELLO and whose own has been acknowledged is UP; the reliable channels start at packet 1, as the
handshake left them. A peer that was UP before may have sent on them already. -/
def State.settlePeer (s : State) (p : Nat) : State :=
  let e := s.peer p
  if e.state = .hello && e.heardHello && e.acked then s.withPeer p (fun e => { e with state := .up, heardAt := s.cyc })
  else s

/-- Ordinals of a group that commands on this module have taken. -/
def State.openOrdinals (s : State) (n : Nat) : List Nat :=
  (s.commands.filterMap (fun c => if c.engine = .collective ∧ collGroup c.bytes = n then c.ordinal else none)).eraseDups

/-- What depends on a peer that is no longer UP ends (R418): collectives, segment reads, migrations; unacknowledged messages are
discarded. -/
def State.peerGone (s : State) (p : Nat) : State :=
  let s1 := s.withPeer p (fun e => { e with chans := [], ctl := [], ackDue := none })
  let gs := s1.groups.filter (fun e => e.2.peers.any (fun x => decide (x.peer = p)))
  let s2 := gs.foldl (fun s e => (s.openOrdinals e.1).foldl (fun s o => s.combine e.1 o) s) s1
  let s3 := (List.range 4).foldl (fun s d =>
    ((s.segmentsOn d).filter (fun e => decide (e.reading = some 2) && decide (e.peer = p))).foldl (fun s e => s.sourceFails d e 2) s) s2
  let s4 := if optAny s3.migration (fun g => decide (g.peer = p)) then s3.giveUpMigration 2 3 else s3
  s4.discardIncoming p

/-- An entry that is disabled or given a new key goes DOWN. -/
def State.peerDown (s : State) (p : Nat) : State := (s.withPeer p (fun e => { e with state := .down })).peerGone p

/-- The die of the ports that carry a peer's traffic. -/
def State.peerDie (s : State) (p : Nat) : Nat := dieOfPort (((List.range 8).find? (bitOf (s.peer p).ports)).getD 0)

/-- Whether an UP peer is lost: a packet unacknowledged through 20 retransmissions, or nothing verified from it for 100 ms. -/
def State.peerSilent (s : State) (p : Nat) : Bool :=
  let e := s.peer p
  decide (e.heardAt + 100000 * usCycles ≤ s.cyc) ||
  e.chans.any (fun c => c.2.unacked.any (fun k => decide (20 ≤ k.retries) && decide (k.sentAt + k.interval ≤ s.cyc)))

/-- PEER_LOSS. -/
def execPeerLoss (peer : Nat) (s : State) : Host.Outcome State Fault Refusal :=
  .next (if (s.peer peer).state = .up && s.peerSilent peer then
      let s1 := (s.withPeer peer (fun e => { e with state := .lost, lostAt := s.cyc })).peerGone peer
      s1.error (ErrorInfo.base 2 3 (s.peerDie peer))
    else s)

/-- PEER_RETRY_TIMER: a LOST entry starts the handshake again 1 ms later. -/
def execPeerRetryTimer (peer : Nat) (s : State) : Host.Outcome State Fault Refusal :=
  let e := s.peer peer
  .next (if e.state = .lost && e.enabled && decide (e.lostAt + 1000 * usCycles ≤ s.cyc) then s.startHandshake peer else s)

/-- HELLO_TIMER: a HELLO every 100 µs in the state HELLO. -/
def execHelloTimer (peer : Nat) (s : State) : Host.Outcome State Fault Refusal :=
  .next (if (s.peer peer).state = .hello then s.sendControl peer 1 else s)

/-- ACK_TIMER: an ACK within 5 µs of a packet that changes CUM or MAP, and at least every 100 µs. -/
def execAckTimer (peer : Nat) (s : State) : Host.Outcome State Fault Refusal :=
  .next (if (s.peer peer).state = .up then s.sendControl peer 2 else s)

/-- Send again the packets of a channel whose time has come, identical in every byte, with the interval doubled up to 1 ms (R417). -/
def State.retransmit (s : State) (p chan : Nat) : State :=
  let due (k : SentPacket) : Bool := decide (k.sentAt + k.interval ≤ s.cyc) && decide (k.retries < 20)
  let ks := ((s.peer p).chan chan).unacked.filter due
  let again (k : SentPacket) : SentPacket :=
    if due k then { k with sentAt := s.cyc, retries := k.retries + 1, interval := min (2 * k.interval) (1000 * usCycles) } else k
  (ks.foldl (fun s k => s.emitPacket p k.bytes) s).withPeer p (fun e => e.withChan chan (fun c => { c with unacked := c.unacked.map again }))

/-- RETRANSMIT_TIMEOUT. -/
def execRetransmitTimeout (peer : Nat) (chan : Nat) (s : State) : Host.Outcome State Fault Refusal :=
  .next (if (s.peer peer).state = .up ∧ 1 ≤ chan ∧ chan ≤ 5 then s.retransmit peer chan else s)

/-! ### Packets (R416, R417) -/

/-- Message types that a channel carries (Table 21.15). -/
def messageKnown (mtype : Nat) : Bool :=
  [0x0101, 0x0201, 0x0202, 0x0203, 0x0301, 0x0401, 0x0402, 0x0403, 0x0404, 0x0405, 0x04FF, 0x0501].contains mtype

/-- A fragment in its turn: it continues the message being put together, which is delivered when it is whole. -/
def Channel.takeFragment (c : Channel) (chan : Nat) (f : List Byte) : Channel :=
  let len := natAt f 0 4
  let off := natAt f 4 4
  let data := (f.drop 8).take 8192
  if f.length < 8 ∨ (off ≠ 0 ∧ off ≠ c.partly.length) then { c with partly := [] }
  else
    let msg := (if off = 0 then [] else c.partly) ++ data
    if msg.length < len then { c with partly := msg }
    else
      let whole := msg.take len
      let known := decide (16 ≤ len) && decide (natAt whole 0 2 / 256 = chan) && messageKnown (natAt whole 0 2)
      { c with partly := [], inbox := if known then c.inbox ++ [whole] else c.inbox }

/-- Deliver the held packets that come next in order. -/
def Channel.deliverHeld (c : Channel) (chan : Nat) : Nat → Channel
  | 0 => c
  | n + 1 =>
    match c.held.find? (fun e => decide (e.1 = c.cum + 1)) with
    | none => c
    | some e =>
      (({ c with cum := c.cum + 1, held := c.held.filter (fun x => decide (x.1 ≠ e.1)) }).takeFragment chan e.2).deliverHeld chan n

/-- Whether a packet number may be taken: above CUM, at most CUM + 256, and not received before. -/
def Channel.accepts (c : Channel) (num : Nat) : Bool :=
  decide (c.cum < num) && decide (num ≤ c.cum + 256) && !c.held.any (fun e => decide (e.1 = num))

/-- The enabled entry of a peer index whose address is the source of a packet. -/
def State.peerFrom (s : State) (index src : Nat) : Option Nat :=
  (s.peers.find? (fun e => e.2.enabled && decide (e.2.index = index) && decide (e.2.ipv6 = src))).map (·.1)

/-- The peer packet in a frame that reaches a port: a datagram for the port's service MAC and IPv6 address, from and to the UDP port of the
enabled entry that SRC and the source address name, on a port that may carry its traffic (R415). -/
def State.peerDatagram (s : State) (port : Nat) (frame : List Byte) : Option (Nat × List Byte) :=
  if s.portIsDown port || !(s.die (dieOfPort port)).up || decide (8 ≤ port) then none
  else
    match Map.find s.ports port with
    | none => none
    | some a =>
      (s.peers.filter (fun e => e.2.enabled && bitOf e.2.ports port)).findSome? (fun e =>
        match parseFrame { a with udp := e.2.udp } frame with
        | some d => if d.sport = e.2.udp ∧ s.peerFrom (natAt d.payload 2 2 % 2 ^ 12) d.src = some e.1 then some (e.1, d.payload) else none
        | none => none)

/-- A packet whose tag and EPOCH are right: a control record waits for its turn, and a fragment is delivered in order. The channels of an
entry that is DOWN or LOST are closed, so no packet number is accepted there (log entry 75). -/
def State.takePacket (s : State) (p chan num : Nat) (plain : List Byte) : State :=
  let e := s.peer p
  let s1 := s.withPeer p (fun e => { e with heardAt := s.cyc })
  if chan = 0 then
    (if plain.length = 96 ∧ (byteAt plain 0 = 1 ∨ byteAt plain 0 = 2) ∧ (e.state = .hello ∨ e.state = .up) then
      s1.withPeer p (fun e => { e with ctl := e.ctl ++ [plain] })
     else s1)
  else if (e.state ≠ .up ∧ e.state ≠ .hello) ∨ !(e.chan chan).accepts num then s1.refuse 1
  else
    s1.withPeer p (fun e =>
      { (e.withChan chan (fun c => ({ c with held := c.held ++ [(num, plain)] }).deliverHeld chan (c.held.length + 1))) with
        ackDue := some (e.ackDue.getD s.cyc) })

/-- PEER_PACKET_RECEIVE: the checks of R417 in their order. -/
def execPeerPacketReceive (port : Nat) (headers : List Byte) (body : List Byte) (s : State) : Host.Outcome State Fault Refusal :=
  .next (match s.peerDatagram port (headers ++ body) with
    | none => s
    | some (p, payload) =>
      let head := payload.take 16
      let from_ := natAt head 2 2
      let chan := from_ / 2 ^ 12
      let seq := natAt head 4 8
      let e := s.peer p
      if payload.length < 32 ∨ byteAt head 0 ≠ 1 ∨ byteAt head 1 ≠ 0xF0 ∨ !zeroAt head 12 4 ∨ 6 ≤ chan then s
      else
        match gcmOpen (s.sealingKey e.keySlot) (packetNonce chan (from_ % 2 ^ 12) seq) head (payload.drop 16) with
        | none => s.refuse 1
        | some plain => if seq / 2 ^ 48 ≠ e.epoch then s.refuse 1 else s.takePacket p chan (seq % 2 ^ 48) plain)

/-! ### Control records -/

/-- The oldest control record of a kind, where it is the next, and the state without it. -/
def State.takeControl (s : State) (p kind : Nat) : Option (List Byte × State) :=
  match (s.peer p).ctl with
  | r :: rest => if byteAt r 0 = kind then some (r, s.withPeer p (fun e => { e with ctl := rest })) else none
  | [] => none

/-- HELLO: the peer has been heard, and is acknowledged. -/
def execHello (peer : Nat) (s : State) : Host.Outcome State Fault Refusal :=
  .next (match s.takeControl peer 1 with
    | some (_, s1) => ((s1.withPeer peer (fun e => { e with heardHello := true })).sendControl peer 2).settlePeer peer
    | none => s)

/-- An acknowledgement of a channel: packets up to CUM and those of MAP are done with. -/
def Channel.acknowledge (c : Channel) (cum map : Nat) : Channel :=
  { c with unacked := c.unacked.filter (fun k => decide (cum < k.num) && !(decide (cum + 2 ≤ k.num) && bitOf map (k.num - cum - 2))) }

/-- ACK: the module's HELLO has been heard; acknowledged packets make room for those that wait. -/
def execAck (peer : Nat) (s : State) : Host.Outcome State Fault Refusal :=
  .next (match s.takeControl peer 2 with
    | some (r, s1) =>
      if (s1.peer peer).state = .hello then (s1.withPeer peer (fun e => { e with acked := true })).settlePeer peer
      else
        [1, 2, 3, 4, 5].foldl (fun s c =>
          (s.withPeer peer (fun e => e.withChan c (fun x => x.acknowledge (natAt r (16 * c) 8) (natAt r (16 * c + 8) 8)))).pump peer c
            ((s.peer peer).chan c).waiting.length) s1
    | none => s)

/-! ### Messages (Table 21.15) -/

/-- The oldest message of a channel, where it has a type: MTAG, its body, and the state without it. -/
def State.takeMessage (s : State) (p mtype : Nat) : Option (Nat × List Byte × State) :=
  let chan := mtype / 256
  match ((s.peer p).chan chan).inbox with
  | m :: rest =>
    if natAt m 0 2 = mtype then
      some (natAt m 8 8, m.drop 16, s.withPeer p (fun e => e.withChan chan (fun c => { c with inbox := rest })))
    else none
  | [] => none

/-- Do something with the oldest message, where it has a type. -/
def State.onMessage (s : State) (p mtype : Nat) (f : State → Nat → List Byte → State) : Host.Outcome State Fault Refusal :=
  .next (match s.takeMessage p mtype with
    | some (mtag, body, s1) => f s1 mtag body
    | none => s)

/-- CONTRIB: a member package's partial. -/
def execContrib (peer : Nat) (s : State) : Host.Outcome State Fault Refusal :=
  s.onMessage peer 0x0101 (fun s _ b =>
    let rank := natAt b 20 4
    let x : Contribution := { ordinal := natAt b 8 8, rank := rank, op := byteAt b 1, type := byteAt b 2, count := natAt b 16 4, data := b.drop 24 }
    { s with groups := Map.alter s.groups (byteAt b 0) (fun g =>
        if g.peers.any (fun p => decide (p.peer = peer) && decide (p.rank = rank)) then { g with contribs := g.contribs ++ [x] } else g) })

/-- The resident frame of a segment on this module. -/
def State.residentSegment (s : State) (hash : Nat) : Option Nat :=
  (((List.range 4).flatMap s.segmentsOn).find? (fun e => decide (e.hash = hash) && decide (Map.find s.residency e.frame = some .resident))).map (·.frame)

/-- SEGREQ: a peer asks for a segment. -/
def execSegreq (peer : Nat) (s : State) : Host.Outcome State Fault Refusal :=
  s.onMessage peer 0x0201 (fun s mtag b =>
    match s.residentSegment (natAt b 0 32) with
    | some f => s.sendMessage peer 0x0202 mtag (b.take 32 ++ s.frameBytes f)
    | none => s.sendMessage peer 0x0203 mtag (b.take 32))

/-- The die and the entry of a segment that a peer is being asked for. -/
def State.asking (s : State) (peer hash : Nat) : Option (Nat × Segment) :=
  ((List.range 4).flatMap (fun d => (s.segmentsOn d).map (fun e => (d, e)))).find? (fun x =>
    decide (x.2.hash = hash) && decide (x.2.reading = some 2) && decide (x.2.peer = peer))

/-- SEGDATA: a segment comes from a peer, and is checked. -/
def execSegdata (peer : Nat) (s : State) : Host.Outcome State Fault Refusal :=
  s.onMessage peer 0x0202 (fun s _ b =>
    match s.asking peer (natAt b 0 32) with
    | some (d, e) => s.deliverSegment d e 2 (b.drop 32)
    | none => s)

/-- SEGNONE: the peer does not hold the segment. -/
def execSegnone (peer : Nat) (s : State) : Host.Outcome State Fault Refusal :=
  s.onMessage peer 0x0203 (fun s _ b =>
    match s.asking peer (natAt b 0 32) with
    | some (d, e) => s.sourceFails d e 2
    | none => s)

/-- QENTRY: entries of a peer-fed queue are written into its ring, and TAIL is applied as a notify (R354). -/
def execQentry (peer : Nat) (s : State) : Host.Outcome State Fault Refusal :=
  s.onMessage peer 0x0301 (fun s _ b =>
    let h := natAt b 0 2
    let m := s.mc h
    if 4096 ≤ h ∨ s.closed h ∨ m.qsrc ≠ 2 then s
    else
      let n := min (natAt b 8 8 - m.tail) ((b.length - 16) / 64)
      let s1 := (List.range n).foldl (fun s j =>
        s.mcStore h (m.qbase + BitVec.ofNat 64 (64 * ((m.tail + j) % 2 ^ m.qlog))) ((b.drop (16 + 64 * j)).take 64)) s
      s1.notify h (natAt b 8 8))

/-- MKEY: a peer asks to migrate here; with an empty body, the peer agrees to take what is migrated there, and the cut is made. -/
def execMkey (peer : Nat) (s : State) : Host.Outcome State Fault Refusal :=
  s.onMessage peer 0x0401 (fun s mtag b =>
    if b.isEmpty then
      (match s.migrationAt peer mtag 1 with
       | some g => s.cutOver g
       | none => s)
    else
      match s.takeMkey peer b with
      | some s1 => s1.sendMessage peer 0x0401 mtag []
      | none => s.sendMessage peer 0x04FF mtag [])

/-- MCB: the control block of a migration. -/
def execMcb (peer : Nat) (s : State) : Host.Outcome State Fault Refusal :=
  s.onMessage peer 0x0402 (fun s mtag b => s.takePart peer mtag (fun i => s.takeMcb i b) false)

/-- MFRAME: a frame of a migration. -/
def execMframe (peer : Nat) (s : State) : Host.Outcome State Fault Refusal :=
  s.onMessage peer 0x0403 (fun s mtag b => s.takePart peer mtag (fun i => s.takeMframe i b) false)

/-- MSTREAM: a stream record of a migration. -/
def execMstream (peer : Nat) (s : State) : Host.Outcome State Fault Refusal :=
  s.onMessage peer 0x0404 (fun s mtag b => s.takePart peer mtag (fun i => s.takeMstream i b) false)

/-- MDONE: a migration to this module is whole; with an empty body, one from it is. -/
def execMdone (peer : Nat) (s : State) : Host.Outcome State Fault Refusal :=
  s.onMessage peer 0x0405 (fun s mtag b =>
    if b.isEmpty then
      (match s.migrationAt peer mtag 2 with
       | some g => s.finishMigration g
       | none => s)
    else s.takePart peer mtag (fun i => s.takeMdone i) true)

/-- MABORT: before the cut the peer has no room, and after it the handle is restored; at the destination the partial copy is discarded. -/
def execMabort (peer : Nat) (s : State) : Host.Outcome State Fault Refusal :=
  s.onMessage peer 0x04FF (fun s mtag _ =>
    match s.migrationAt peer mtag 1, s.migrationAt peer mtag 2 with
    | some _, _ => s.giveUpMigration 5 0
    | _, some _ => s.giveUpMigration 2 3
    | none, none => s.discardIncoming peer)

/-- FWD: a service frame that a module forwards is checked here with the migrated replay window (R451). -/
def execFwd (peer : Nat) (s : State) : Host.Outcome State Fault Refusal :=
  s.onMessage peer 0x0501 (fun s _ b =>
    let d : Datagram := { src := natAt b 0 16, sport := natAt b 16 2, payload := b.drop 24 }
    let port := (s.peerPort peer).getD 0
    match Map.find s.migrated (4096 * peer + frameHandle d.payload) with
    | none => s
    | some h =>
      match (if (s.mc h).state = .invalid then Map.find s.forwards h else none) with
      | some p => s.forward p d
      | none => if frameType d.payload = 1 then s.takeRequest h port d.payload else if frameType d.payload = 3 then s.takeStreamFrame h d.payload else s)

end Sys2Proof.Machine
end

