-- ==== Sys2Proof/Machine/Starts.lean ====
section
/-! DEFINITION. Cold and warm starts (R424 to R426), the loss of power (R10), and the fences that both make and keep (R441, R442). -/

namespace Sys2Proof.Machine

/-! ### What ends with a start -/

/-- End every unit of a job, wherever it is, so that the job ends. -/
def State.dropJob (s : State) (jn : Nat) : State :=
  let s1 := ((s.addReason jn .reset).cancelJob jn 0 4).forceJob jn
  (s1.launchesOf jn).foldl (fun s n =>
    match Map.find s.launches n with
    | none => s
    | some l => (List.range l.units.length).foldl (fun s i => s.endUnit { launch := n, index := i } 4 0) s) s1

/-- Report a waiting job of a micro-context as RESET, or as MEMLOST where a lost frame has ended it (R437, R438). -/
def State.reportReset (s : State) (h : Nat) (p : PendingJob) (memlost : Bool) : State :=
  s.complete h p.source (if memlost then 5 else 4) 0 p.seq

/-- Queue: unmapped, PEND cleared, and the entries from the head to the notified tail reported: RESET, or MEMLOST where a frame's loss
resets them (R437, R438). -/
def State.resetQueueOf (s : State) (h : Nat) (lost : Bool) : State :=
  let m := s.mc h
  let queued := m.waiting.filter (fun p => p.source.isQueue)
  let s1 := queued.foldl (fun s p => s.reportReset h p lost) s
  let s2 := (List.range (min (m.tail - m.head) (2 ^ m.qlog))).foldl (fun s i => s.complete h (.queue (m.head + i)) (if lost then 5 else 4) 0 (m.head + i)) s1
  s2.withMc h (fun m =>
    { m with waiting := m.waiting.filter (fun p => !queued.contains p), mapped := false, pend := false, head := m.tail, notes := [] })

/-- Everything that the Ladles have accepted gets its record (R438): jobs in progress, jobs that wait, and queue entries that a notify has
announced. -/
def State.dropWork (s : State) : State :=
  let s1 := s.mcs.foldl (fun s e =>
    let s1 := s.resetQueueOf e.1 false
    ((s1.mc e.1).waiting.foldl (fun s p => s.reportReset e.1 p false) s1).withMc e.1 (fun m =>
      { m with waiting := [], state := if m.state = .invalid then .invalid else .drain })) s
  s1.jobs.foldl (fun s e => s.dropJob e.1) s1

/-! ### Fences (R441, R442, R444) -/

/-- A fence record, and then a REPLACE record. -/
def State.fenceRecords (s : State) (die cluster : Nat) : State :=
  (s.error { ErrorInfo.base 2 8 die with cluster := cluster }).error { ErrorInfo.base 2 9 die with cluster := cluster }

/-- Translations of frames of device memory of a die. -/
def BufferEntry.onDie (e : BufferEntry) (die : Nat) : Bool := !bitOf e.leaf 7 && decide (homeDie (bitsOf e.leaf 12 40 * 2 ^ 12) = die) &&
  decide (bitsOf e.leaf 12 40 * 2 ^ 12 < 2 ^ 40)

/-- Every frame of a die loses its contents: its translations are dropped, its segments are absent, and its bytes are gone (R442). -/
def State.loseFrames (s : State) (die : Nat) : State :=
  let s1 := s.purge (fun e => e.onDie die)
  let s2 := s1.wipe (die * 2 ^ 38) (2 ^ 38)
  let here (f : Nat) : Bool := decide (homeDie (f * 2 ^ 21) = die)
  { s2 with
    residency := s2.residency.filter (fun e => !here e.1)
    segments := Map.put [] s2.segments die (((s2.segmentsOn die).filter (fun e => !s2.reserved (e.frame * 2 ^ 21 + 2 ^ 21 - 1))).map (fun e =>
      { e with reading := none, asked := false, failed := [] }))
    frameKeys := (s2.sweeps.filter (fun w => decide (w.die = die) && w.running)).foldl (fun m w =>
      (frameRange w.first w.count).foldl (fun m f => Map.put 0 m f w.newSlot) m) s2.frameKeys
    sweeps := s2.sweeps.filter (fun w => decide (w.die ≠ die)) }

/-- The stack of a die, and the address within it, that hold an offset of the die's range (R442). -/
def Die.stackOf (d : Die) (o : Nat) : Option (Nat × Nat) :=
  let left := (List.range 4).filter (fun i => !bitOf d.fencedStacks i)
  let b := o / 256
  if left.isEmpty then none else (left[b % left.length]?).map (fun k => (k, b / left.length * 256 + o % 256))

/-- Fence a stack: the die's memory moves to the stacks that remain, and its contents are lost. -/
def State.fenceStackBit (s : State) (die stack : Nat) : State :=
  (s.withDie die (fun d => { d with fencedStacks := setBit d.fencedStacks stack true })).loseFrames die

/-! ### Images -/

/-- An image of a bank as the flash held it at manufacture (R444). -/
def flashBank (die kind bank : Nat) : FwImage :=
  let i := Config.flashImage die kind bank
  { hash := natOf (shake256 i 32), version := Config.imageVersion i, iface := Config.imageInterface i, good := Config.imageVerifies i }

/-- The firmware of a kind on a die: as the flash holds it. -/
def State.firmwareOf (s : State) (die kind : Nat) : Firmware :=
  (Map.find s.firmware (3 * die + kind)).getD
    { a := flashBank die kind 0, b := flashBank die kind 1, selB := false, running := FwImage.blank }

/-- The selected bank. -/
def Firmware.selected (f : Firmware) : FwImage := if f.selB then f.b else f.a

/-- Whether the images that a start is to run on a die verify: Lid checks the selected banks' signatures at every start (R419, R424). -/
def State.imagesGood (s : State) (die : Nat) : Bool := [0, 1, 2].all (fun k => (s.firmwareOf die k).selected.good)

/-- A start runs the selected bank of every image of the dies that run. -/
def State.loadImages (s : State) : Map Firmware :=
  (List.range 12).foldl (fun m k =>
    let f := s.firmwareOf (k / 3) (k % 3)
    Map.set m k { f with running := if (s.die (k / 3)).bad then FwImage.blank else f.selected }) s.firmware

/-! ### Segments that stay (R425) -/

/-- Segments of a die that are resident and whose hash still matches. -/
def State.verified (s : State) (die : Nat) : List Segment :=
  (s.segmentsOn die).filter (fun e => decide (Map.find s.residency e.frame = some .resident) && !s.reserved (e.frame * 2 ^ 21 + 2 ^ 21 - 1) &&
    decide (shake256 (s.frameBytes e.frame) 32 = bytesOf 32 e.hash))

/-- A segment at the start of its life in the table. -/
def Segment.rest (e : Segment) : Segment := { e with urgency := 0, reading := none, since := 0, failed := [], asked := false }

/-- The bytes that lie in some frames, or in host memory. -/
def keepCells (frames : List Nat) (m : List Host.Cell) : List Host.Cell :=
  m.filter (fun c => decide (2 ^ 55 ≤ c.1) || (isDevice c.1 && frames.contains (frameOf c.1)))

/-! ### The start -/

/-- What a start leaves before its steps have failed or not: everything reset but fuses and flash, host memory, what has left the module,
and what the order of events still holds. -/
def State.cleared (s : State) : State :=
  { State.reset with
    agenda := s.agenda, cur := s.cur, mem := keepCells [] s.mem, fresh := s.fresh, hostUp := s.hostUp, firmware := s.firmware, starts := s.starts
    drives := s.drives.map (fun e => (e.1, { e.2 with ready := false })), out := s.out }

/-- The dies of a boundary: 0 D0 and D1, 1 D1 and D3, 2 D3 and D2, 3 D2 and D0. -/
def boundaryDies : Nat → List Nat
  | 0 => [0, 1]
  | 1 => [1, 3]
  | 2 => [3, 2]
  | _ => [2, 0]

/-- The dies as a start finds them: those whose images fail are held in reset with all their parts fenced, and a stack that fails is
fenced. -/
def startDie (f : StartFaults) (good : Bool) (old : Die) (d : Nat) : Die :=
  let bad := old.bad || f.dies.contains d || !good
  let unfit := (f.badStacks.filter (fun k => decide (k / 4 = d))).foldl (fun m k => setBit m (k % 4) true) old.fencedStacks
  { Die.blank with
    up := !bad, bad := bad, fencedClusters := if bad then 0xFFFF else old.fencedClusters, fencedStacks := if bad then 0xF else unfit
    records := old.records }

/-- The links as a start leaves them: each direction has the key of a fresh exchange (R409), and epoch and counters begin again; a link of
a failed boundary or of a die in reset is down. -/
def startLinks (start : Nat) (f : StartFaults) (bad : Nat → Bool) : Map DieLink :=
  (List.range 8).foldl (fun m k =>
    let down := f.links.contains (k / 2) || (boundaryDies (k / 2)).any bad
    Map.put DieLink.blank m k { DieLink.blank with key := if down then [] else Config.linkKey start k, down := down }) []

/-- Error records about a die that a start holds in reset (R426, R444): START where a step has failed on it now, a FENCE and a REPLACE
record for each cluster and stack that is fenced with it, and a REPLACE record for the die. -/
def State.heldRecords (s : State) (old : Die) (d : Nat) : State :=
  let s1 := if old.bad then s else s.error (ErrorInfo.base 2 4 d)
  let s2 := ((List.range 16).filter (fun k => !bitOf old.fencedClusters k)).foldl (fun s k => s.fenceRecords d k) s1
  let s3 := ((List.range 4).filter (fun k => !bitOf old.fencedStacks k)).foldl (fun s _ => s.fenceRecords d 0xFF) s2
  s3.error (ErrorInfo.base 2 9 d)

/-- Error records of a start (R426, R444), from the dies as they were and as they are. -/
def State.startRecords (s : State) (f : StartFaults) (old : Nat → Die) : State :=
  let s1 := ((List.range 4).filter (fun d => (s.die d).bad)).foldl (fun s d => s.heldRecords (old d) d) s
  let s2 := (f.links.filter (fun b => decide (b < 4))).foldl (fun s b =>
    (s.error (ErrorInfo.base 2 3 ((boundaryDies b).headD 0))).error (ErrorInfo.base 2 9 ((boundaryDies b).headD 0))) s1
  (f.badStacks.eraseDups.filter (fun k => decide (k < 16) && !(s.die (k / 4)).bad && !bitOf (old (k / 4)).fencedStacks (k % 4))).foldl (fun s k =>
    (s.error (ErrorInfo.base 2 4 (k / 4))).fenceRecords (k / 4) 0xFF) s2

/-- A start begins: PHASE is 1 throughout it, and no die runs. What a die keeps of its past is whether it was held in reset, its fences and
its records. -/
def State.beginStart (s : State) (f : StartFaults) (warm : Bool) (old : Nat → Die) : State :=
  { s with
    dies := (List.range 4).foldl (fun m d => Map.put Die.blank m d
      { Die.blank with bad := (old d).bad, fencedClusters := (old d).fencedClusters, fencedStacks := (old d).fencedStacks, records := (old d).records }) []
    phase := 1, warm := warm, starting := some f }

/-- What fails in a start, from two sources. -/
def mergeFaults (f g : StartFaults) : StartFaults :=
  { dies := f.dies ++ g.dies, links := f.links ++ g.links, badStacks := f.badStacks ++ g.badStacks }

/-- The outcome of steps 1 to 9 of Table 22.4. Without D0 no die runs (R426). A die whose stacks are fenced now loses what its memory held
(R442), and the flash drives that are attached are configured (R433). -/
def State.finishStart (s : State) (f : StartFaults) : State :=
  let die (d : Nat) : Die := startDie f (s.imagesGood d) (s.die d) d
  let withDies (s : State) (g : Die → Die) : State := (List.range 4).foldl (fun s d => s.withDie d (fun _ => g (die d))) s
  if (die 0).bad then { withDies s (fun d => { d with up := false }) with phase := 3, starting := none }
  else
    let s1 := withDies s (fun d => d)
    let s2 := ((List.range 4).filter (fun d => decide ((die d).fencedStacks ≠ (s.die d).fencedStacks))).foldl State.loseFrames s1
    ({ s2 with
      links := startLinks s2.starts f (fun d => (die d).bad), firmware := s2.loadImages, phase := 2, starting := none, starts := s2.starts + 1
      drives := s2.drives.map (fun (e : Nat × Drive) => (e.1, { e.2 with ready := true })), hostUp := true }).startRecords f s.die

/-- The number that stands for the firmware where a launch names its micro-context: no control block has it. -/
def firmwareHandle : Nat := 4096

/-- A unit of the firmware is placed on a free slot of a pantry cell of a die that runs: a team of one in supervisor mode (R313). -/
def State.placeFirmware (s : State) (f : FwUnit) : State :=
  let u := f.place
  if s.phase ≠ 2 ∨ !isPantry u.cell ∨ 544 ≤ u.cell ∨ !(s.die (dieOf u.cell)).up ∨ (s.slot u).bound.isSome then s
  else
    let (n, s1) := s.next
    let r : LaunchRec :=
      { sentry := f.sentry, ventry := f.ventry, mentry := 0, xentry := 0, param := 0, items := 1, gsize := 0, pantry := true }
    let x : UnitSt := { UnitSt.blank with status := .bound u, modes := [true, true, true, true] }
    let l := newLaunch n firmwareHandle n 0 r n s.cyc
    let b : Binding :=
      { unit := { launch := n, index := 0 }, handle := firmwareHandle, home := dieOf u.cell, part := f.part, prot := s.isProtected f.part
        base := u.cell, size := 1, root := f.root, keySlot := 0, windows := [], area := 0, boundAt := s.cyc }
    let s2 : State := { s1 with launches := Map.set s1.launches n { l with units := [x], group := some u.cell, boundAt := s.cyc } }
    (s2.withSlot u (fun old => bindSlot old b r { MicroContext.blank with tsave := f.tsave } 31 x)).settleCell u.cell

/-- The start that runs reaches its end, with some failures beside those that its event has named, and with the firmware's units placed. -/
def State.endStart (s : State) (f : StartFaults) (us : List FwUnit) : State :=
  match s.starting with
  | some g => us.foldl State.placeFirmware (s.finishStart (mergeFaults g f))
  | none => s

/-- COLD_START: power comes up, and the start begins; it ends by `Act.startEnds`. -/
def execColdStart (faults : StartFaults) (s : State) : Host.Outcome State Fault Refusal :=
  .next (if s.phase = 0 then s.cleared.beginStart faults false (fun _ => Die.blank) else s)

/-- A warm start (R424, R425): whatever was accepted gets its record, and those records, the fences, and the frames of segments that
re-verify are all that stays beside what a cold start keeps. `reply` answers the command that asked for it. -/
def State.warmStart (s : State) (f : StartFaults) (reply : Option (List Byte)) : State :=
  let s0 := s.dropWork
  let stays (d : Nat) : List Segment := s0.verified d
  let frames := (List.range 4).flatMap (fun d => (stays d).map (·.frame))
  let s1 := { s0.cleared with
    mem := keepCells frames s0.mem
    upsets := s0.upsets.filter (fun e => isDevice e.1 && frames.contains (frameOf e.1))
    residency := s0.residency.filter (fun e => frames.contains e.1)
    frameKeys := s0.frameKeys.filter (fun e => frames.contains e.1)
    segments := (List.range 4).foldl (fun m d => Map.put [] m d ((stays d).map Segment.rest)) []
    cres := reply.getD [] }
  s1.beginStart f true s0.die

/-- WARM_START: the board management controller asserts the module's reset while power is good; a start that runs then begins again. -/
def execWarmStart (faults : StartFaults) (s : State) : Host.Outcome State Fault Refusal :=
  .next (if s.phase ≠ 0 then s.warmStart faults none else s)

/-- POWER_LOSS: nothing stays but fuses and flash (R10); what lies outside the module is not touched. -/
def execPowerLoss (s : State) : Host.Outcome State Fault Refusal := .next s.cleared

end Sys2Proof.Machine
end

