-- ==== Sys2Proof/Machine/Ladder.lean ====
section
/-! DEFINITION. The reset ladder (R435 to R437) and fencing (R441, R442). -/

namespace Sys2Proof.Machine

/-! ### Scopes (R435) -/

/-- The handles of a partition that are not INVALID. -/
def State.partHandles (s : State) (p : Nat) : List Nat := (s.mcs.filter (fun e => decide (e.2.part = p) && decide (e.2.state ≠ .invalid))).map (·.1)

/-- The handles that a rung requested for a target has in its scope. -/
def State.rungHandles (s : State) (rung target : Nat) : List Nat :=
  match rung with
  | 0 => [target]
  | 1 => [target % 2 ^ 16]
  | 2 => []
  | 3 => s.partHandles target
  | _ => (s.mcs.filter (fun e => decide (e.2.state ≠ .invalid))).map (·.1)

/-- The engines of an engine rung: those of a die, by the codes 0 to 6 of Table 22.5. -/
def rungEngines (target : Nat) : List Nat := if target / 16 = 7 then List.range 7 else [target / 16]

/-- What a rung acts on: micro-contexts, their queues (from 4,096), engines (from 8,192) and a partition (from 16,384). -/
def rungItems (rung target : Nat) (handles : List Nat) : List Nat :=
  if rung = 0 then [4096 + target]
  else handles.flatMap (fun h => [h, 4096 + h]) ++ (match rung with
    | 2 => (rungEngines target).map (fun e => 8192 + 8 * (target % 16) + e)
    | 3 => [16384 + target]
    | _ => [])

/-- What a running rung acts on. -/
def Rung.items (r : Rung) : List Nat := rungItems r.rung r.target r.handles

/-- Whether a rung touches a die. -/
def State.rungOnDie (s : State) (r : Rung) (die : Nat) : Bool :=
  decide (r.rung = 4) || (decide (r.rung = 2) && decide (r.target % 16 = die)) || r.handles.any (fun h => decide ((s.mc h).home = die)) ||
  (decide (r.rung = 3) && (s.partition r.target).holdsDie die)

/-- Whether a rung runs on a die. -/
def State.dieInRung (s : State) (die : Nat) : Bool := s.rungs.any (fun r => s.rungOnDie r die)

/-! ### The rungs' own resets (R437) -/

/-- A stream record of a micro-context under reset: queued frames are discarded, and unsent delivery entries withdrawn, with a truncation
notice for the least. -/
def StreamRec.dropUnsent (r : StreamRec) : StreamRec :=
  let gone := r.delivery.filter (fun e => !e.sent)
  let least := (gone.map (·.pos)).foldl min 0xFFFFFFFF
  { r with
    queue := [], delivery := r.delivery.filter (·.sent), c := if gone.isEmpty then r.c else min r.c least
    notices := if gone.isEmpty then r.notices else r.notices ++ [least] }

/-- A micro-context that becomes INVALID keeps no work and no queue slot; its replay window stays until it is IDLE again (R412). -/
def MicroContext.invalidated (m : MicroContext) : MicroContext :=
  { m with state := .invalid, written := false, pend := false, ring := [], waiting := [], job := none, mapped := false, head := 0, tail := 0
           skipped := 0, notes := [] }

/-- A die-to-die queue that a micro-context uses is emptied, with its counts unchanged. -/
def DieQueue.emptiedFor (q : DieQueue) (h : Nat) : DieQueue := if q.sender = some h ∨ q.receiver = some h then { q with entries := [] } else q

/-- Micro-context: ring slots freed with a record each, streams and die-to-die queues emptied, forwarding ended; it ends IDLE or INVALID. -/
def State.resetMc (s : State) (h : Nat) (toInvalid lost : Bool) : State :=
  let s0 := s.resetQueueOf h lost
  let s1 := (s0.mc h).waiting.foldl (fun s p => s.reportReset h p lost) s0
  let s2 : State := (s1.ownedStreams h).foldl (fun s n => s.withSrec n StreamRec.dropUnsent) s1
  let s3 : State := { s2 with
    queues := s2.queues.map (fun e => (e.1, e.2.emptiedFor h))
    forwards := Map.drop s2.forwards h }
  s3.withMc h (fun m =>
    if toInvalid ∨ m.state = .invalid then m.invalidated
    else { m with state := .idle, ring := [], waiting := [], level := min m.base (s.ceiling h) })

/-- An engine by its code. -/
def engineOf : Nat → Option Engine
  | 0 => some .walker
  | 1 => some .collective
  | 2 => some .egress
  | 3 => some .siphon
  | _ => none

/-- TAG of a command of an engine. -/
def commandTag (c : Command) : Nat :=
  match c.engine with
  | .walker => natAt c.bytes 24 8
  | .collective => collTag c.bytes
  | .egress => natAt c.bytes 40 8
  | .siphon => natAt c.bytes 24 8

/-- Collective peers of the commands of a die receive PEERLOST, also those that submit later and those on other packages. -/
def State.losePeers (s : State) (die : Nat) : State :=
  let here := s.commands.filter (fun c => decide (c.engine = .collective) && decide (c.die = die))
  here.foldl (fun s c =>
    match c.ordinal with
    | none => s
    | some o =>
      let n := collGroup c.bytes
      s.loseOrdinal n o (s.commands.filter (fun x => decide (x.engine = .collective) && decide (x.die ≠ die) &&
        decide (collGroup x.bytes = n) && decide (x.ordinal = some o)))) s

/-- Whether a buffer entry's buffer serves a die, and with it the first-level buffers of the die's cells: all of them are emptied. -/
def State.emptyBuffers (s : State) (die : Nat) : State :=
  let st (t : StreamSt) : StreamSt := { t with buffer := [] }
  let sl (l : Slot) : Slot := { l with s := st l.s, v := st l.v, m := st l.m, x := st l.x }
  let mine (k : Nat) : Bool := if k < 64 then decide (k / 16 = die) else decide (k = 64 + die)
  { s with
    cells := (s.cells.map (fun e => if dieOf e.1 = die then (e.1, { e.2 with h0 := sl e.2.h0, h1 := sl e.2.h1 }) else e)).filter (fun e =>
      decide (e.2 ≠ CellSt.blank))
    buffers := s.buffers.filter (fun e => !mine e.1) }

/-- Engine: every outstanding command completes as RESET (0xFE). -/
def State.resetEngineOf (s : State) (die e : Nat) : State :=
  let s0 := if e = 1 then s.losePeers die else s
  let s1 := match engineOf e with
    | none => s0
    | some x => (s0.waitingAt die x).foldl (fun s c => s.answer c (resultBytes (commandTag c) 0xFE)) s0
  if e = 0 then s1.emptyBuffers die else s1

/-! ### Running a rung (R436) -/

/-- The handles of a rung enter DRAIN; a migration of one of them that still waits ends with STATE (Table 23.2). -/
def State.drain (s : State) (handles : List Nat) : State :=
  let s1 := handles.foldl (fun s h => s.withMc h (fun m => if m.state = .invalid then m else { m with state := .drain })) s
  if optAny s1.migration (fun g => handles.contains g.handle && decide (g.step ≠ 2)) then s1.giveUpMigration 2 3 else s1

/-- An error record of class RUNG. -/
def State.rungRecord (s : State) (r : Rung) : State :=
  let h := r.handles.headD 0
  match r.rung with
  | 2 => s.error (ErrorInfo.base 1 7 (r.target % 16))
  | 3 => s.error { ErrorInfo.base 1 7 (((List.range 4).find? (s.partition r.target).holdsDie).getD 0) with part := some r.target }
  | 4 => s.error (ErrorInfo.base 1 7 0)
  | _ => s.error { ErrorInfo.base 1 7 (s.mc h).home with part := some (s.mc h).part, handle := h }

/-- Step 5, once every unit of the jobs in scope has ended: the rung's own reset; the command that reports with it is answered. -/
def State.finishRung (s : State) (r : Rung) : State :=
  let s1 := match r.rung with
    | 0 => (s.resetQueueOf r.target (r.lost.contains r.target)).withMc r.target (fun m => if m.state = .drain then { m with state := .idle } else m)
    | 2 => r.handles.foldl (fun s h => s.resetMc h (r.invalid.contains h) (r.lost.contains h)) ((rungEngines r.target).foldl (fun s e => s.resetEngineOf (r.target % 16) e) s)
    | _ => r.handles.foldl (fun s h => s.resetMc h (r.invalid.contains h) (r.lost.contains h)) s
  let s2 := r.handles.foldl (fun s h => s.serve h) s1
  if r.reply then s2.control 0 0 else s2

/-- A running rung goes on where it can: its end, when its jobs have ended. -/
def State.advanceRung (s : State) (k : Nat) : State :=
  match s.rungs[k]? with
  | none => s
  | some r =>
    if r.rung = 4 then s.warmStart { dies := [], links := [], badStacks := [] } (if r.reply then some (controlResult (natAt s.command 56 8) 0 0) else none)
    else if r.jobs.any (fun j => (Map.find s.jobs j).isSome) then s
    else ({ s with rungs := s.rungs.eraseIdx k }).finishRung r

/-- Steps 1 to 3: intake stops, the jobs in scope are cancelled, and the engine, partition and device rungs end their units by force. -/
def State.startRung (s : State) (r : Rung) : State :=
  let jobs := (r.jobs ++ r.handles.filterMap (fun h => (s.mc h).job)).eraseDups
  let r1 := { r with jobs := jobs }
  let s1 := s.drain r.handles
  let lost (s : State) (j : Nat) : Bool := optAny (Map.find s.jobs j) (fun x => r.lost.contains x.mc)
  let s2 := jobs.foldl (fun s j => (s.addReason j (if lost s j then .memlost else .reset)).cancelJob j 0 4) s1
  let s3 := if 2 ≤ r.rung then jobs.foldl (fun s j => s.forceJob j) s2 else s2
  let s4 := s3.rungRecord r1
  ({ s4 with rungs := s4.rungs ++ [r1] }).advanceRung s4.rungs.length

/-- Start a rung with the rungs that lie within its scope absorbed: it reports for them. -/
def State.takeOver (s : State) (n : Rung) (others : List Rung) : State :=
  let inside (x : Rung) : Bool := decide (n.rung = 4) || x.items.all (fun i => n.items.contains i)
  let taken : List Rung := others.filter inside
  ({ s with rungs := others.filter (fun x => !inside x) }).startRung
    { n with
      reply := n.reply || taken.any (fun x : Rung => x.reply), jobs := n.jobs ++ taken.flatMap (fun x : Rung => x.jobs)
      invalid := n.invalid ++ taken.flatMap (fun x : Rung => x.invalid), lost := n.lost ++ taken.flatMap (fun x : Rung => x.lost) }

/-- A request for a rung (R435), with the handles that have lost a frame (R442): absorbed by a running one whose scope holds it, turned
away where it would partly overlap one, and else run. A rung that the firmware asks for takes over those that lie within its scope. -/
def State.requestRung (s : State) (rung target : Nat) (lost : List Nat) (reply : Bool) : State :=
  let n : Rung :=
    { rung := rung, target := target, since := s.cyc, jobs := [], handles := s.rungHandles rung target
      invalid := if rung = 1 ∧ 2 ^ 16 ≤ target then [target % 2 ^ 16] else [], lost := lost, reply := reply }
  let holds (r : Rung) : Bool := decide (r.rung = 4) || (decide (rung ≠ 4) && n.items.all (fun i => r.items.contains i))
  let overlaps (r : Rung) : Bool := decide (rung ≠ 4) && r.items.any (fun i => n.items.contains i)
  let within (r : Rung) : Bool := r.items.all (fun i => n.items.contains i)
  if s.phase ≠ 2 ∨ !resetTargetOk rung target then s
  else
    match s.rungs.findIdx? holds with
    | some k =>
      { s with
        ctlRuns := s.ctlRuns || reply
        rungs := s.rungs.mapIdx (fun i r => if i = k then { r with reply := r.reply || reply, lost := r.lost ++ lost } else r) }
    | none =>
      if reply then
        if s.rungs.any overlaps then s.control 4 0 else ({ s with ctlRuns := true }).takeOver n s.rungs
      else if s.rungs.any (fun r => overlaps r && !within r) then s
      else s.takeOver n s.rungs

/-- Whether the command in CCMD is the RESET of a rung and a target, still to be taken. -/
def State.resetAsked (s : State) (rung target : Nat) : Bool :=
  s.serving && s.cgo && !s.ctlRuns && decide (byteAt s.command 0 = 9) && decide (byteAt s.command 1 = rung) && decide (natAt s.command 8 8 = target)

/-- RESET_QUEUE: asked for in CCMD, or by the firmware. -/
def execResetQueue (handle : Nat) (s : State) : Host.Outcome State Fault Refusal := .next (s.requestRung 0 handle [] (s.resetAsked 0 handle))

/-- RESET_MICROCONTEXT. -/
def execResetMicrocontext (target : Nat) (s : State) : Host.Outcome State Fault Refusal :=
  .next (s.requestRung 1 target [] (s.resetAsked 1 target))

/-- RESET_ENGINE. -/
def execResetEngine (target : Nat) (s : State) : Host.Outcome State Fault Refusal := .next (s.requestRung 2 target [] (s.resetAsked 2 target))

/-- RESET_PARTITION. -/
def execResetPartition (p : Nat) (s : State) : Host.Outcome State Fault Refusal := .next (s.requestRung 3 p [] (s.resetAsked 3 p))

/-- RESET_DEVICE. -/
def execResetDevice (s : State) : Host.Outcome State Fault Refusal := .next (s.requestRung 4 0 [] (s.resetAsked 4 0))

/-- Cycles after which a rung escalates (Table 22.5). -/
def rungLimit : Nat → Nat
  | 0 => 100 * usCycles
  | 1 => 1000 * usCycles
  | 2 => 10000 * usCycles
  | _ => 100000 * usCycles

/-- The rung that a rung escalates to, with its jobs. -/
def State.nextRung (s : State) (r : Rung) : Rung :=
  let h := r.handles.headD 0
  let up (rung target : Nat) (handles : List Nat) : Rung := { r with rung := rung, target := target, handles := handles, since := s.cyc }
  match r.rung with
  | 0 => up 1 h [h]
  | 1 => up 2 ((s.mc h).home + 7 * 16) r.handles
  | 2 => up 3 (s.mc h).part (s.partHandles (s.mc h).part)
  | _ => up 4 0 (s.rungHandles 4 0)

/-- Whether the scope of a rung lies within that of a running one (R435). -/
def Rung.holds (r n : Rung) : Bool :=
  decide (r.rung = 4) || (decide (n.rung ≠ 4) &&
    ((decide (r.rung = 3) && decide (n.rung = 3) && decide (r.target = n.target)) || n.items.all (fun i => r.items.contains i)))

/-- A running rung takes over what an escalating one has in hand: its jobs, which end by force where the running one ends units so, and its
report. Its timeout goes on (R435). -/
def State.absorb (s : State) (k : Nat) (r n : Rung) : State :=
  let s1 := if 2 ≤ r.rung then n.jobs.foldl (fun s j => s.forceJob j) s else s
  let all : Rung := { r with reply := r.reply || n.reply, jobs := (r.jobs ++ n.jobs).eraseDups, invalid := r.invalid ++ n.invalid, lost := r.lost ++ n.lost }
  ({ s1 with rungs := s1.rungs.set k all }).advanceRung k

/-- A rung escalates: a running rung whose scope holds the next one's absorbs it, and else the rungs that lie within the next one's scope
are absorbed by that one. -/
def State.escalate (s : State) (k : Nat) (r : Rung) : State :=
  let n := s.nextRung r
  let s1 := { s with rungs := s.rungs.eraseIdx k }
  match s1.rungs.findIdx? (fun x => x.holds n) with
  | some i => s1.absorb i (s1.rungs.getD i n) n
  | none => s.takeOver n s1.rungs

/-- RUNG_TIMEOUT: a rung whose jobs have not ended within its timeout escalates. -/
def execRungTimeout (k : Nat) (s : State) : Host.Outcome State Fault Refusal :=
  .next (match s.rungs[k]? with
    | none => s
    | some r =>
      if r.rung < 4 ∧ r.since + rungLimit r.rung ≤ s.cyc ∧ r.jobs.any (fun j => (Map.find s.jobs j).isSome) then s.escalate k r else s.advanceRung k)

/-! ### Fencing -/

/-- Whether the command in CCMD is the FENCE of a kind, a die and an index, still to be taken. -/
def State.fenceAsked (s : State) (kind die index : Nat) : Bool :=
  s.serving && s.cgo && !s.ctlRuns && decide (byteAt s.command 0 = 0x0A) && decide (byteAt s.command 1 = kind) &&
  decide (byteAt s.command 2 = die) && decide (byteAt s.command 3 = index)

/-- Ask every gang with a unit on a cluster for a boundary (R441); one that takes none is pre-empted by force. -/
def State.clearCluster (s : State) (die cluster : Nat) : State :=
  (List.range 8).foldl (fun s i =>
    let c := 128 * die + 8 * cluster + i
    [false, true].foldl (fun s b => s.requestBoundary { cell := c, h1 := b }) s) s

/-- Fence a cluster (R441, R444). -/
def State.fenceClusterOf (s : State) (die cluster : Nat) : State :=
  if 4 ≤ die ∨ 16 ≤ cluster ∨ bitOf (s.die die).fencedClusters cluster then s
  else ((s.withDie die (fun d => { d with fencedClusters := setBit d.fencedClusters cluster true })).clearCluster die cluster).fenceRecords die cluster

/-- FENCE_CLUSTER: asked for in CCMD, or by the firmware. -/
def execFenceCluster (die : Nat) (cluster : Nat) (s : State) : Host.Outcome State Fault Refusal :=
  .next (if s.phase ≠ 2 then s
    else
      let s1 := s.fenceClusterOf die cluster
      if s.fenceAsked 0 die cluster then s1.control 0 0 else s1)

/-- Whether a micro-context has a private frame on a die (R442): one keyed with its slot, or one that holds its tables. -/
def State.privateOn (s : State) (h die : Nat) : Bool :=
  let m := s.mc h
  let here (a : Nat) : Bool := decide (a / 2 ^ 38 = die)
  decide (m.state ≠ .invalid) &&
  ((decide (m.keySlot ≠ 0) && s.frameKeys.any (fun e => decide (e.2 = m.keySlot) && here (e.1 * 2 ^ 21))) || here m.root ||
   (Map.get [] s.tables h).any here)

/-- Fence a stack (R442): the micro-contexts with private frames on the die take the micro-context rung, and their jobs report MEMLOST. -/
def State.fenceStackOf (s : State) (die stack : Nat) : State :=
  if 4 ≤ die ∨ 4 ≤ stack ∨ bitOf (s.die die).fencedStacks stack then s
  else
    let hs := (s.mcs.filter (fun e => s.privateOn e.1 die)).map (·.1)
    let s1 := (s.fenceStackBit die stack).fenceRecords die 0xFF
    hs.foldl (fun s h =>
      let s2 := match (s.mc h).job with
        | some j => s.addReason j .memlost
        | none => s
      s2.requestRung 1 h [h] false) s1

/-- FENCE_STACK. -/
def execFenceStack (die : Nat) (stack : Nat) (s : State) : Host.Outcome State Fault Refusal :=
  .next (if s.phase ≠ 2 then s
    else
      let s1 := s.fenceStackOf die stack
      if s.fenceAsked 1 die stack then s1.control 0 0 else s1)

/-- FATAL_ERROR: the firmware fences a cluster after a fatal error in it (R441). -/
def execFatalError (die : Nat) (cluster : Nat) (s : State) : Host.Outcome State Fault Refusal :=
  .next (if s.phase ≠ 2 then s else s.fenceClusterOf die cluster)

end Sys2Proof.Machine
end

