-- ==== Sys2Proof/Machine/Ctrl.lean ====
section
/-! DEFINITION. The control commands of the PF (R423, Tables 22.3, 21.12, 23.1), but for RESET and FENCE. Each takes effect in full or not
at all. -/

namespace Sys2Proof.Machine

/-- Whether a command waits for a sub-stream of the PF that has stopped (R410): NP for one that reads host memory, P for one that writes it. -/
def State.controlHeld (s : State) (c : List Byte) : Bool :=
  let op := byteAt c 0
  let copy := decide (op = 3)
  ((([1, 4, 5, 0x0D, 0x10].contains op) || (copy && decide (byteAt c 1 = 0))) && (s.ideStream 0).stop.getD 1 false) ||
  ((decide (op = 0x0B) || (copy && decide (byteAt c 1 ≠ 0))) && (s.ideStream 0).stop.getD 0 false)

/-- Carry out the command in CCMD, where it names an operation that a test accepts and has not been taken yet. -/
def State.onControl (s : State) (op : Nat) (kind : List Byte → Bool) (f : List Byte → State) : Host.Outcome State Fault Refusal :=
  .next (if s.serving && s.cgo && !s.ctlRuns && decide (byteAt s.command 0 = op) && kind s.command && !s.controlHeld s.command then f s.command else s)

/-- A command without kinds. -/
def anyKind (_ : List Byte) : Bool := true

/-- Whether ranges of bytes of a command are 0. -/
def unused (c : List Byte) (rs : List (Nat × Nat)) : Bool := rs.all (fun r => zeroAt c r.1 r.2)

/-- Host memory at a bus address. -/
def State.hostLoad (s : State) (a n : Nat) : List Byte := Memory.read s.mem (hostAt a) n

/-- Write host memory. -/
def State.hostStore (s : State) (a : Nat) (bs : List Byte) : State := { s with mem := Memory.write s.mem (hostAt a) bs }

/-! ### Micro-contexts (R427) -/

/-- Whether an image of a control block has a field out of range, for the partition that it names (R427, Tables 14.1, R354). -/
def State.imageBad (s : State) (i : List Byte) : Bool :=
  let part := s.partition (byteAt i 3 % 16)
  let win (k : Nat) : Bool := decide (natAt i (40 + 8 * k) 4 + natAt i (44 + 8 * k) 4 ≤ 1024)
  !part.enable || !part.hasSlot (natAt i 24 2) || (part.prot && !bitOf part.dies (byteAt i 2 % 4)) || decide (31 < byteAt i 4) ||
  decide (12 < byteAt i 7) || decide (512 < natAt i 26 2) || !(List.range 4).all win || decide (2 < byteAt i 90) ||
  (decide (byteAt i 90 ≠ 0) && (decide (natAt i 88 2 < 1) || decide (16 < natAt i 88 2) || decide (natAt i 80 8 % 64 ≠ 0)))

/-- A control block with bytes 0 to 95 of an image in it, but for STATE and FLAGS; ROOT of a protected partition's handle stays what
PTROOT set, which names one of Lid's tables (`lids`), and bits [15:0] of TSAVE read 0 (R318). -/
def MicroContext.fromImage (m : MicroContext) (i : List Byte) (prot lids : Bool) : MicroContext :=
  let part := byteAt i 3 % 16
  { m with
    home := byteAt i 2 % 4, part := part, base := byteAt i 4, savel := byteAt i 7, lrec := BitVec.ofNat 64 (natAt i 8 8)
    root := if prot then (if m.part = part ∧ lids then m.root else 0) else natAt i 16 8
    keySlot := natAt i 24 2, quota := natAt i 26 2, dline := natAt i 28 4, tsave := tsaveOf (BitVec.ofNat 64 (natAt i 32 8))
    windows := (List.range 4).map (fun k => (natAt i (40 + 8 * k) 4, natAt i (44 + 8 * k) 4)), rqring := BitVec.ofNat 64 (natAt i 72 8)
    qbase := BitVec.ofNat 64 (natAt i 80 8), qlog := natAt i 88 2, qsrc := byteAt i 90, written := true }

/-- CBWRITE. -/
def execCbwrite (s : State) : Host.Outcome State Fault Refusal :=
  s.onControl 0x01 anyKind (fun c =>
    let h := natAt c 8 2
    let m := s.mc h
    if 4096 ≤ h ∨ !unused c [(1, 7), (10, 6), (24, 32)] then s.control 1 0
    else if m.state ≠ .invalid ∧ m.state ≠ .idle then s.control 2 0
    else
      let i := s.hostLoad (natAt c 16 8) 256
      if s.imageBad i then s.control 1 0
      else
        let s1 := s.withMc h (fun m => m.fromImage i (s.partition (byteAt i 3 % 16)).prot ((Map.get [] s.tables h).contains m.root))
        (s1.withMc h (fun m => { m with level := min m.base (s1.ceiling h) })).control 0 0)

/-- Whether a control block still fits its partition as the partition is now: the partition's key range holds its KEYSLOT (R427), and in
a protected one HOME is on one of its dies (R396) and ROOT is one that PTROOT has set (R402). -/
def State.bodyFits (s : State) (h : Nat) : Bool :=
  let m := s.mc h
  let part := s.partition m.part
  part.hasSlot m.keySlot &&
  (!part.prot || (bitOf part.dies m.home && (decide (m.root = 0) || (Map.get [] s.tables h).contains m.root)))

/-- CBSTATE. A control block that no longer fits its partition lacks a CBWRITE, and answers STATE (log entry 71). -/
def execCbstate (s : State) : Host.Outcome State Fault Refusal :=
  s.onControl 0x02 anyKind (fun c =>
    let h := natAt c 8 2
    let m := s.mc h
    if 4096 ≤ h ∨ 1 < byteAt c 10 ∨ !unused c [(1, 7), (11, 45)] then s.control 1 0
    else if byteAt c 10 = 1 ∧ m.state = .invalid ∧ m.written ∧ s.bodyFits h then
      (({ s with replay := Map.drop s.replay h }).withMc h (fun m =>
        { m with state := .idle, parks := 0, rqdrop := 0, authfail := 0, dlmiss := 0, readyAt := 0 })).control 0 0
    else if byteAt c 10 = 0 ∧ m.state = .idle ∧ m.ring.isEmpty ∧ m.waiting.isEmpty ∧ m.head = m.tail ∧ !m.pend then
      (s.withMc h MicroContext.invalidated).control 0 0
    else s.control 2 0)

/-! ### Device memory and stream records -/

/-- A COPY that is denied has no effect (R428); each line that a write or a read of it would have met in protected memory or without a key
counts as refused (R397, R404), but for reads of protected memory, of which R397 counts none. -/
def State.copyRefused (s : State) (dir : Nat) (lines : List Nat) : State :=
  s.refuse (lines.filter (fun a => !s.keyed a || (decide (dir = 0) && (s.protector (homeDie a)).isSome))).length

/-- COPY (R428). -/
def execCopy (s : State) : Host.Outcome State Fault Refusal :=
  s.onControl 0x03 anyKind (fun c =>
    let dir := byteAt c 1
    let host := natAt c 8 8
    let pa := natAt c 16 8
    let len := natAt c 24 8
    let lines := (List.range (len / 64)).map (fun i => pa + 64 * i)
    if 1 < dir ∨ !unused c [(2, 6), (32, 24)] ∨ len < 64 ∨ 2 ^ 24 < len ∨ len % 64 ≠ 0 ∨ pa % 64 ≠ 0 ∨ 2 ^ 40 < pa + len then s.control 1 0
    else if lines.any s.reserved then s.control 1 0
    else if lines.any (fun a => (s.protector (homeDie a)).isSome || !s.keyed a) then (s.copyRefused dir lines).control 3 0
    else if dir = 0 then
      ((lines.zipIdx).foldl (fun s e => s.store e.1 ((Memory.read s.mem (hostAt (host + 64 * e.2)) 64))) s).control 0 0
    else (s.hostStore host (lines.flatMap (fun a => s.load a 64))).control 0 0)

/-- The configuration of a stream record, if every value lies within Table 11.3 (R429). -/
def streamConfig (b : List Byte) : Option StreamRec :=
  let base (i : Nat) : Word := BitVec.ofNat 64 (natAt b (8 + 8 * i) 8)
  let esize (i : Nat) : Nat := natAt b (40 + 4 * i) 4
  let cap (i : Nat) : Nat := natAt b (56 + 4 * i) 4
  let entryOk (i : Nat) : Bool := decide (16 ≤ esize i) && decide (esize i ≤ 65536) && decide (esize i % 16 = 0)
  let capOk (i : Nat) : Bool := decide (1 ≤ cap i) && decide (cap i ≤ 2 ^ 24)
  let baseOk (i : Nat) : Bool := decide (space (base i) = 0) || decide (space (base i) = 5)
  let ok := (List.range 4).all baseOk && entryOk 0 && capOk 0 && (decide (cap 1 = 0) || (entryOk 1 && capOk 1)) &&
    (decide (cap 2 = 0) || decide (cap 2 = 8)) && decide (esize 3 = 8) && capOk 3 && zeroAt b 2 6 && zeroAt b 88 40 && decide (natAt b 0 2 < 4096)
  if ok then
    some { StreamRec.blank with
      owner := natAt b 0 2, regions := (List.range 4).map (fun i => (base i, esize i, cap i)), live := BitVec.ofNat 64 (natAt b 72 8)
      fbuf := BitVec.ofNat 64 (natAt b 80 8) }
  else none

/-- Whether a micro-context is at rest, so that its stream records may be configured; 0xFFFF stands for none. -/
def State.atRest (s : State) (h : Nat) : Bool := decide (h = 0xFFFF) || decide ((s.mc h).state = .invalid) || decide ((s.mc h).state = .idle)

/-- SRCFG (R265, R412, R429): OSEQ stays. -/
def execSrcfg (s : State) : Host.Outcome State Fault Refusal :=
  s.onControl 0x04 anyKind (fun c =>
    let n := natAt c 8 2
    let b := s.hostLoad (natAt c 16 8) 128
    let set (r : StreamRec) : State :=
      (({ s with replayStream := Map.drop s.replayStream n }).withSrec n (fun old => { r with oseq := old.oseq })).control 0 0
    if 4096 ≤ n ∨ !unused c [(1, 7), (10, 6), (24, 32)] then s.control 1 0
    else if natAt b 0 2 ≠ 0xFFFF ∧ natAt b 0 2 < 4096 ∧ !s.dieServes (s.mc (natAt b 0 2)).part (n / 1024) then s.control 5 0
    else if natAt b 0 2 = 0xFFFF then (if s.atRest (s.srec n).owner then set StreamRec.blank else s.control 2 0)
    else
      match streamConfig b with
      | none => s.control 1 0
      | some r => if s.atRest (s.srec n).owner && s.atRest r.owner then set r else s.control 2 0)

/-! ### Segments (R431, R432) -/

/-- Where a hash stands among the segments of a die. -/
def State.segmentIndex (s : State) (die hash : Nat) : Option Nat := (s.segmentsOn die).findIdx? (fun e => decide (e.hash = hash))

/-- Whether a frame holds what no segment may take: a protected partition's data, or tables of Lid. -/
def State.frameTaken (s : State) (f : Nat) : Bool :=
  s.slotProtected (Map.get 0 s.frameKeys f) || (s.tables.flatMap (·.2)).any (fun a => decide (frameOf a = f))

/-- SEGREG. -/
def execSegreg (s : State) : Host.Outcome State Fault Refusal :=
  s.onControl 0x05 anyKind (fun c =>
    let die := byteAt c 1
    let d := s.hostLoad (natAt c 8 8) 64
    let hash := natAt d 0 32
    let f := natAt d 32 4
    if 4 ≤ die ∨ !unused c [(2, 6), (16, 40)] ∨ 2 ^ 19 ≤ f ∨ homeDie (f * 2 ^ 21) ≠ die ∨ s.reserved (f * 2 ^ 21 + 2 ^ 21 - 1) ∨
       8 ≤ byteAt d 40 ∨ 2 ≤ byteAt d 41 ∨ 64 ≤ natAt d 42 2 ∨ !zeroAt d 44 4 ∨ !zeroAt d 56 8 then s.control 1 0
    else if (Map.find s.residency f).isSome then s.control 2 0
    else
      match s.segmentIndex die hash with
      | some i => s.control 0 i
      | none =>
        let es := s.segmentsOn die
        if es.any (fun e => decide (e.frame = f)) then s.control 2 0
        else if s.frameTaken f then s.control 3 0
        else if s.sweeping f 1 then s.control 4 0
        else if 8192 ≤ es.length then s.control 5 0
        else
          let e : Segment :=
            { hash := hash, frame := f, order := natAt d 36 4, src := byteAt d 40, drive := byteAt d 41, peer := natAt d 42 2, lba := natAt d 48 8
              urgency := 0, reading := none, since := 0, failed := [], asked := false }
          let s1 := (s.wipe (f * 2 ^ 21) (2 ^ 21)).keyFrames [f] segmentSlot
          ({ s1 with segments := Map.put [] s1.segments die (es ++ [e]) }).control 0 es.length)

/-- Whether an access is parked on a frame (R61): an active slot's, the read of a launch record (R339), or one of a command that waits at
its engine (R285, R356). A slot that has stopped for a switch holds no parked access (R62, R328). -/
def State.parkedOn (s : State) (f : Nat) : Bool :=
  let st (t : StreamSt) : Bool := optAny t.waiting (fun w => decide (w.on = .segment f))
  let sl (l : Slot) : Bool := st l.s || st l.v || st l.m || st l.x || l.xqueue.any (fun k => decide (k.parked = some f))
  let record (e : Nat × MicroContext) : Bool := optAny e.2.waiting.head? (fun p => p.parked && (match s.recordAt e.1 p.lrec with
    | .error (.park g) => decide (g = f)
    | _ => false))
  s.cells.any (fun e => sl (e.2.slot e.2.active)) || s.mcs.any record || s.commands.any (fun c => (s.commandFrames c).contains f)

/-- Whether a buffer entry translates to a frame of device memory. -/
def BufferEntry.onFrame (e : BufferEntry) (f : Nat) : Bool :=
  let a := alignDown (bitsOf e.leaf 12 40 * 2 ^ 12) e.size
  !bitOf e.leaf 7 && decide (a < (f + 1) * 2 ^ 21) && decide (f * 2 ^ 21 < a + e.size)

/-- SEGREL: the translations go first, and then the frame is absent and its entry free. -/
def execSegrel (s : State) : Host.Outcome State Fault Refusal :=
  s.onControl 0x06 anyKind (fun c =>
    let die := byteAt c 1
    let f := natAt c 8 8
    if 4 ≤ die ∨ !unused c [(2, 6), (16, 40)] ∨ !(s.segmentsOn die).any (fun e => decide (e.frame = f)) then s.control 1 0
    else if s.parkedOn f then s.control 4 0
    else
      let s1 := ((s.purge (fun e => e.onFrame f)).wipe (f * 2 ^ 21) (2 ^ 21)).keyFrames [f] 0
      ({ s1 with
        residency := Map.drop s1.residency f
        segments := Map.put [] s1.segments die ((s1.segmentsOn die).filter (fun e => decide (e.frame ≠ f))) }).control 0 0)

/-- SEGCHK: the check of what the host has placed starts. -/
def execSegchk (s : State) : Host.Outcome State Fault Refusal :=
  s.onControl 0x07 anyKind (fun c =>
    let die := byteAt c 1
    let f := natAt c 8 8
    if 4 ≤ die ∨ !unused c [(2, 6), (16, 40)] then s.control 1 0
    else
      match (s.segmentsOn die).find? (fun e => decide (e.frame = f)) with
      | none => s.control 1 0
      | some e =>
        if (Map.find s.residency f).isSome ∨ !bitOf e.src 0 then s.control 2 0
        else if e.reading ≠ none ∧ e.reading ≠ some 0 then s.control 4 0
        else (s.withSegment die f (fun e => { e with reading := some 0, since := s.cyc, asked := true, failed := e.failed.filter (· != 0) })).control 0 0)

/-! ### Ports, rings, identity -/

/-- PORT. -/
def execPort (s : State) : Host.Outcome State Fault Refusal :=
  s.onControl 0x08 anyKind (fun c =>
    if 8 ≤ byteAt c 1 ∨ !unused c [(4, 4), (14, 2), (32, 24)] then s.control 1 0
    else ({ s with ports := Map.set s.ports (byteAt c 1) { udp := natAt c 2 2, mac := natAt c 8 6, ipv6 := natAt c 16 16 } }).control 0 0)

/-- Read out a part of the identity to host memory (Table 22.3). -/
def State.idread (s : State) (what : Nat) (bytes : List Byte) : Host.Outcome State Fault Refusal :=
  s.onControl 0x0B (fun c => decide (byteAt c 1 = what)) (fun c =>
    if !unused c [(2, 6), (24, 32)] then s.control 1 0
    else (s.hostStore (natAt c 8 8) (bytes.take (natAt c 16 8))).control 0 bytes.length)

/-- IDREAD_IDENTITY_KEY. -/
def execIdreadIdentityKey (s : State) : Host.Outcome State Fault Refusal := s.idread 0 Config.identityKey

/-- IDREAD_KEM_KEY. -/
def execIdreadKemKey (s : State) : Host.Outcome State Fault Refusal := s.idread 1 Config.kemKey

/-- IDREAD_CERT_CHAIN. -/
def execIdreadCertChain (s : State) : Host.Outcome State Fault Refusal := s.idread 2 Config.certChain

/-- Set up a ring of a function (R439). -/
def State.setRing (s : State) (kind : Nat) : Host.Outcome State Fault Refusal :=
  s.onControl 0x0C (fun c => decide (byteAt c 2 = kind)) (fun c =>
    if 16 < byteAt c 1 ∨ byteAt c 16 < 4 ∨ 16 < byteAt c 16 ∨ !unused c [(3, 5), (17, 39)] then s.control 1 0
    else
      ({ s with rings := Map.set s.rings (ringNo (byteAt c 1) kind) { base := natAt c 8 8, log2n := byteAt c 16, produced := 0 } }).control 0 0)

/-- RINGS_COMPLETION. -/
def execRingsCompletion (s : State) : Host.Outcome State Fault Refusal := s.setRing 0

/-- RINGS_ERROR. -/
def execRingsError (s : State) : Host.Outcome State Fault Refusal := s.setRing 1

/-! ### The peer table (R415) -/

/-- The state of a peer entry as PEERCFG returns it. -/
def Peer.value (e : Peer) : Nat :=
  (match e.state with
   | .down => 0
   | .hello => 1
   | .up => 2
   | .lost => 3) + e.epoch * 2 ^ 16

/-- Whether a PEERCFG command has a reserved bit that is not 0. -/
def peercfgBad (c : List Byte) : Bool := decide (4096 ≤ natAt c 2 2) || decide (2 ≤ byteAt c 5) || !unused c [(14, 2), (34, 22)]

/-- PEERCFG_LOCAL. -/
def execPeercfgLocal (s : State) : Host.Outcome State Fault Refusal :=
  s.onControl 0x12 (fun c => decide (byteAt c 1 = 0xFF)) (fun c =>
    if peercfgBad c then s.control 1 0
    else if s.peers.any (fun e => e.2.enabled) then s.control 2 0
    else ({ s with localIndex := natAt c 2 2 }).control 0 0)

/-- A peer entry as a command sets it; EPOCH begins again under a new key. -/
def Peer.configured (e : Peer) (c : List Byte) : Peer :=
  { e with
    index := natAt c 2 2, ports := byteAt c 4, enabled := true, keySlot := natAt c 6 2, mac := natAt c 8 6, ipv6 := natAt c 16 16
    udp := natAt c 32 2, epoch := if e.keySlot = natAt c 6 2 then e.epoch else 0 }

/-- PEERCFG_ENTRY. -/
def execPeercfgEntry (s : State) : Host.Outcome State Fault Refusal :=
  s.onControl 0x12 (fun c => decide (byteAt c 1 ≠ 0xFF)) (fun c =>
    let p := byteAt c 1
    let k := natAt c 6 2
    let e := s.peer p
    let answer (s : State) : State := s.control 0 (s.peer p).value
    if peercfgBad c then s.control 1 0
    else if byteAt c 5 = 0 then answer ((s.peerDown p).withPeer p (fun e => { e with enabled := false }))
    else if !s.slotReserved k || (Map.find s.keys k).isNone then s.control 3 0
    else if natAt c 2 2 = s.localIndex ∨ s.peers.any (fun x => x.2.enabled && decide (x.1 ≠ p) && decide (x.2.index = natAt c 2 2)) then s.control 1 0
    else if e.enabled && (decide (e.state = .hello) || decide (e.state = .up)) then
      (if e.keySlot = k then answer (s.withPeer p (fun e => { e with ports := byteAt c 4 }))
       else answer (((s.peerDown p).withPeer p (fun e => { e with ports := byteAt c 4, keySlot := k, epoch := 0 })).startHandshake p))
    else answer ((s.withPeer p (fun e => e.configured c)).startHandshake p))

/-! ### Firmware (R445, R446) -/

/-- Change the firmware of a kind on a die. -/
def State.withFirmware (s : State) (die kind : Nat) (f : Firmware → Firmware) : State :=
  { s with firmware := Map.set s.firmware (3 * die + kind) (f (s.firmwareOf die kind)) }

/-- An image written to the unselected bank. -/
def Firmware.staged (f : Firmware) (i : FwImage) : Firmware := if f.selB then { f with a := i } else { f with b := i }

/-- The bank that is not selected. -/
def Firmware.other (f : Firmware) : FwImage := if f.selB then f.a else f.b

/-- FWSTAGE: each named die's own fused minimum counts. -/
def execFwstage (s : State) : Host.Outcome State Fault Refusal :=
  s.onControl 0x0D anyKind (fun c =>
    let die := byteAt c 1
    let kind := byteAt c 2
    let len := natAt c 16 8
    let dies := if die = 4 then List.range 4 else [die]
    if 4 < die ∨ 2 < kind ∨ len < 4096 ∨ 2 ^ 24 < len ∨ !unused c [(3, 5), (24, 32)] then s.control 1 0
    else
      let i := s.hostLoad (natAt c 8 8) len
      let image : FwImage := { hash := natOf (shake256 i 32), version := Config.imageVersion i, iface := Config.imageInterface i, good := true }
      if !Config.imageVerifies i then s.control 3 1
      else if dies.any (fun d => decide (Config.imageVersion i < Config.minimumVersion d)) then s.control 3 2
      else if dies.any s.dieInRung then s.control 4 0
      else (dies.foldl (fun s d => s.withFirmware d kind (fun f => f.staged image)) s).control 0 0)

/-- The other bank is selected; a running image of a kind that changes live runs from then on. -/
def Firmware.switched (f : Firmware) (live : Bool) : Firmware := { f with selB := !f.selB, running := if live then f.other else f.running }

/-- Whether a FWSWITCH may go on: no reserved byte, no rung on the die, and an image that verifies in the other bank. -/
def State.switchStatus (s : State) (c : List Byte) : Option Nat :=
  let die := byteAt c 1
  if 4 ≤ die ∨ !unused c [(3, 53)] then some 1
  else if s.dieInRung die then some 4
  else if !(s.firmwareOf die (byteAt c 2)).other.good then some 2
  else none

/-- FWSWITCH_JALCEN: traps that would go to the firmware stay pending until the switch point. -/
def execFwswitchJalcen (s : State) : Host.Outcome State Fault Refusal :=
  s.onControl 0x0E (fun c => decide (byteAt c 2 = 0)) (fun c =>
    match s.switchStatus c with
    | some st => s.control st 0
    | none => { s.withDie (byteAt c 1) (fun d => { d with jalcenSwitch := some s.cyc }) with ctlRuns := true })

/-- FWSWITCH_LADLE: dies that run must not be left with different interface numbers; a die held in reset runs no image. -/
def execFwswitchLadle (s : State) : Host.Outcome State Fault Refusal :=
  s.onControl 0x0E (fun c => decide (byteAt c 2 = 1)) (fun c =>
    let die := byteAt c 1
    let f := s.firmwareOf die 1
    match s.switchStatus c with
    | some st => s.control st 0
    | none =>
      let live := (s.die die).up
      if live && (List.range 4).any (fun d => decide (d ≠ die) && (s.die d).up && decide ((s.firmwareOf d 1).running.iface ≠ f.other.iface)) then s.control 2 0
      else (s.withFirmware die 1 (fun f => f.switched live)).control 0 (bit01 (f.switched live).selB))

/-- FWSWITCH_LID: the selection counts at the next start. -/
def execFwswitchLid (s : State) : Host.Outcome State Fault Refusal :=
  s.onControl 0x0E (fun c => decide (byteAt c 2 = 2)) (fun c =>
    let die := byteAt c 1
    match s.switchStatus c with
    | some st => s.control st 0
    | none => (s.withFirmware die 2 (fun f => f.switched false)).control 0 (bit01 ((s.firmwareOf die 2).switched false).selB))

/-! ### Recalibration, migration, forwarding -/

/-- RECAL (R448): the command is answered when the recalibration ends. -/
def execRecal (s : State) : Host.Outcome State Fault Refusal :=
  s.onControl 0x0F anyKind (fun c =>
    let die := byteAt c 1
    let stack := byteAt c 2
    if 4 ≤ die ∨ 4 ≤ stack ∨ !unused c [(3, 53)] then s.control 1 0
    else if bitOf (s.die die).fencedStacks stack then s.control 2 0
    else if (s.die die).recal.isSome || s.dieInRung die then s.control 4 0
    else { s.withDie die (fun d => { d with recal := some { stack := stack, slices := 0, last := 0 } }) with ctlRuns := true })

/-- A MIGRATE command, checked (R450). -/
def State.takeMigrate (s : State) (c : List Byte) : State :=
  let h := natAt c 8 2
  let m := s.mc h
  let n := natAt c 24 8
  let at_ := natAt c 16 8
  if 4096 ≤ h ∨ 64 ≤ natAt c 10 2 ∨ 4096 ≤ natAt c 12 2 ∨ 4096 < n ∨ !unused c [(1, 7), (14, 2), (32, 24)] then s.control 1 0
  else if m.state = .invalid ∨ m.state = .drain ∨ (s.peer (natAt c 10 2)).state ≠ .up then s.control 2 0
  else
    let frames := (List.range n).map (fun i =>
      let e := s.hostLoad (at_ + 16 * i) 16
      (natAt e 0 8, natAt e 8 8))
    if frames.any (fun f => decide (2 ^ 19 ≤ f.1) || decide (Map.get 0 s.frameKeys f.1 ≠ m.keySlot)) then s.control 1 0
    else
      let g : Migration := { handle := h, peer := natAt c 10 2, phandle := natAt c 12 2, frames := frames, step := 0 }
      (({ s with migration := some g, ctlRuns := true }).holdBack h).askPeer g

/-- MIGRATE: the command is taken, or, once the handle's job has ended, the migration goes on. -/
def execMigrate (s : State) : Host.Outcome State Fault Refusal :=
  match s.migration with
  | some g => .next (if g.step = 0 then s.askPeer g else s)
  | none => s.onControl 0x10 anyKind s.takeMigrate

/-- FWDEND (R451). -/
def execFwdend (s : State) : Host.Outcome State Fault Refusal :=
  s.onControl 0x11 anyKind (fun c =>
    let h := natAt c 8 2
    if 4096 ≤ h ∨ !unused c [(1, 7), (10, 46)] then s.control 1 0 else ({ s with forwards := Map.drop s.forwards h }).control 0 0)

end Sys2Proof.Machine
end

