-- ==== Sys2Proof/Machine/Fleet.lean ====
section
/-! DEFINITION. Operating a fleet: the switch point of a new Jalcen image (R446), recalibration slices (R448), the ramp limiter and the
power cap (R350, R453), telemetry (R454), and the die-to-die links (R409). -/

namespace Sys2Proof.Machine

/-- Whether a handler of the firmware runs on a die. -/
def State.firmwareBusy (s : State) (die : Nat) : Bool :=
  s.cells.any (fun e => decide (dieOf e.1 = die) && (e.2.h0.firmwareRuns || e.2.h1.firmwareRuns))

/-- JALCEN_SWITCH_POINT: with no handler of the old image left, the new image runs; after 1 ms without such a point the command returns
BUSY and the selection stays. -/
def execJalcenSwitchPoint (die : Nat) (s : State) : Host.Outcome State Fault Refusal :=
  .next (match (s.die die).jalcenSwitch with
    | none => s
    | some t =>
      let s1 := s.withDie die (fun d => { d with jalcenSwitch := none })
      if t + 1000 * usCycles < s.cyc then s1.control 4 0
      else if s.firmwareBusy die then s
      else
        let f := (s.firmwareOf die 0).switched (s.die die).up
        (s1.withFirmware die 0 (fun _ => f)).control 0 (bit01 f.selB))

/-- RECAL_SLICE: a slice begins at least 100 µs after the one before; the stack passes its check, or fails it after 200 slices and is
fenced (R448). -/
def execRecalSlice (die : Nat) (passes : Bool) (s : State) : Host.Outcome State Fault Refusal :=
  .next (match (s.die die).recal with
    | none => s
    | some r =>
      if r.slices ≠ 0 ∧ s.cyc < r.last + 100 * usCycles then s
      else if passes then (s.withDie die (fun d => { d with recal := none })).control 0 0
      else if r.slices + 1 < 200 then s.withDie die (fun d => { d with recal := some { r with slices := r.slices + 1, last := s.cyc } })
      else ((s.withDie die (fun d => { d with recal := none })).fenceStackOf die r.stack).control 0 1)

/-- The effective cap after a window at a temperature in °C (R453): CAP, unless the temperature has lowered it and it has not risen back. -/
def Die.nextCap (d : Die) (temp : Nat) : Nat :=
  let now := if d.throttled then min d.effCap d.cap else d.cap
  max 8 (if d.tlim ≤ temp then now - d.step else if temp + 5 < d.tlim then min d.cap (now + d.step) else now)

/-- Whether the effective cap after a window is one that the temperature has lowered. -/
def Die.nextThrottled (d : Die) (temp : Nat) : Bool := decide (d.tlim ≤ temp) || (d.throttled && decide (d.nextCap temp < d.cap))

/-- The activity of a window for a demand: within STEP of the one before, and within the cap as fast as falls allow (R350, R453). With DIS
set only the cap counts. -/
def Die.nextActivity (d : Die) (cap demand : Nat) : Nat :=
  let bound := min d.cap cap * 2000
  let want := min demand 128000
  if d.rampOff then min want bound else max (d.activity - d.step * 2000) (min want (min (d.activity + d.step * 2000) bound))

/-- RAMP_WINDOW. -/
def execRampWindow (die : Nat) (demand : Nat) (temp : Nat) (s : State) : Host.Outcome State Fault Refusal :=
  .next (if (s.die die).up then
      s.withDie die (fun d => { d with effCap := d.nextCap temp, throttled := d.nextThrottled temp, activity := d.nextActivity (d.nextCap temp) demand })
    else s)

/-- The telemetry block of a die as a function sees it: PARKSUM and JOBS over its own partition where it is a VF (Table 23.4). -/
def State.telemetryNow (s : State) (func die temp power : Nat) : List Word :=
  let d := s.die die
  let mine (p : Nat) : Bool := decide (func = 0) || decide (p + 1 = func)
  let parks := ((s.mcs.filter (fun e => decide (e.2.home = die) && mine e.2.part)).map (fun e => e.2.parks)).sum
  let jobs := ((s.jobsDone.filter (fun e => decide (e.1 / 32 = die) && mine (e.1 % 32))).map (·.2)).sum
  [BitVec.ofNat 64 (temp % 2 ^ 16), BitVec.ofNat 64 power, BitVec.ofNat 64 (d.activity + d.effCap * 2 ^ 17), BitVec.ofNat 64 d.corr,
   BitVec.ofNat 64 d.uncorr, BitVec.ofNat 64 (16 - countOnes 16 d.fencedClusters + d.stackCount * 2 ^ 8), BitVec.ofNat 64 parks, BitVec.ofNat 64 jobs]

/-- TELEMETRY_REFRESH. -/
def execTelemetryRefresh (die : Nat) (temp : Nat) (power : Nat) (s : State) : Host.Outcome State Fault Refusal :=
  .next (if (s.die die).up then
      { s with telemetry := (List.range 17).foldl (fun m f =>
          if f = 0 ∨ (s.partition (f - 1)).holdsDie die then Map.put telemetryBlank m (4 * f + die) (s.telemetryNow f die temp power) else m) s.telemetry }
    else s)

/-- The link of a boundary and a direction. -/
def State.link (s : State) (k : Nat) : DieLink := Map.get DieLink.blank s.links k

/-- Change a link. -/
def State.withLink (s : State) (k : Nat) (f : DieLink → DieLink) : State := { s with links := Map.put DieLink.blank s.links k (f (s.link k)) }

/-- Groups of an epoch: the next epoch begins after them (R409). -/
def epochGroups : Nat := 2 ^ 36

/-- Good groups pass: each uses a counter value, and none up to the end of the epoch goes beyond it. -/
def DieLink.pass (l : DieLink) (n : Nat) : DieLink :=
  let m := min n (epochGroups - l.counter)
  if m = 0 then l else { l with counter := l.counter + m, failures := 0 }

/-- A group fails its tag: its counter value is spent too. -/
def DieLink.fail (l : DieLink) : DieLink := { l with counter := l.counter + 1, failures := l.failures + 1, down := decide (7 ≤ l.failures) }

/-- The next epoch: its key is drawn from the key before it, and its counter begins at 0. -/
def DieLink.nextEpoch (l : DieLink) : DieLink :=
  { l with key := shake256 (l.key ++ bytesOf 4 (l.epoch + 1)) 32, epoch := l.epoch + 1, counter := 0 }

/-- UCIE_GROUP_TAG_FAIL: the group is sent again under a fresh counter; eight failures in a row take the link down (R409). -/
def execUcieGroupTagFail (link : Nat) (s : State) : Host.Outcome State Fault Refusal :=
  .next (if 8 ≤ link ∨ (s.link link).down ∨ epochGroups ≤ (s.link link).counter then s
    else
      let s1 := s.withLink link DieLink.fail
      s1.error (ErrorInfo.base (if (s1.link link).down then 2 else 0) 3 ((boundaryDies (link / 2)).headD 0)))

/-- UCIE_EPOCH_ROLLOVER: after 2^36 groups the next epoch begins. -/
def execUcieEpochRollover (link : Nat) (s : State) : Host.Outcome State Fault Refusal :=
  .next (if 8 ≤ link ∨ (s.link link).down ∨ (s.link link).counter < epochGroups then s else s.withLink link DieLink.nextEpoch)

/-- Good groups pass over a direction of a boundary that is up. -/
def State.linkPasses (s : State) (link n : Nat) : State := if 8 ≤ link ∨ (s.link link).down then s else s.withLink link (fun l => l.pass n)

/-- Memory or SRAM of a die corrects an error at an address: a record of class 1, and the die's count CORR (Tables 22.6, 23.4). -/
def State.corrects (s : State) (die addr : Nat) : State :=
  if (s.die die).up then
    (s.error { ErrorInfo.base 0 1 die with part := s.protector die, addr := BitVec.ofNat 64 addr }).withDie die (fun d =>
      { d with corr := min (d.corr + 1) (2 ^ 64 - 1) })
  else s

end Sys2Proof.Machine
end

