-- ==== Sys2Proof/Machine/Acts.lean ====
section
/-! DEFINITION. What the outside world and the order of events do next, apart from the events of the table. -/

namespace Sys2Proof.Machine

/-- The firmware returns past the instruction whose trap it handles: the raising stream's resume PC in the record becomes SUCC, or the
stream halts where SHALT is 1 (R206, R262). -/
def State.skipTrapped (s : State) (u : SlotId) : State :=
  let l := s.slot u
  let tsave := l.sr.tsave.toNat
  match s.savedBytes u tsave 0x140 with
  | none => s
  | some bs =>
    match RecordHeader.ofBytes bs with
    | none => s
    | some h =>
      let o := 0x40 + 64 * l.sr.tcause.field 16 2
      let flags := byteAt bs (o + 32)
      (s.countSaved u tsave 0x140).saveBytes u tsave (overlay (overlay bs o (bytesOf 8 h.succ)) (o + 32) (bytesOf 1 (if h.shalt then setBit flags 0 true else flags)))

/-- The firmware ends the unit whose trap it handles: as cancelled where it has taken CANCEL, and else as failed (R37, R312). -/
def State.endTrapped (s : State) (u : SlotId) : State :=
  s.endUnit (s.binding u).unit (if (s.slot u).tookCancel then 4 else 3) ((s.slot u).sr.tcause.field 0 8)

/-- What the firmware's handler on a slot does with its trap; a return waits where the save area cannot be read (R410). -/
def State.firmwareActs (s : State) (u : SlotId) (f : FwChoice) : State :=
  let l := s.slot u
  if !l.firmwareRuns ∨ (f ≠ .fail ∧ s.cellHeld u.cell) then s
  else
    match f with
    | .accFirst => if l.sr.tcause.field 0 8 = causeAccfirst then (s.handOverTile u (l.sr.tval.toNat % 2)).returnOut u else s
    | .fail => s.endTrapped u
    | .resume => s.returnOut u
    | .skip => (s.skipTrapped u).returnOut u

/-- A byte of a store, or of device memory, gets an uncorrectable error. -/
def State.spoil (s : State) (a : Nat) : State :=
  if a < 2 ^ 55 then { s with mem := Memory.write s.mem a [Config.upsetByte a s.cyc], upsets := Map.set s.upsets a true } else s

/-- A command in progress of a slot takes its next part, or the asynchronous cause that is due there comes first (R311). -/
def State.orAsync (s : State) (u : SlotId) (f : State → State) : State := if s.asyncDue u then s.takeAsync u else f s

/-- An entry of the agenda that is no move of a stream and no event. -/
def State.act (s : State) : Act → State
  | .issue _ => s
  | .event _ => s
  | .mUpdate u => if (s.slot u).bound.isSome then s.orAsync u (fun s => s.mUpdate u) else s
  | .xElem u k => s.orAsync u (fun s => s.xElem u k)
  | .together _ _ => s
  | .issueLong _ => s
  | .sRetires _ _ => s
  | .readAhead c => s.readAhead c
  | .tick n => { s with cyc := s.cyc + n }
  | .firmware u f => s.firmwareActs u f
  | .rung k => s.advanceRung k
  | .upset a => s.spoil a
  | .hostWrite a bs => { s with mem := Memory.write s.mem (hostAt a) bs }
  | .setGroup n g => { s with groups := Map.set s.groups n { g with contribs := [], sent := [], lost := [] } }
  | .setQueue n x y => { s with queues := Map.set s.queues n { sender := some x, receiver := some y, entries := [], sends := 0, receives := 0 } }
  | .setWake h w => s.withMc h (fun m => { m with wake := w })
  | .setDrive d block => { s with drives := match block with
      | some b => if b = 512 ∨ b = 4096 then Map.set s.drives d { block := b, ready := false } else s.drives
      | none => Map.drop s.drives d }
  | .startEnds f us => s.endStart f us
  | .linkGroups k n => s.linkPasses k n
  | .corrected die a => s.corrects die a
  | .setBatch h b => s.withMc h (fun m => { m with batch := b })
  | .runtime j op => s.runtimeActs j op

end Sys2Proof.Machine
end

