-- ==== Sys2Proof/Machine/Dispatch.lean ====
section
/-! DEFINITION. One arm for each instruction and event: a direct call of its meaning. -/

namespace Sys2Proof.Machine

def exec (i : Instr) (s : State) : Host.Outcome State Fault Refusal :=
  match i with
  | .nop h => Sys2Proof.Machine.execNop h s
  | .add h d a b => Sys2Proof.Machine.execAdd h d a b s
  | .addi h d a imm => Sys2Proof.Machine.execAddi h d a imm s
  | .sub h d a b => Sys2Proof.Machine.execSub h d a b s
  | .mul h d a b => Sys2Proof.Machine.execMul h d a b s
  | .mulhs h d a b => Sys2Proof.Machine.execMulhs h d a b s
  | .mulhu h d a b => Sys2Proof.Machine.execMulhu h d a b s
  | .divs h d a b => Sys2Proof.Machine.execDivs h d a b s
  | .divu h d a b => Sys2Proof.Machine.execDivu h d a b s
  | .rems h d a b => Sys2Proof.Machine.execRems h d a b s
  | .remu h d a b => Sys2Proof.Machine.execRemu h d a b s
  | .and_ h d a b => Sys2Proof.Machine.execAnd h d a b s
  | .andi h d a imm => Sys2Proof.Machine.execAndi h d a imm s
  | .or_ h d a b => Sys2Proof.Machine.execOr h d a b s
  | .ori h d a imm => Sys2Proof.Machine.execOri h d a imm s
  | .xor_ h d a b => Sys2Proof.Machine.execXor h d a b s
  | .xori h d a imm => Sys2Proof.Machine.execXori h d a imm s
  | .andn h d a b => Sys2Proof.Machine.execAndn h d a b s
  | .shl h d a b => Sys2Proof.Machine.execShl h d a b s
  | .shli h d a imm => Sys2Proof.Machine.execShli h d a imm s
  | .shr h d a b => Sys2Proof.Machine.execShr h d a b s
  | .shri h d a imm => Sys2Proof.Machine.execShri h d a imm s
  | .sar h d a b => Sys2Proof.Machine.execSar h d a b s
  | .sari h d a imm => Sys2Proof.Machine.execSari h d a imm s
  | .rol h d a b => Sys2Proof.Machine.execRol h d a b s
  | .ror h d a b => Sys2Proof.Machine.execRor h d a b s
  | .clz h d a => Sys2Proof.Machine.execClz h d a s
  | .ctz h d a => Sys2Proof.Machine.execCtz h d a s
  | .popc h d a => Sys2Proof.Machine.execPopc h d a s
  | .brev h d a => Sys2Proof.Machine.execBrev h d a s
  | .bfx h d a src => Sys2Proof.Machine.execBfx h d a src s
  | .bfxs h d a src => Sys2Proof.Machine.execBfxs h d a src s
  | .bfi h d a src => Sys2Proof.Machine.execBfi h d a src s
  | .mins h d a b => Sys2Proof.Machine.execMins h d a b s
  | .minu h d a b => Sys2Proof.Machine.execMinu h d a b s
  | .maxs h d a b => Sys2Proof.Machine.execMaxs h d a b s
  | .maxu h d a b => Sys2Proof.Machine.execMaxu h d a b s
  | .sel h d a b c => Sys2Proof.Machine.execSel h d a b c s
  | .mov h d a k => Sys2Proof.Machine.execMov h d a k s
  | .li h d imm => Sys2Proof.Machine.execLi h d imm s
  | .lih h d imm => Sys2Proof.Machine.execLih h d imm s
  | .lea h d a b fn => Sys2Proof.Machine.execLea h d a b fn s
  | .cmp h d a b cond => Sys2Proof.Machine.execCmp h d a b cond s
  | .cmpi h d a imm cond => Sys2Proof.Machine.execCmpi h d a imm cond s
  | .plog h d a b fn => Sys2Proof.Machine.execPlog h d a b fn s
  | .br h tgt => Sys2Proof.Machine.execBr h tgt s
  | .jmpr h a => Sys2Proof.Machine.execJmpr h a s
  | .call h tgt => Sys2Proof.Machine.execCall h tgt s
  | .callr h a => Sys2Proof.Machine.execCallr h a s
  | .ret h a => Sys2Proof.Machine.execRet h a s
  | .loop h d tgt => Sys2Proof.Machine.execLoop h d tgt s
  | .cvta h d a fn => Sys2Proof.Machine.execCvta h d a fn s
  | .tspc h d a fn => Sys2Proof.Machine.execTspc h d a fn s
  | .mfs h d a => Sys2Proof.Machine.execMfs h d a s
  | .mts h d a => Sys2Proof.Machine.execMts h d a s
  | .halt h => Sys2Proof.Machine.execHalt h s
  | .ld h d a b sz disp => Sys2Proof.Machine.execLd h d a b sz disp s
  | .st h d a b sz disp => Sys2Proof.Machine.execSt h d a b sz disp s
  | .lda h d a b sz disp ord scope => Sys2Proof.Machine.execLda h d a b sz disp ord scope s
  | .str h d a b sz disp ord scope => Sys2Proof.Machine.execStr h d a b sz disp ord scope s
  | .aadd h d a b sz ord scope => Sys2Proof.Machine.execAadd h d a b sz ord scope s
  | .amin h d a b sz ord scope => Sys2Proof.Machine.execAmin h d a b sz ord scope s
  | .amax h d a b sz ord scope => Sys2Proof.Machine.execAmax h d a b sz ord scope s
  | .aand h d a b sz ord scope => Sys2Proof.Machine.execAand h d a b sz ord scope s
  | .aor h d a b sz ord scope => Sys2Proof.Machine.execAor h d a b sz ord scope s
  | .axor h d a b sz ord scope => Sys2Proof.Machine.execAxor h d a b sz ord scope s
  | .axchg h d a b sz ord scope => Sys2Proof.Machine.execAxchg h d a b sz ord scope s
  | .acas h d a b c sz ord scope => Sys2Proof.Machine.execAcas h d a b c sz ord scope s
  | .fence h ord scope => Sys2Proof.Machine.execFence h ord scope s
  | .rfence h => Sys2Proof.Machine.execRfence h s
  | .tksend h to_ => Sys2Proof.Machine.execTksend h to_ s
  | .tkwait h to_ => Sys2Proof.Machine.execTkwait h to_ s
  | .bara h n scope => Sys2Proof.Machine.execBara h n scope s
  | .barw h n scope => Sys2Proof.Machine.execBarw h n scope s
  | .launch h d a b => Sys2Proof.Machine.execLaunch h d a b s
  | .launchCont h d a b => Sys2Proof.Machine.execLaunchCont h d a b s
  | .join h a => Sys2Proof.Machine.execJoin h a s
  | .cancel h d a child level => Sys2Proof.Machine.execCancel h d a child level s
  | .cntrd h d a child level => Sys2Proof.Machine.execCntrd h d a child level s
  | .enq h a eng => Sys2Proof.Machine.execEnq h a eng s
  | .deq h a eng => Sys2Proof.Machine.execDeq h a eng s
  | .waitev h d a b child level => Sys2Proof.Machine.execWaitev h d a b child level s
  | .gpos h a => Sys2Proof.Machine.execGpos h a s
  | .cslive h a b => Sys2Proof.Machine.execCslive h a b s
  | .trap h imm => Sys2Proof.Machine.execTrap h imm s
  | .eret h => Sys2Proof.Machine.execEret h s
  | .bkpt h imm => Sys2Proof.Machine.execBkpt h imm s
  | .vadd h d a b ty mode => Sys2Proof.Machine.execVadd h d a b ty mode s
  | .vsub h d a b ty mode => Sys2Proof.Machine.execVsub h d a b ty mode s
  | .vmul h d a b ty mode => Sys2Proof.Machine.execVmul h d a b ty mode s
  | .vfma h d a b ty rnd => Sys2Proof.Machine.execVfma h d a b ty rnd s
  | .vfms h d a b ty rnd => Sys2Proof.Machine.execVfms h d a b ty rnd s
  | .vmin h d a b ty => Sys2Proof.Machine.execVmin h d a b ty s
  | .vmax h d a b ty => Sys2Proof.Machine.execVmax h d a b ty s
  | .vabs h d a ty => Sys2Proof.Machine.execVabs h d a ty s
  | .vneg h d a ty => Sys2Proof.Machine.execVneg h d a ty s
  | .vcmp h d a b ty cond => Sys2Proof.Machine.execVcmp h d a b ty cond s
  | .vsel h d a b c ty => Sys2Proof.Machine.execVsel h d a b c ty s
  | .vand h d a b ty => Sys2Proof.Machine.execVand h d a b ty s
  | .vor h d a b ty => Sys2Proof.Machine.execVor h d a b ty s
  | .vxor h d a b ty => Sys2Proof.Machine.execVxor h d a b ty s
  | .vnot h d a ty => Sys2Proof.Machine.execVnot h d a ty s
  | .vshl h d a b ty => Sys2Proof.Machine.execVshl h d a b ty s
  | .vshr h d a b ty => Sys2Proof.Machine.execVshr h d a b ty s
  | .vsar h d a b ty => Sys2Proof.Machine.execVsar h d a b ty s
  | .vcvt h d a ty src target rnd => Sys2Proof.Machine.execVcvt h d a ty src target rnd s
  | .vrcp h d a => Sys2Proof.Machine.execVrcp h d a s
  | .vrsq h d a => Sys2Proof.Machine.execVrsq h d a s
  | .vsqrt h d a => Sys2Proof.Machine.execVsqrt h d a s
  | .vdiv h d a b => Sys2Proof.Machine.execVdiv h d a b s
  | .vexp2 h d a => Sys2Proof.Machine.execVexp2 h d a s
  | .vlog2 h d a => Sys2Proof.Machine.execVlog2 h d a s
  | .vsin h d a => Sys2Proof.Machine.execVsin h d a s
  | .vcos h d a => Sys2Proof.Machine.execVcos h d a s
  | .vtanh h d a => Sys2Proof.Machine.execVtanh h d a s
  | .vred h d a ty op rnd => Sys2Proof.Machine.execVred h d a ty op rnd s
  | .vmaxi h d a b ty => Sys2Proof.Machine.execVmaxi h d a b ty s
  | .vscan h d a ty op rnd => Sys2Proof.Machine.execVscan h d a ty op rnd s
  | .vperm h d a b ty => Sys2Proof.Machine.execVperm h d a b ty s
  | .vbcast h d a ty => Sys2Proof.Machine.execVbcast h d a ty s
  | .vrot h d a b ty => Sys2Proof.Machine.execVrot h d a b ty s
  | .vld h d a b ty disp => Sys2Proof.Machine.execVld h d a b ty disp s
  | .vst h d a b ty disp => Sys2Proof.Machine.execVst h d a b ty disp s
  | .vlds h d a b ty => Sys2Proof.Machine.execVlds h d a b ty s
  | .vsts h d a b ty => Sys2Proof.Machine.execVsts h d a b ty s
  | .vins h d a b ty => Sys2Proof.Machine.execVins h d a b ty s
  | .vext h d a b ty => Sys2Proof.Machine.execVext h d a b ty s
  | .viota h d ty => Sys2Proof.Machine.execViota h d ty s
  | .vrngF32 h d a b => Sys2Proof.Machine.execVrngF32 h d a b s
  | .vrngU32 h d a b => Sys2Proof.Machine.execVrngU32 h d a b s
  | .mpush h a => Sys2Proof.Machine.execMpush h a s
  | .minv h => Sys2Proof.Machine.execMinv h s
  | .mpop h => Sys2Proof.Machine.execMpop h s
  | .vbrz h a tgt => Sys2Proof.Machine.execVbrz h a tgt s
  | .vheap h a b => Sys2Proof.Machine.execVheap h a b s
  | .vheapr h d a => Sys2Proof.Machine.execVheapr h d a s
  | .vheapc h => Sys2Proof.Machine.execVheapc h s
  | .vpopc h d a ty => Sys2Proof.Machine.execVpopc h d a ty s
  | .vmovm h d a ty exp => Sys2Proof.Machine.execVmovm h d a ty exp s
  | .mma h d a b => Sys2Proof.Machine.execMma h d a b s
  | .mmas h d a b => Sys2Proof.Machine.execMmas h d a b s
  | .mzero h d => Sys2Proof.Machine.execMzero h d s
  | .mlda h d a => Sys2Proof.Machine.execMlda h d a s
  | .msta h d a => Sys2Proof.Machine.execMsta h d a s
  | .mcvt h d a i32 target rnd => Sys2Proof.Machine.execMcvt h d a i32 target rnd s
  | .mbias h d a => Sys2Proof.Machine.execMbias h d a s
  | .mprg h d fn => Sys2Proof.Machine.execMprg h d fn s
  | .xmov h d a => Sys2Proof.Machine.execXmov h d a s
  | .xmovs h d a rnd => Sys2Proof.Machine.execXmovs h d a rnd s
  | .xgath h d a b => Sys2Proof.Machine.execXgath h d a b s
  | .xscat h d a b => Sys2Proof.Machine.execXscat h d a b s
  | .xunpk h d a => Sys2Proof.Machine.execXunpk h d a s
  | .xfill h d a => Sys2Proof.Machine.execXfill h d a s
  | .xhash h d a b => Sys2Proof.Machine.execXhash h d a b s
  | .xapp h a b => Sys2Proof.Machine.execXapp h a b s
  | .xqry h d fn => Sys2Proof.Machine.execXqry h d fn s
  | .sframe h d a b => Sys2Proof.Machine.execSframe h d a b s
  | .scommit h d a b => Sys2Proof.Machine.execScommit h d a b s
  | .strunc h a b => Sys2Proof.Machine.execStrunc h a b s
  | .scur h d a fn => Sys2Proof.Machine.execScur h d a fn s
  | .sckpt h a b => Sys2Proof.Machine.execSckpt h a b s
  | .specb h a b fn => Sys2Proof.Machine.execSpecb h a b fn s
  | .acmp h d => Sys2Proof.Machine.execAcmp h d s
  | .spece h => Sys2Proof.Machine.execSpece h s
  | .specx h => Sys2Proof.Machine.execSpecx h s
  | .pfxq h d a b => Sys2Proof.Machine.execPfxq h d a b s
  | .pfxi h a => Sys2Proof.Machine.execPfxi h a s
  | .pfxpin h a => Sys2Proof.Machine.execPfxpin h a s
  | .pfxrel h a => Sys2Proof.Machine.execPfxrel h a s
  | .dqsend h a b => Sys2Proof.Machine.execDqsend h a b s
  | .dqrecv h d a b => Sys2Proof.Machine.execDqrecv h d a b s
  | .cred h a fn => Sys2Proof.Machine.execCred h a fn s
  | .cbcst h a => Sys2Proof.Machine.execCbcst h a s
  | .cgath h a => Sys2Proof.Machine.execCgath h a s
  | .siphq h a b => Sys2Proof.Machine.execSiphq h a b s
  | .segwt h a => Sys2Proof.Machine.execSegwt h a s
  | .maskw h a b => Sys2Proof.Machine.execMaskw h a b s
  | .encodingTrap t => Sys2Proof.Machine.execEncodingTrap t s
  | .vResultLand u => Sys2Proof.Machine.execVResultLand u s
  | .mRetire u => Sys2Proof.Machine.execMRetire u s
  | .xCommandRetire u => Sys2Proof.Machine.execXCommandRetire u s
  | .asyncTrapTake u => Sys2Proof.Machine.execAsyncTrapTake u s
  | .parkRetry u stream k => Sys2Proof.Machine.execParkRetry u stream k s
  | .pageWalk u stream va fill => Sys2Proof.Machine.execPageWalk u stream va fill s
  | .walkerInvalidateRange die k => Sys2Proof.Machine.execWalkerInvalidateRange die k s
  | .walkerInvalidateHandle die k => Sys2Proof.Machine.execWalkerInvalidateHandle die k s
  | .walkerInvalidateAll die k => Sys2Proof.Machine.execWalkerInvalidateAll die k s
  | .egressReply die k => Sys2Proof.Machine.execEgressReply die k s
  | .egressStreamSend rec n => Sys2Proof.Machine.execEgressStreamSend rec n s
  | .collectiveReduce die k => Sys2Proof.Machine.execCollectiveReduce die k s
  | .collectiveBroadcast die k => Sys2Proof.Machine.execCollectiveBroadcast die k s
  | .collectiveGather die k => Sys2Proof.Machine.execCollectiveGather die k s
  | .collectiveComplete group ordinal => Sys2Proof.Machine.execCollectiveComplete group ordinal s
  | .siphonQuery die k => Sys2Proof.Machine.execSiphonQuery die k s
  | .siphonUrge die k => Sys2Proof.Machine.execSiphonUrge die k s
  | .siphonFetch die frame => Sys2Proof.Machine.execSiphonFetch die frame s
  | .segmentCheck die frame data => Sys2Proof.Machine.execSegmentCheck die frame data s
  | .siphonSourceTimeout die frame => Sys2Proof.Machine.execSiphonSourceTimeout die frame s
  | .serviceRequestFrame port frame => Sys2Proof.Machine.execServiceRequestFrame port frame s
  | .streamInputFrame port frame => Sys2Proof.Machine.execStreamInputFrame port frame s
  | .ladleBind die => Sys2Proof.Machine.execLadleBind die s
  | .boundaryTimeout launch => Sys2Proof.Machine.execBoundaryTimeout launch s
  | .sliceExpiry cell => Sys2Proof.Machine.execSliceExpiry cell s
  | .yieldTimeout cell => Sys2Proof.Machine.execYieldTimeout cell s
  | .ageExpiry handle => Sys2Proof.Machine.execAgeExpiry handle s
  | .deadlineExpiry job => Sys2Proof.Machine.execDeadlineExpiry job s
  | .rampWindow die demand temp => Sys2Proof.Machine.execRampWindow die demand temp s
  | .maskwDeadline u => Sys2Proof.Machine.execMaskwDeadline u s
  | .queueNotify vf offset value => Sys2Proof.Machine.execQueueNotify vf offset value s
  | .queueRemap handle => Sys2Proof.Machine.execQueueRemap handle s
  | .ringWrite die => Sys2Proof.Machine.execRingWrite die s
  | .coldStart faults => Sys2Proof.Machine.execColdStart faults s
  | .warmStart faults => Sys2Proof.Machine.execWarmStart faults s
  | .partitionEnable p => Sys2Proof.Machine.execPartitionEnable p s
  | .partitionDisable p => Sys2Proof.Machine.execPartitionDisable p s
  | .schedWrite p value => Sys2Proof.Machine.execSchedWrite p value s
  | .registerWrite func bar offset value => Sys2Proof.Machine.execRegisterWrite func bar offset value s
  | .walkerHostSubmit vf => Sys2Proof.Machine.execWalkerHostSubmit vf s
  | .mailboxPfMessage vf => Sys2Proof.Machine.execMailboxPfMessage vf s
  | .mailboxPfResponse vf status data => Sys2Proof.Machine.execMailboxPfResponse vf status data s
  | .ptroot func => Sys2Proof.Machine.execPtroot func s
  | .ptwrite func => Sys2Proof.Machine.execPtwrite func s
  | .keyload func => Sys2Proof.Machine.execKeyload func s
  | .keyclr func => Sys2Proof.Machine.execKeyclr func s
  | .framekey func => Sys2Proof.Machine.execFramekey func s
  | .rekey func => Sys2Proof.Machine.execRekey func s
  | .rekeyStatus func => Sys2Proof.Machine.execRekeyStatus func s
  | .attest func => Sys2Proof.Machine.execAttest func s
  | .sweepStep k => Sys2Proof.Machine.execSweepStep k s
  | .ideThresholdWrite func value => Sys2Proof.Machine.execIdeThresholdWrite func value s
  | .ideThresholdReached func sub => Sys2Proof.Machine.execIdeThresholdReached func sub s
  | .ideSubstreamStop func sub => Sys2Proof.Machine.execIdeSubstreamStop func sub s
  | .ideKeyRefresh func sub => Sys2Proof.Machine.execIdeKeyRefresh func sub s
  | .resetQueue handle => Sys2Proof.Machine.execResetQueue handle s
  | .resetMicrocontext target => Sys2Proof.Machine.execResetMicrocontext target s
  | .resetEngine target => Sys2Proof.Machine.execResetEngine target s
  | .resetPartition p => Sys2Proof.Machine.execResetPartition p s
  | .rungTimeout k => Sys2Proof.Machine.execRungTimeout k s
  | .fenceCluster die cluster => Sys2Proof.Machine.execFenceCluster die cluster s
  | .fenceStack die stack => Sys2Proof.Machine.execFenceStack die stack s
  | .jalcenSwitchPoint die => Sys2Proof.Machine.execJalcenSwitchPoint die s
  | .recalSlice die passes => Sys2Proof.Machine.execRecalSlice die passes s
  | .telemetryRefresh die temp power => Sys2Proof.Machine.execTelemetryRefresh die temp power s
  | .peerPacketReceive port headers body => Sys2Proof.Machine.execPeerPacketReceive port headers body s
  | .hello peer => Sys2Proof.Machine.execHello peer s
  | .ack peer => Sys2Proof.Machine.execAck peer s
  | .contrib peer => Sys2Proof.Machine.execContrib peer s
  | .segreq peer => Sys2Proof.Machine.execSegreq peer s
  | .segdata peer => Sys2Proof.Machine.execSegdata peer s
  | .segnone peer => Sys2Proof.Machine.execSegnone peer s
  | .qentry peer => Sys2Proof.Machine.execQentry peer s
  | .mkey peer => Sys2Proof.Machine.execMkey peer s
  | .mcb peer => Sys2Proof.Machine.execMcb peer s
  | .mframe peer => Sys2Proof.Machine.execMframe peer s
  | .mstream peer => Sys2Proof.Machine.execMstream peer s
  | .mdone peer => Sys2Proof.Machine.execMdone peer s
  | .mabort peer => Sys2Proof.Machine.execMabort peer s
  | .fwd peer => Sys2Proof.Machine.execFwd peer s
  | .ackTimer peer => Sys2Proof.Machine.execAckTimer peer s
  | .retransmitTimeout peer chan => Sys2Proof.Machine.execRetransmitTimeout peer chan s
  | .helloTimer peer => Sys2Proof.Machine.execHelloTimer peer s
  | .peerLoss peer => Sys2Proof.Machine.execPeerLoss peer s
  | .peerRetryTimer peer => Sys2Proof.Machine.execPeerRetryTimer peer s
  | .ucieGroupTagFail link => Sys2Proof.Machine.execUcieGroupTagFail link s
  | .ucieEpochRollover link => Sys2Proof.Machine.execUcieEpochRollover link s
  | .ethernetPortDown port => Sys2Proof.Machine.execEthernetPortDown port s
  | .ethernetPortUp port => Sys2Proof.Machine.execEthernetPortUp port s
  | .fatalError die cluster => Sys2Proof.Machine.execFatalError die cluster s
  | .hostLinkDown => Sys2Proof.Machine.execHostLinkDown s
  | .hostLinkUp => Sys2Proof.Machine.execHostLinkUp s
  | .powerLoss => Sys2Proof.Machine.execPowerLoss s
  | .cbwrite => Sys2Proof.Machine.execCbwrite s
  | .cbstate => Sys2Proof.Machine.execCbstate s
  | .copy => Sys2Proof.Machine.execCopy s
  | .srcfg => Sys2Proof.Machine.execSrcfg s
  | .segreg => Sys2Proof.Machine.execSegreg s
  | .segrel => Sys2Proof.Machine.execSegrel s
  | .segchk => Sys2Proof.Machine.execSegchk s
  | .port => Sys2Proof.Machine.execPort s
  | .resetDevice => Sys2Proof.Machine.execResetDevice s
  | .idreadIdentityKey => Sys2Proof.Machine.execIdreadIdentityKey s
  | .idreadKemKey => Sys2Proof.Machine.execIdreadKemKey s
  | .idreadCertChain => Sys2Proof.Machine.execIdreadCertChain s
  | .ringsCompletion => Sys2Proof.Machine.execRingsCompletion s
  | .ringsError => Sys2Proof.Machine.execRingsError s
  | .peercfgLocal => Sys2Proof.Machine.execPeercfgLocal s
  | .peercfgEntry => Sys2Proof.Machine.execPeercfgEntry s
  | .fwstage => Sys2Proof.Machine.execFwstage s
  | .fwswitchJalcen => Sys2Proof.Machine.execFwswitchJalcen s
  | .fwswitchLadle => Sys2Proof.Machine.execFwswitchLadle s
  | .fwswitchLid => Sys2Proof.Machine.execFwswitchLid s
  | .recal => Sys2Proof.Machine.execRecal s
  | .migrate => Sys2Proof.Machine.execMigrate s
  | .fwdend => Sys2Proof.Machine.execFwdend s

end Sys2Proof.Machine
end

