-- ==== Sys2Proof/Machine/Rounds.lean ====
section
/-! DEFINITION. Moves of streams as the agenda names them: one stream, several in one cycle (R178, R295, R311), an access of S that stays
in flight (Table 12.4), and the asynchronous causes that come before an event of a slot (R311). -/

namespace Sys2Proof.Machine

/-- A move of the stream at `cur`: the instruction that its front end brings is executed. -/
def stepStream (s : State) : Host.Outcome State Fault Refusal :=
  match s.front with
  | .stay s1 => .next s1
  | .run s1 i => exec i s1

/-- The state after a move of the stream at a cursor; a stream that cannot move leaves the state as it is. -/
def State.moved (s : State) (c : Cursor) : State :=
  match stepStream { s with cur := c } with
  | .next t => { t with cur := s.cur }
  | _ => s

/-! ### Accesses of S in flight -/

/-- The own bytes of an access of S that takes place (Table 12.4). -/
def State.reached (s : State) (kind : Access) (a : Word) (n m : Nat) : List Span :=
  match s.access s.cur kind a n m with
  | .ok _ => byteSpan s.cur.slot.cell (decide (kind ≠ .load)) a n
  | .error _ => []

/-- The footprint in the own cell store of an instruction of S that executes: loads, stores, atomics, command reads, result writes, and
the records and blocks that S reads and writes (Table 12.4). -/
def State.sFootprint (s : State) (i : Instr) : List Span :=
  let u := s.cur.slot
  let window (f : Window → List Span) : List Span := match s.here.window with
    | some w => f w
    | none => []
  match i with
  | .ld _ _ a b sz disp => s.reached .load (s.memAddr a b disp) (LoadSize.bytes sz) (LoadSize.bytes sz)
  | .lda _ _ a b sz disp _ _ => s.reached .load (s.memAddr a b disp) (LoadSize.bytes sz) (LoadSize.bytes sz)
  | .st _ _ a b sz disp => s.reached .store (s.memAddr a b disp) (StoreSize.bytes sz) (StoreSize.bytes sz)
  | .str _ _ a b sz disp _ _ => s.reached .store (s.memAddr a b disp) (StoreSize.bytes sz) (StoreSize.bytes sz)
  | .aadd _ _ a _ sz _ _ => s.reached .atomic (s.rg a) (AtomicSize.bytes sz) (AtomicSize.bytes sz)
  | .aand _ _ a _ sz _ _ => s.reached .atomic (s.rg a) (AtomicSize.bytes sz) (AtomicSize.bytes sz)
  | .aor _ _ a _ sz _ _ => s.reached .atomic (s.rg a) (AtomicSize.bytes sz) (AtomicSize.bytes sz)
  | .axor _ _ a _ sz _ _ => s.reached .atomic (s.rg a) (AtomicSize.bytes sz) (AtomicSize.bytes sz)
  | .axchg _ _ a _ sz _ _ => s.reached .atomic (s.rg a) (AtomicSize.bytes sz) (AtomicSize.bytes sz)
  | .acas _ _ a b c sz _ _ =>
    let n := AtomicSize.bytes sz
    if s.atomicWrites (s.rg a) n ((s.rg b).field 0 (8 * n)) (s.casValue c n) then s.reached .atomic (s.rg a) n n
    else (s.reached .atomic (s.rg a) n n).map (fun x => { x with write := false })
  | .amin _ _ a _ sz _ _ => s.reached .atomic (s.rg a) (MinMaxSize.bytes sz) (MinMaxSize.bytes sz)
  | .amax _ _ a _ sz _ _ => s.reached .atomic (s.rg a) (MinMaxSize.bytes sz) (MinMaxSize.bytes sz)
  | .launch _ _ a _ => s.reached .load (s.rg a) 64 64
  | .launchCont _ _ a _ => s.reached .load (s.rg a) 64 64
  | .enq _ a e => s.reached .load (s.rg a) (Engine.commandBytes e) (Engine.commandBytes e)
  | .deq _ a _ => s.reached .store (s.rg a) 16 16
  | .dqsend _ a _ => s.reached .load (s.rg a) 256 64
  | .dqrecv _ _ a _ => s.reached .store (s.rg a) 256 64
  | .pfxq _ _ a b => (match s.chainAt (s.rg a) with
    | some (n, hit) => byteSpan u.cell false (s.rg a) (16 + 16 * n) ++ (if hit.isSome then s.reached .store (s.rg b) 256 64 else [])
    | none => [])
  | .pfxi _ a => s.reached .load (s.rg a) 256 64 ++ byteSpan u.cell true (s.rg a + 24) 4
  | .cred _ a _ => s.reached .load (s.rg a) 64 64 ++ byteSpan u.cell true (s.rg a + 48) 16
  | .cbcst _ a => s.reached .load (s.rg a) 64 64 ++ byteSpan u.cell true (s.rg a + 48) 16
  | .cgath _ a => s.reached .load (s.rg a) 64 64 ++ byteSpan u.cell true (s.rg a + 48) 16
  | .specb _ _ b _ => byteSpan u.cell false (s.rg b) 3 ++ byteSpan u.cell true (s.rg b + BitVec.ofNat 64 (guessAt 0)) (s.carryShape u (s.rg b)).1
  | .acmp _ _ => window (s.acmpSpans u)
  | .spece _ => window (fun w => s.carrySpans u w (prodAt (w.accepted - 1)))
  | .specx _ => window (fun w => s.carrySpans u w (guessAt 0))
  | _ => []

/-- The register that a load of S writes (R181). -/
def loadTarget : Instr → Option Nat
  | .ld _ d _ _ _ _ => some d
  | .lda _ d _ _ _ _ _ _ => some d
  | _ => none

/-- What an instruction of S leaves in flight, if anything. -/
def State.sIssue (s : State) (i : Instr) : Option SFootprint :=
  let spans := if optAny i.hdr s.guardHolds then s.sFootprint i else []
  if spans.isEmpty then none
  else some { awaited := loadTarget i, spans := spans.map (fun x => (x.lo.toNat, (x.hi - x.lo).toNat, x.write)) }

/-- S of a slot moves: the state after, what its instruction has in flight if it has executed, and where it has posted. -/
def State.sMoves (s : State) (u : SlotId) : State × Option SFootprint × Option Stream :=
  let c : Cursor := { slot := u, stream := .s }
  match ({ s with cur := c } : State).front with
  | .stay s1 => ({ s1 with cur := s.cur }, none, none)
  | .run s1 i =>
    match exec i s1 with
    | .next t =>
      if (t.slot u).s.retired = (s1.slot u).s.retired + 1 then ({ t with cur := s.cur }, s1.sIssue i, i.hdr.bind (fun h => h.post))
      else ({ t with cur := s.cur }, none, none)
    | _ => (s, none, none)

/-- A slot with an S access more in flight. -/
def Slot.holdSpans (l : Slot) (f : Option SFootprint) : Slot := { l with sspans := l.sspans ++ f.toList }

/-- S moves, and the footprint of its instruction stays in flight; one that posts has retired by then (R20; log entry 101). -/
def State.issueLong (s : State) (u : SlotId) : State :=
  match s.sMoves u with
  | (t, f, none) => t.withSlot u (fun l => l.holdSpans f)
  | (t, _, some _) => t

/-- An S access in flight on a slot retires. -/
def State.sRetires (s : State) (u : SlotId) (k : Nat) : State := s.withSlot u (fun l => { l with sspans := l.sspans.eraseIdx k })

/-! ### Several streams in one cycle -/

/-- The results of V that are due land, ahead of V's own move in the cycle (R24), with the flags that they raise. -/
def State.landsFirst (s : State) (u : SlotId) : State × BitVec 8 :=
  if s.slotRuns u ∧ s.landingTrap u = none then
    (s.landDue u 40, ((s.slot u).vflight.filter (fun e => decide (e.offset = 0))).foldl (fun f e => f ||| e.flags) 0)
  else (s, 0)

/-- A CANCEL or DEADLINE that S itself has made due in a cycle comes after the precise traps of the other streams in it (R311): a state in
which it is kept back, and the change that brings it back. -/
def State.keepBack (s s1 : State) (u : SlotId) : State × (State → State) :=
  let l := s1.slot u
  if s1.asyncDue u ∧ !s.asyncDue u then
    (s1.withSlot u (fun l => { l with cancel := false, deadline := false }),
     fun t => if (t.slot u).bound = l.bound then
       t.withSlot u (fun k => { k with cancel := k.cancel || l.cancel, deadline := k.deadline || l.deadline }) else t)
  else (s1, id)

/-- Flags that landings raise are set in VSTAT. -/
def State.raiseFlags (s : State) (u : SlotId) (flags : BitVec 8) : State :=
  if flags = 0 then s else s.withSlot u (fun l => { l with sr := { l.sr with vflags := l.sr.vflags ||| flags } })

/-- Streams of a slot move in one cycle, in the order of their codes: the write of the higher code is applied last (R178), the trap of the
lower code is taken, a precise one before CANCEL or DEADLINE (R311), and of two accesses that race the one of the higher code traps (R295).
A stream to which S posts in this cycle issues in a later one. A flag that a landing raises is set after an MTS of another stream in the
same cycle (R178; log entry 92); V's own MTS issues after the landing and clears it. -/
def State.together (s : State) (u : SlotId) (streams : List Stream) : State :=
  let at_ (st : Stream) : Cursor := { slot := u, stream := st }
  let runs (st : Stream) : Bool := streams.contains st
  let (s1, f, posted) := if runs .s then s.sMoves u else (s, none, none)
  let n := (s1.slot u).sspans.length
  let (s2, back) := s.keepBack (s1.withSlot u (fun l => l.holdSpans f)) u
  let (s3, flags) := if runs .v ∧ !s2.asyncDue u then s2.landsFirst u else (s2, 0)
  let others (st : Stream) : Bool := runs st && decide (posted ≠ some st)
  let s4 := if others .v then s3.moved (at_ .v) else s3
  let kept := flags &&& (s4.slot u).sr.vflags
  let s5 := ([Stream.m, Stream.x].filter others).foldl (fun s st => s.moved (at_ st)) s4
  back ((s5.raiseFlags u kept).withSlot u (fun l => { l with sspans := l.sspans.take n }))

/-! ### Events of a slot -/

/-- The slot in which an event carries an instruction on. -/
def eventSlot : Instr → Option SlotId
  | .vResultLand u => some u
  | .mRetire u => some u
  | .xCommandRetire u => some u
  | .parkRetry u _ _ => some u
  | .maskwDeadline u => some u
  | _ => none

/-- An event takes place; where CANCEL or DEADLINE is due on the slot in which it would carry an instruction on, that is taken first
(R311). -/
def stepEvent (i : Instr) (s : State) : Host.Outcome State Fault Refusal :=
  match eventSlot i with
  | some u => if s.asyncDue u then .next (s.takeAsync u) else exec i s
  | none => exec i s

end Sys2Proof.Machine
end

