-- ==== Sys2Proof/Machine/Step.lean ====
section
/-! DEFINITION. One step of the machine: what the agenda names next, or, with an empty agenda, a move of the stream at `cur`. -/

namespace Sys2Proof.Machine

/-- One step. -/
def step (s : State) : Host.Outcome State Fault Refusal :=
  match s.agenda with
  | [] => stepStream s
  | a :: rest =>
    let s0 := { s with agenda := rest }
    match a with
    | .issue c => stepStream { s0 with cur := c }
    | .event i => if i.hdr.isSome then .next s0 else stepEvent i s0
    | .together u streams => .next (s0.together u streams)
    | .issueLong u => .next (s0.issueLong u)
    | .sRetires u k => .next (s0.sRetires u k)
    | a => .next (s0.act a)

/-- The state with an instruction placed where `step` fetches next: in the line of a unit bound on cell 0, in the first of the streams
S, V, M and X that takes it. -/
def State.withFetchWord (s : State) (nbits w : Nat) : State :=
  match decodeAny (tableWords nbits w) allStreams with
  | some (st, i) => s.placeWords st i (tableWords nbits w)
  | none => s.placeWords .s (.encodingTrap .op) (tableWords nbits w)

end Sys2Proof.Machine
end

