-- ==== Sys2Proof/Safety.lean ====
section
/-! DEFINITION. The terms of claims: safe runs, when an instruction can issue, and what it leaves as it was. -/

namespace Sys2Proof

open Machine

/-- A step that neither faults nor refuses. -/
def Completes (s : State) : Prop := ∃ t, step s = .next t

/-- n steps in a row, each of which completes. -/
def SafeFor : Nat → State → Prop
  | 0, _ => True
  | n + 1, s => ∃ t, step s = .next t ∧ SafeFor n t

/-- What an instruction answers. -/
abbrev Answer := Host.Outcome State Fault Refusal

/-- The state from which an instruction reads its operands: in V, the results that are due have landed (R24). -/
def landed (s : State) : State := if s.cur.stream = .v then s.landDue s.cur.slot 40 else s

/-- The stream that moves can issue an instruction with header h: a unit is bound, the token that h waits for is there and so is room
for its post (R20), V has room for a result (R211) and M has no instruction in progress (R238); in V, no landing traps (R331). -/
structure Ready (h : Hdr) (s : State) : Prop where
  bound : s.here.bound.isSome = true
  lands : s.cur.stream = .v → s.landingTrap s.cur.slot = none
  token : ∀ p, h.wait = some p → (landed s).here.tokens p s.cur.stream ≠ 0
  room : ∀ q, h.post = some q → (landed s).here.tokens s.cur.stream q + (landed s).here.reserved s.cur.stream q < 16
  results : s.cur.stream = .v → (landed s).here.vflight.length < 32
  begun : s.cur.stream = .m → s.here.mflight = none

/-- The stream has not halted, and its instruction is not the last of a line with LAST set: it goes on after it (R105, R206). -/
structure Onward (h : Hdr) (s : State) : Prop where
  running : s.me.halted = false
  more : wordIndex s.me.pc + h.words < s.me.line.count ∨ s.me.line.last = false

/-- The token counts of a slot after an instruction of a stream with header h (R20): one token popped, one posted. -/
def TokensMoved (h : Hdr) (st : Stream) (l k : Slot) : Prop :=
  ∀ p c, k.tokens p c = l.tokens p c - (if h.wait = some p ∧ c = st then 1 else 0) + (if h.post = some c ∧ p = st then 1 else 0)

/-- What an instruction of the stream that moves leaves as it was when it changes no more than its own stream and the tokens: every
byte of memory, every other slot, every tile, every other part of its slot (other streams, special registers, mask stack, heap, window,
attached record), and every other part of the machine. -/
structure OnlyStream (s t : State) : Prop where
  machine : t = { s with cells := t.cells }
  memory : ∀ a, Memory.byte t.mem a = Memory.byte s.mem a
  slots : ∀ u, u ≠ s.cur.slot → t.slot u = s.slot u
  tiles : ∀ c n, (t.cell c).tile n = (s.cell c).tile n
  slot : t.here = { s.here.withStream s.cur.stream (fun _ => t.me) with fifo := t.here.fifo }

/-- The registers of a stream in one state as in another, but for those that `g`, `q`, `l` and `e` answer. -/
structure Registers (x y : StreamSt) (g : Nat → Option Word) (q : Nat → Option Bool) (l : Nat → Option (BitVec 32))
    (e : Nat → Option Word) : Prop where
  gs : ∀ n, y.gReg n = (g n).getD (x.gReg n)
  qs : ∀ n, y.qReg n = (q n).getD (x.qReg n)
  vqs : ∀ n, y.vqReg n = x.vqReg n
  ls : ∀ n, y.lReg n = (l n).getD (x.lReg n)
  es : ∀ n, y.eReg n = (e n).getD (x.eReg n)

/-- No register. -/
def noReg {α : Type} : Nat → Option α := fun _ => none

/-- One register of a file whose register 0 is fixed: a write of register 0 is discarded (R25, R26). -/
def oneReg {α : Type} (d : Nat) (v : α) : Nat → Option α := fun n => if n = d ∧ d ≠ 0 then some v else none

/-- One register of a file without a fixed register. -/
def anyReg {α : Type} (d : Nat) (v : α) : Nat → Option α := fun n => if n = d then some v else none

/-- An instruction of S, M or X that has retired and moved on: program counter past it or at the line of the link (R105), sequence
number one higher (R17), tokens moved (R20), the stream still running in its mode. -/
structure Advanced (h : Hdr) (s t : State) : Prop where
  pc : t.me.pc = if wordIndex s.me.pc + h.words < s.me.line.count then s.me.pc + 4 * h.words else s.me.line.nextPc
  retired : t.me.retired = s.me.retired + 1
  running : t.me.halted = false
  mode : t.me.sup = s.me.sup
  tokens : TokensMoved h s.cur.stream s.here t.here

/-- An instruction of S, M or X that has retired, moved on, and changed no more than registers of its own stream. -/
structure Stepped (h : Hdr) (s t : State) : Prop where
  only : OnlyStream s t
  moved : Advanced h s t

/-- The answer of an S, M or X instruction whose one result goes to g[d]. -/
def WritesG (o : Answer) (h : Hdr) (s : State) (d : Nat) (v : Word) : Prop :=
  ∃ t, o = .next t ∧ Stepped h s t ∧ Registers s.me t.me (oneReg d v) noReg noReg noReg

/-- The answer of an S, M or X instruction whose one result goes to q[d]. -/
def WritesQ (o : Answer) (h : Hdr) (s : State) (d : Nat) (v : Bool) : Prop :=
  ∃ t, o = .next t ∧ Stepped h s t ∧ Registers s.me t.me noReg (oneReg d v) noReg noReg

/-- A V instruction that has issued from a state r, in which the results due have landed, its token is popped and its tiles are taken:
every result in flight has one beat less and those of this instruction join them (R24, R210); the stream moves on (R105); no byte of
memory, no tile, no other slot, no register, no other part of the slot and of the machine changes. -/
structure VIssued (h : Hdr) (r t : State) (es : List VEntry) : Prop where
  machine : t = { r with cells := t.cells }
  memory : ∀ a, Memory.byte t.mem a = Memory.byte r.mem a
  slots : ∀ u, u ≠ r.cur.slot → t.slot u = r.slot u
  tiles : ∀ c n, (t.cell c).tile n = (r.cell c).tile n
  flight : t.here.vflight = r.here.vflight.map (fun e => { e with offset := e.offset - 1 }) ++ es
  slot : t.here = { r.here with v := t.here.v, vflight := t.here.vflight }
  pc : t.me.pc = if wordIndex r.me.pc + h.words < r.me.line.count then r.me.pc + 4 * h.words else r.me.line.nextPc
  regs : Registers r.me t.me noReg noReg noReg noReg

/-- The state from which an instruction that issues has its effect: the results due have landed and its token is popped (R20, R24). -/
def begun (h : Hdr) (s : State) : State := (landed s).popToken h

/-- The answer of a vector instruction that reads and writes some v registers and whose result e lands after a latency: where the
checks of its registers (R331, R296, R239) and of its footprint (R295) pass, it enters flight. -/
def Lands (o : Answer) (h : Hdr) (s : State) (reads dests : List Nat) (e : VEntry) (latency : Nat) : Prop :=
  ∀ s1, (begun h s).vRows reads dests (decide (e.mask ≠ 0)) = .ok s1 → s1.cellRace s1.cur e.spans = none →
    ∃ t, o = .next t ∧
      VIssued h s1 t [{ e with offset := latency - 1, post := h.post
                               reads := rowSet (if decide (e.mask ≠ 0) then reads else reads ++ dests) }]

/-- A result for g[d] of V in flight (R213, R320): it lands in the next beat. -/
def gResult (h : Hdr) (d : Nat) (v : Word) : VEntry :=
  { VEntry.bare with kind := .greg, dest := d, data := BitVec.ofNat 1024 v.toNat, post := h.post }

/-- A 128-bit result for predicate d of V in flight. -/
def qResult (h : Hdr) (d : Nat) (v : Mask) : VEntry :=
  { VEntry.bare with kind := .qreg, dest := d, data := BitVec.ofNat 1024 v.toNat, mask := Mask.full, post := h.post }

/-- The answer, in each stream, of an instruction that runs in every stream and writes g[d] (R17, R213). -/
def ResultG (o : Answer) (h : Hdr) (s : State) (d : Nat) (v : Word) : Prop :=
  (s.cur.stream ≠ .v → WritesG o h s d v) ∧ (s.cur.stream = .v → ∃ t, o = .next t ∧ VIssued h (begun h s) t [gResult h d v])

/-- The answer, in each stream, of an instruction that writes one bit to q[d]: in V all 128 bits take it (R125). -/
def ResultQ (o : Answer) (h : Hdr) (s : State) (d : Nat) (v : Bool) : Prop :=
  (s.cur.stream ≠ .v → WritesQ o h s d v) ∧
  (s.cur.stream = .v → ∃ t, o = .next t ∧ VIssued h (begun h s) t [qResult h d (if v then Mask.full else 0)])

/-- The conditions on which an instruction with a whole guard has its effect (R20, R119). -/
structure Issues (h : Hdr) (s : State) : Prop where
  ready : Ready h s
  onward : Onward h (landed s)
  guard : (landed s).guardHolds h = true

/-- The conditions on which a vector instruction enters flight: it can issue, in V, and goes on (R211, R212). -/
structure VectorIssues (h : Hdr) (s : State) : Prop where
  ready : Ready h s
  vector : s.cur.stream = .v
  onward : Onward h (landed s)

/-- The elements of n that a vector instruction may write: guard bit, after SENSE, and the top of the mask stack (R27, R209). -/
def Allowed (h : Hdr) (s : State) (n : Nat) (mask : Mask) : Prop :=
  ∀ i, i < 128 → mask.getLsbD i =
    (decide (i < n) && ((begun h s).here.v.vqReg h.guard).getLsbD i != h.sense && (begun h s).here.maskTop.getLsbD i)

/-- A result for the allowed elements of v[d], of width w, each by a function, with the flags these raise (R210, R213, R215). -/
structure LaneResult (e : VEntry) (w d : Nat) (sto : Bool) (f : Nat → Nat × Flags) : Prop where
  kind : e.kind = .vreg
  dest : e.dest = d
  width : e.width = w / 8
  data : ∀ i, i < 1024 / w → e.mask.getLsbD i = true → e.data.elem w i = (f i).1 % 2 ^ w
  flags : e.flags = (Flags.joinAll ((List.range (1024 / w)).map (fun i => if e.mask.getLsbD i then (f i).2 else Flags.none))).bits
  sto : e.stoinc = sto

/-- The answer of a vector instruction that writes elements of v[d], each by a function. -/
def VectorResult (o : Answer) (h : Hdr) (s : State) (w d : Nat) (reads : List Nat) (latency : Nat) (sto : Bool) (f : Nat → Nat × Flags) : Prop :=
  ∃ e, Lands o h s reads [d] e latency ∧ Allowed h s (1024 / w) e.mask ∧ LaneResult e w d sto f

/-- The entry in flight that carries the post of a V instruction without a result (R17). -/
def postEntry (h : Hdr) : List VEntry :=
  match h.post with
  | some p => [{ VEntry.bare with post := some p }]
  | none => []

/-- The answer of a V instruction that changes its slot by f at issue and has no result. -/
def ChangesSlot (o : Answer) (h : Hdr) (s : State) (f : Slot → Slot) : Prop :=
  ∃ t, o = .next t ∧ VIssued h ((begun h s).withHere f) t (postEntry h)

/-- The answer of an instruction that changes its slot by f, apart from streams and tokens, retires and goes on, in every stream. -/
def Changes (o : Answer) (h : Hdr) (s : State) (f : Slot → Slot) : Prop :=
  (s.cur.stream ≠ .v → ∃ t, o = .next t ∧ OnlyStream (s.withHere f) t ∧ Advanced h s t ∧ Registers s.me t.me noReg noReg noReg noReg) ∧
  (s.cur.stream = .v → ChangesSlot o h s f)

/-- The answer of an S, M or X instruction that makes a state r from the state before it, but for its stream and tokens, retires and goes on
with the registers given. -/
def Makes (o : Answer) (h : Hdr) (s r : State) (g : Nat → Option Word) (q : Nat → Option Bool) : Prop :=
  ∃ t, o = .next t ∧ OnlyStream r t ∧ Advanced h s t ∧ Registers s.me t.me g q noReg noReg

/-- A stream that has taken a branch to a code address in a line (R109, R170), from the state r in which it issued: nothing changes but its
own stream, tokens, and in V the beats of the results in flight. -/
structure Jumped (h : Hdr) (r t : State) (pc : Nat) (l : Line) : Prop where
  machine : t = { r with cells := t.cells }
  memory : ∀ a, Memory.byte t.mem a = Memory.byte r.mem a
  slots : ∀ u, u ≠ r.cur.slot → t.slot u = r.slot u
  tiles : ∀ c n, (t.cell c).tile n = (r.cell c).tile n
  slot : t.here = { r.here.withStream r.cur.stream (fun _ => t.me) with fifo := t.here.fifo, vflight := t.here.vflight }
  flight : t.here.vflight = if r.cur.stream = .v then r.here.vflight.map (fun e => { e with offset := e.offset - 1 }) ++ postEntry h
    else r.here.vflight
  pc : t.me.pc = pc
  line : t.me.line = l ∧ t.me.entry = .inLine ∧ t.me.ahead = []
  running : t.me.halted = r.me.halted ∧ t.me.sup = r.me.sup

/-- The code address of the instruction that follows in program order, as CALL and CALLR write it (R172). -/
def linkOf (h : Hdr) (x : StreamSt) : Word :=
  BitVec.ofNat 64 (if wordIndex x.pc + h.words < x.line.count then x.line.va + 4 + 4 * (wordIndex x.pc + h.words)
    else if x.line.last then 0 else x.line.nextPc)

/-- The stream that moves takes a trap, precisely, from the state before its instruction popped a token (R316). -/
def trapped (s : State) (t : TrapInfo) : State := (landed s).takeTrap s.cur.slot s.cur.stream t TrapMode.precise

/-- The moving stream's trap of a cause is taken at once: no Jalcen switch holds it back (R312), and no window defers it (R279). -/
structure TrapsAtOnce (s : State) (t : TrapInfo) : Prop where
  notHeld : (landed s).trapHeld s.cur.slot s.cur.stream t.cause = false
  notDeferred : (landed s).defers t = false
  notPoison : t.cause ≠ causePoison

/-- What a memory access by S leaves as it was: every other slot, every tile, every part of its slot but its own stream and tokens, and
every part of the machine but memory, its marks of uncorrectable errors, the claims of the barrier-interval discipline (R298) and the count
of refused accesses (R404). -/
structure AccessFrame (h : Hdr) (s t : State) : Prop where
  machine : t = { s with cells := t.cells, mem := t.mem, upsets := t.upsets, claims := t.claims, refused := t.refused }
  slots : ∀ u, u ≠ s.cur.slot → t.slot u = s.slot u
  tiles : ∀ c n, (t.cell c).tile n = (s.cell c).tile n
  slot : t.here = { s.here.withStream s.cur.stream (fun _ => t.me) with fifo := t.here.fifo }
  moved : Advanced h s t

/-- The answer of a load of S that reaches byte number k of the stores: v goes to g[d], and no byte of memory changes. -/
def Loads (o : Answer) (h : Hdr) (s : State) (d : Nat) (v : Word) : Prop :=
  ∃ t, o = .next t ∧ AccessFrame h s t ∧ (∀ x, Memory.byte t.mem x = Memory.byte s.mem x) ∧ Registers s.me t.me (oneReg d v) noReg noReg noReg

/-- The bytes of memory after a store of n bytes of v, lowest first, at byte number k: a line whose slot holds no key ignores it (R404). -/
def Stored (s t : State) (k n v : Nat) : Prop :=
  (∀ x, x < k ∨ k + n ≤ x → Memory.byte t.mem x = Memory.byte s.mem x) ∧
  (∀ i, i < n → Memory.byte t.mem (k + i) = if s.keyed k then BitVec.ofNat 8 (v / 2 ^ (8 * i)) else Memory.byte s.mem (k + i))

/-- The value that a load of n bytes gives (R129): bytes lowest first, extended by sign or by zeros. -/
def loadedWord (s : State) (k n : Nat) (sgn : Bool) : Word :=
  let v := natOf (s.load k n)
  if sgn ∧ 2 ^ (8 * n - 1) ≤ v then BitVec.ofInt 64 ((v : Int) - 2 ^ (8 * n)) else BitVec.ofNat 64 v

/-- An instruction makes a state r, retires from it and its stream moves on; a unit all of whose streams have halted ends (R17, R18). -/
def Retires (o : Answer) (h : Hdr) (s r : State) : Prop := o = .next (((r.retire h).moveOn h).settleUnit s.cur.slot)

end Sys2Proof
end

