-- ==== Sys2Proof/Certificates/Slice0/Obligations.lean ====
section
/-! DEFINITION. The statements about the machine, one definition for each, in the terms of Sys2Proof/Safety.lean. -/

section Claims

open Sys2Proof Sys2Proof.Machine

/-! ### Integer, logic, shift, field and predicate instructions (ch. 7) -/

/-- R158: the results of Table 7.1, in every stream: at once in S, M and X, as a result in flight in V. -/
def Obligations.IntegerArithmetic : Prop :=
  ∀ (h : Hdr) (d a b : Nat) (imm : Int) (s : State), Issues h s →
    let x := (landed s).rg a
    let y := (landed s).rg b
    ResultG (exec (.add h d a b) s) h s d (x + y) ∧
    ResultG (exec (.addi h d a imm) s) h s d (x + BitVec.ofInt 64 imm) ∧
    ResultG (exec (.sub h d a b) s) h s d (x - y) ∧
    ResultG (exec (.mul h d a b) s) h s d (x * y) ∧
    ResultG (exec (.mulhs h d a b) s) h s d (BitVec.ofInt 64 (x.toInt * y.toInt / 2 ^ 64)) ∧
    ResultG (exec (.mulhu h d a b) s) h s d (BitVec.ofNat 64 (x.toNat * y.toNat / 2 ^ 64))

/-- R159: division by 0 answers all ones and leaves the dividend as the remainder; −2^63 by −1 wraps; no case traps. -/
def Obligations.Division : Prop :=
  ∀ (h : Hdr) (d a b : Nat) (s : State), Issues h s →
    let x := (landed s).rg a
    let y := (landed s).rg b
    (y = 0 →
      ResultG (exec (.divs h d a b) s) h s d (BitVec.allOnes 64) ∧ ResultG (exec (.divu h d a b) s) h s d (BitVec.allOnes 64) ∧
      ResultG (exec (.rems h d a b) s) h s d x ∧ ResultG (exec (.remu h d a b) s) h s d x) ∧
    (y ≠ 0 →
      ResultG (exec (.divs h d a b) s) h s d (BitVec.ofInt 64 (x.toInt.tdiv y.toInt)) ∧
      ResultG (exec (.rems h d a b) s) h s d (BitVec.ofInt 64 (x.toInt - x.toInt.tdiv y.toInt * y.toInt)) ∧
      ResultG (exec (.divu h d a b) s) h s d (BitVec.ofNat 64 (x.toNat / y.toNat)) ∧
      ResultG (exec (.remu h d a b) s) h s d (BitVec.ofNat 64 (x.toNat - x.toNat / y.toNat * y.toNat))) ∧
    (x = BitVec.intMin 64 ∧ y = BitVec.allOnes 64 →
      ResultG (exec (.divs h d a b) s) h s d (BitVec.intMin 64) ∧ ResultG (exec (.rems h d a b) s) h s d 0)

/-- R160, R161: logic bit by bit, and shifts by the whole amount, whose right shift of a signed number is a division that rounds down. -/
def Obligations.LogicAndShifts : Prop :=
  ∀ (h : Hdr) (d a b n : Nat) (imm : Int) (s : State), Issues h s → n < 2 ^ 64 →
    let x := (landed s).rg a
    let y := (landed s).rg b
    ResultG (exec (.and_ h d a b) s) h s d (x &&& y) ∧
    ResultG (exec (.andi h d a imm) s) h s d (x &&& BitVec.ofInt 64 imm) ∧
    ResultG (exec (.or_ h d a b) s) h s d (x ||| y) ∧
    ResultG (exec (.ori h d a imm) s) h s d (x ||| BitVec.ofInt 64 imm) ∧
    ResultG (exec (.xor_ h d a b) s) h s d (x ^^^ y) ∧
    ResultG (exec (.xori h d a imm) s) h s d (x ^^^ BitVec.ofInt 64 imm) ∧
    ResultG (exec (.andn h d a b) s) h s d (x &&& ~~~ y) ∧
    ResultG (exec (.shl h d a b) s) h s d (BitVec.ofNat 64 (x.toNat * 2 ^ y.toNat)) ∧
    ResultG (exec (.shli h d a n) s) h s d (BitVec.ofNat 64 (x.toNat * 2 ^ n)) ∧
    ResultG (exec (.shr h d a b) s) h s d (BitVec.ofNat 64 (x.toNat / 2 ^ y.toNat)) ∧
    ResultG (exec (.shri h d a n) s) h s d (BitVec.ofNat 64 (x.toNat / 2 ^ n)) ∧
    ResultG (exec (.sar h d a b) s) h s d (BitVec.ofInt 64 (x.toInt / 2 ^ y.toNat)) ∧
    ResultG (exec (.sari h d a n) s) h s d (BitVec.ofInt 64 (x.toInt / 2 ^ n)) ∧
    ResultG (exec (.rol h d a b) s) h s d (x.rotateLeft (y.toNat % 64)) ∧
    ResultG (exec (.ror h d a b) s) h s d (x.rotateRight (y.toNat % 64))

/-- R162: the counts are those of the bits, and BREV answers bit 63 − i of its operand at bit i. -/
def BitCountsClauses : Prop :=
  ∀ (h : Hdr) (d a : Nat) (s : State), Issues h s →
    let x := (landed s).rg a
    (∃ n, ResultG (exec (.clz h d a) s) h s d (BitVec.ofNat 64 n) ∧ n ≤ 64 ∧ (∀ i, i < n → x.getLsbD (63 - i) = false) ∧
      (n < 64 → x.getLsbD (63 - n) = true)) ∧
    (∃ n, ResultG (exec (.ctz h d a) s) h s d (BitVec.ofNat 64 n) ∧ n ≤ 64 ∧ (∀ i, i < n → x.getLsbD i = false) ∧
      (n < 64 → x.getLsbD n = true)) ∧
    ResultG (exec (.popc h d a) s) h s d (BitVec.ofNat 64 ((List.range 64).countP (fun i => x.getLsbD i))) ∧
    (∃ v, ResultG (exec (.brev h d a) s) h s d v ∧ ∀ i, i < 64 → v.getLsbD i = x.getLsbD (63 - i))

/-- R163: the field of offset o and width w, cut at bit 63, and a field replaced in the destination; BFI of an empty field writes
nothing. -/
def BitFieldsClauses : Prop :=
  ∀ (h : Hdr) (d a : Nat) (src : FieldSrc) (s : State), Issues h s →
    let x := (landed s).rg a
    let o := match src with
      | .regs b _ => ((landed s).rg b).toNat
      | .imm off _ => off
    let w := match src with
      | .regs _ c => ((landed s).rg c).toNat
      | .imm _ wid => wid
    let k := if 64 ≤ o then 0 else min w (64 - o)
    (∃ v, ResultG (exec (.bfx h d a src) s) h s d v ∧ ∀ i, i < 64 → v.getLsbD i = (decide (i < k) && x.getLsbD (o + i))) ∧
    (∃ v, ResultG (exec (.bfxs h d a src) s) h s d v ∧
      ∀ i, i < 64 → v.getLsbD i = (decide (k ≠ 0) && x.getLsbD (o + min i (k - 1)))) ∧
    (k ≠ 0 → ∃ v, ResultG (exec (.bfi h d a src) s) h s d v ∧
      ∀ i, i < 64 → v.getLsbD i = if o ≤ i ∧ i < o + k then x.getLsbD (i - o) else ((landed s).rg d).getLsbD i) ∧
    (k = 0 → Changes (exec (.bfi h d a src) s) h s id)

/-- R162 and R163, together. -/
def Obligations.BitCountsAndFields : Prop := BitCountsClauses ∧ BitFieldsClauses

/-- R164, R166, R167: the lesser and the greater, selection by a predicate, literals, and scaled sums. -/
def SelectionAndLiteralsClauses : Prop :=
  ∀ (h : Hdr) (d a b c n : Nat) (imm : Int) (s : State), Issues h s →
    let x := (landed s).rg a
    let y := (landed s).rg b
    ResultG (exec (.mins h d a b) s) h s d (BitVec.ofInt 64 (min x.toInt y.toInt)) ∧
    ResultG (exec (.minu h d a b) s) h s d (BitVec.ofNat 64 (min x.toNat y.toNat)) ∧
    ResultG (exec (.maxs h d a b) s) h s d (BitVec.ofInt 64 (max x.toInt y.toInt)) ∧
    ResultG (exec (.maxu h d a b) s) h s d (BitVec.ofNat 64 (max x.toNat y.toNat)) ∧
    ResultG (exec (.sel h d a b c) s) h s d (if (landed s).rq c then x else y) ∧
    ResultG (exec (.li h d imm) s) h s d (BitVec.ofInt 64 imm) ∧
    ResultG (exec (.lih h d imm) s) h s d
      (BitVec.ofNat 64 (((landed s).rg d).toNat % 2 ^ 32 + (imm % 2 ^ 32).toNat * 2 ^ 32)) ∧
    ResultG (exec (.lea h d a b n) s) h s d (BitVec.ofNat 64 (x.toNat + y.toNat * 2 ^ n))

/-- V has issued an instruction that writes an l or e register as it issues (log entry 7). -/
def VWrites (o : Answer) (h : Hdr) (s : State) (l : Nat → Option (BitVec 32)) (e : Nat → Option Word) : Prop :=
  ∃ t r, o = .next t ∧ VIssued h r t (postEntry h) ∧ r = (begun h s).withHere (fun k => { k with v := r.here.v }) ∧
    r.here.v = { (begun h s).here.v with l := r.here.v.l, e := r.here.v.e } ∧ Registers (begun h s).here.v r.here.v noReg noReg l e

/-- R165 and R125: MOV between g registers, predicates, l and e registers; in V, fn 1 moves all 128 bits of a predicate. -/
def MovesClauses : Prop :=
  ∀ (h : Hdr) (d a : Nat) (s : State), Issues h s →
    ResultG (exec (.mov h d a .gg) s) h s d ((landed s).rg a) ∧
    ResultG (exec (.mov h d a .gl) s) h s d (((landed s).me.lReg a).zeroExtend 64) ∧
    ResultG (exec (.mov h d a .ge) s) h s d ((landed s).me.eReg a) ∧
    (s.cur.stream ≠ .v →
      WritesQ (exec (.mov h d a .qq) s) h s d (s.me.qReg a) ∧
      (∃ t, exec (.mov h d a .lg) s = .next t ∧ Stepped h s t ∧
        Registers s.me t.me noReg noReg (anyReg d (BitVec.ofNat 32 (s.rg a).toNat)) noReg) ∧
      (∃ t, exec (.mov h d a .eg) s = .next t ∧ Stepped h s t ∧ Registers s.me t.me noReg noReg noReg (anyReg d (s.rg a)))) ∧
    (s.cur.stream = .v →
      (∃ t, exec (.mov h d a .qq) s = .next t ∧ VIssued h (begun h s) t [qResult h d ((landed s).me.vqReg a)]) ∧
      VWrites (exec (.mov h d a .lg) s) h s (anyReg d (BitVec.ofNat 32 ((landed s).rg a).toNat)) noReg ∧
      VWrites (exec (.mov h d a .eg) s) h s noReg (anyReg d ((landed s).rg a)))

/-- R164 to R167, together. That bit 0 of the guard and of the mask top decides for all 128 bits of MOV fn 1 in V is the model's choice, log
entry 90, and that V writes l and e registers as it issues is its reading, log entry 7. -/
def Obligations.SelectionLiteralsAndMoves : Prop := SelectionAndLiteralsClauses ∧ MovesClauses

/-- The conditions of Table 5.3. -/
def condMeans : Cond → Word → Word → Prop
  | .eq, x, y => x = y
  | .ne, x, y => x ≠ y
  | .lt, x, y => x.toInt < y.toInt
  | .le, x, y => x.toInt ≤ y.toInt
  | .gt, x, y => y.toInt < x.toInt
  | .ge, x, y => y.toInt ≤ x.toInt
  | .ltu, x, y => x.toNat < y.toNat
  | .leu, x, y => x.toNat ≤ y.toNat
  | .gtu, x, y => y.toNat < x.toNat
  | .geu, x, y => y.toNat ≤ x.toNat
  | .tst, x, y => x &&& y ≠ 0
  | .ntst, x, y => x &&& y = 0

/-- R168: a comparison writes 1 exactly if its condition holds. -/
def ComparisonClauses : Prop :=
  ∀ (h : Hdr) (d a b : Nat) (imm : Int) (c : Cond) (s : State), Issues h s →
    let x := (landed s).rg a
    (∃ v, ResultQ (exec (.cmp h d a b c) s) h s d v ∧ (v = true ↔ condMeans c x ((landed s).rg b))) ∧
    (∃ v, ResultQ (exec (.cmpi h d a imm c) s) h s d v ∧ (v = true ↔ condMeans c x (BitVec.ofInt 64 imm)))

/-- R169: bit 2 × q[a] + q[b] of the truth table; in V for each of the 128 bits. -/
def PredicateLogicClauses : Prop :=
  ∀ (h : Hdr) (d a b f : Nat) (s : State), Issues h s → f < 16 →
    (s.cur.stream ≠ .v →
      WritesQ (exec (.plog h d a b f) s) h s d (Nat.testBit f (2 * (s.me.qReg a).toNat + (s.me.qReg b).toNat))) ∧
    (s.cur.stream = .v → ∃ t v, exec (.plog h d a b f) s = .next t ∧ VIssued h (begun h s) t [qResult h d v] ∧
      ∀ i, i < 128 → v.getLsbD i =
        Nat.testBit f (2 * (((landed s).me.vqReg a).getLsbD i).toNat + (((landed s).me.vqReg b).getLsbD i).toNat))

/-- R168 and R169, together. That bit 0 of the guard and of the mask top decides for all 128 bits of PLOG in V is the model's choice: log
entry 90. -/
def Obligations.PredicateResults : Prop := ComparisonClauses ∧ PredicateLogicClauses

/-! ### Vector instructions (ch. 9) -/

/-- Whether a value is finite. -/
def isFinite (v : FVal) : Prop := ∃ neg m e, v = .fin neg m e

/-- A finite value in units of 2^lsb, for lsb at most its exponent. -/
def unitsOf (lsb : Int) : FVal → Int
  | .fin neg m e => scaledInt neg m e lsb
  | _ => 0

/-- The exponent of the last bit of a value. -/
def lastBit : FVal → Int
  | .fin _ _ e => e
  | _ => 0

/-- The order of the values that are numbers: −∞ below the finite ones, these below ∞, and −0 equal to +0. -/
def valueLt : FVal → FVal → Prop
  | .inf true, .inf b => b = false
  | .inf true, .fin _ _ _ => True
  | .fin _ _ _, .inf b => b = false
  | .fin a m e, .fin b n g => unitsOf (min e g) (.fin a m e) < unitsOf (min e g) (.fin b n g)
  | _, _ => False

/-- Two numbers that differ by less than one part in 2^60. -/
def close (a b : Nat) : Prop := ((a : Int) - b).natAbs * 2 ^ 60 ≤ b

/-- A lane that raises no flag. -/
def quietLane (f : Nat → Nat) : Nat → Nat × Flags := fun i => (f i, Flags.none)

/-- R217: exact sums, differences and products of integer elements wrap modulo 2^w or, saturating, are clamped with SAT. -/
def Obligations.IntegerElements : Prop :=
  ∀ (ty : ElemType) (f : IntFormat) (draw x y : Nat), ty.format.kind = .int f →
    let lo : Int := if f.signed then -(2 ^ (f.width - 1)) else 0
    let hi : Int := if f.signed then 2 ^ (f.width - 1) - 1 else 2 ^ f.width - 1
    ∀ (op : Arith) (v : Int),
      v = (match op with
        | .add => f.value x + f.value y
        | .sub => f.value x - f.value y
        | .mul => f.value x * f.value y) →
      arithLane op ty .wrap draw x y = ((v % 2 ^ f.width).toNat, Flags.none) ∧
      f.value (arithLane op ty .sat draw x y).1 = max lo (min hi v) ∧
      (arithLane op ty .sat draw x y).2 = { Flags.none with sat := decide (v < lo ∨ hi < v) }

/-- R212, R217: VADD, VSUB, VMUL, VFMA and VFMS compute each allowed element at issue from the elements of their sources, with the
rounding that MOD names; under STO a result draws from g14 and g15 and g15 rises as it lands (R237). -/
def Obligations.VectorArithmetic : Prop :=
  ∀ (h : Hdr) (d a b : Nat) (ty : ElemType) (m : ArithMode) (r : Rounding) (s : State), VectorIssues h s →
    let w := ty.width
    let k := begun h s
    let sto := decide (roundingOf m = .sto)
    VectorResult (exec (.vadd h d a b ty m) s) h s w d [a, b] (arithLatency ty 2) sto
      (fun i => arithLane .add ty m (k.draw (roundingOf m) i) ((k.rv a).elem w i) ((k.rv b).elem w i)) ∧
    VectorResult (exec (.vsub h d a b ty m) s) h s w d [a, b] (arithLatency ty 2) sto
      (fun i => arithLane .sub ty m (k.draw (roundingOf m) i) ((k.rv a).elem w i) ((k.rv b).elem w i)) ∧
    VectorResult (exec (.vmul h d a b ty m) s) h s w d [a, b] (arithLatency ty 3) sto
      (fun i => arithLane .mul ty m (k.draw (roundingOf m) i) ((k.rv a).elem w i) ((k.rv b).elem w i)) ∧
    ∀ f, ty.format.kind = .float f →
      VectorResult (exec (.vfma h d a b ty r) s) h s w d [d, a, b] (arithLatency ty 4) (decide (r = .sto))
        (fun i => floatFused f false r (k.draw r i) (f.value ((k.rv d).elem w i)) (f.value ((k.rv a).elem w i)) (f.value ((k.rv b).elem w i))) ∧
      VectorResult (exec (.vfms h d a b ty r) s) h s w d [d, a, b] (arithLatency ty 4) (decide (r = .sto))
        (fun i => floatFused f true r (k.draw r i) (f.value ((k.rv d).elem w i)) (f.value ((k.rv a).elem w i)) (f.value ((k.rv b).elem w i)))

/-- R96: of two integers the lesser or the greater as the type's signedness orders them. Of two floats that are numbers the same, with −0
below +0; of one NaN and a number the number; of two NaN the canonical NaN. -/
def MinMaxClauses : Prop :=
  ∀ (ty : ElemType) (x y : Nat),
    (∀ f, ty.format.kind = .int f →
      f.value (minMax ty false x y) = min (f.value x) (f.value y) ∧ f.value (minMax ty true x y) = max (f.value x) (f.value y) ∧
      ∀ m, minMax ty m x y = x ∨ minMax ty m x y = y) ∧
    (∀ f, ty.format.kind = .float f →
      let X := f.value x
      let Y := f.value y
      let lower (X Y : FVal) : Prop := valueLt X Y ∨ (X.isZero = true ∧ Y.isZero = true ∧ X.neg = true ∧ Y.neg = false)
      (X.isNan = true → ∀ m, minMax ty m x y = if Y.isNan = true then f.canonNan else y) ∧
      (X.isNan = false → Y.isNan = true → ∀ m, minMax ty m x y = x) ∧
      (X.isNan = false → Y.isNan = false →
        (lower X Y → minMax ty false x y = x ∧ minMax ty true x y = y) ∧ (lower Y X → minMax ty false x y = y ∧ minMax ty true x y = x) ∧
        ∀ m, minMax ty m x y = x ∨ minMax ty m x y = y))

/-- R218 to R220, R227: element by element, the lesser and the greater, magnitude and negation, selection, logic, shifts by the element's
own amount, and movement of elements. -/
def VectorLanesClauses : Prop :=
  ∀ (h : Hdr) (d a b c : Nat) (ty : ElemType) (s : State), VectorIssues h s →
    let w := ty.width
    let k := begun h s
    let x := fun i => (k.rv a).elem w i
    let y := fun i => (k.rv b).elem w i
    VectorResult (exec (.vmin h d a b ty) s) h s w d [a, b] 2 false (quietLane (fun i => minMax ty false (x i) (y i))) ∧
    VectorResult (exec (.vmax h d a b ty) s) h s w d [a, b] 2 false (quietLane (fun i => minMax ty true (x i) (y i))) ∧
    VectorResult (exec (.vabs h d a ty) s) h s w d [a] 2 false (quietLane (fun i => signLane ty true (x i))) ∧
    VectorResult (exec (.vneg h d a ty) s) h s w d [a] 2 false (quietLane (fun i => signLane ty false (x i))) ∧
    VectorResult (exec (.vsel h d a b c ty) s) h s w d [d, a, b] 2 false
      (quietLane (fun i => if (k.rvq c).getLsbD i then x i else y i)) ∧
    VectorResult (exec (.vand h d a b ty) s) h s w d [a, b] 2 false (quietLane (fun i => Nat.land (x i) (y i))) ∧
    VectorResult (exec (.vor h d a b ty) s) h s w d [a, b] 2 false (quietLane (fun i => Nat.lor (x i) (y i))) ∧
    VectorResult (exec (.vxor h d a b ty) s) h s w d [a, b] 2 false (quietLane (fun i => Nat.xor (x i) (y i))) ∧
    VectorResult (exec (.vnot h d a ty) s) h s w d [a] 2 false (quietLane (fun i => 2 ^ w - 1 - x i)) ∧
    VectorResult (exec (.vshl h d a b ty) s) h s w d [a, b] 2 false (quietLane (fun i => x i * 2 ^ y i % 2 ^ w)) ∧
    VectorResult (exec (.vshr h d a b ty) s) h s w d [a, b] 2 false (quietLane (fun i => x i / 2 ^ y i)) ∧
    VectorResult (exec (.vsar h d a b ty) s) h s w d [a, b] 2 false
      (quietLane (fun i => (signed w (x i) / 2 ^ min (y i) (w - 1) % 2 ^ w).toNat)) ∧
    VectorResult (exec (.vperm h d a b ty) s) h s w d [a, b] 3 false (quietLane (fun i => x (y i % (1024 / w)))) ∧
    VectorResult (exec (.vrot h d a b ty) s) h s w d [a] 3 false (quietLane (fun i => x ((i + (k.rg b).toNat) % (1024 / w)))) ∧
    VectorResult (exec (.vbcast h d a ty) s) h s w d [] 2 false (quietLane (fun _ => (k.rg a).toNat % 2 ^ w)) ∧
    VectorResult (exec (.viota h d ty) s) h s w d [] 2 false (quietLane (fun i => i % 2 ^ w)) ∧
    VectorResult (exec (.vmovm h d a ty true) s) h s w d [] 2 false
      (quietLane (fun i => if (k.rvq a).getLsbD i then 2 ^ w - 1 else 0))

/-- R96, R218 to R220, R227: the element-wise operations, and what the lesser and the greater of two elements are, together. -/
def Obligations.VectorElementOperations : Prop := VectorLanesClauses ∧ MinMaxClauses

/-- R224: the hyperbolic tangent. NaN, operands of at least 16 and below 2^−12 in magnitude, and ±0, give what the procedure says. Of any
other x it is (E − 1)/(E + 1) with the sign of x, rounded to FP64 and to FP32, where E is 2^y rounded to FP64 and y the exact product of |x|
and the constant 2/ln 2 rounded to FP64; the quotient stands within one part in 2^60 before its rounding. -/
def HyperbolicTangentClauses : Prop :=
  ∀ (x : Nat), x < 2 ^ 32 →
    let X := fp32.value x
    let wide (v : FVal) : FVal := fp64.value (fp64.round .rne 0 v).1
    let c := fp64.value 0x40071547652B82FE
    (X.isNan = true → tanhValue x = (0x7FC00000, Flags.none)) ∧
    (∀ a, X = .inf a → tanhValue x = (if a then 0xBF800000 else 0x3F800000, { Flags.none with nx := true })) ∧
    (∀ a m e, X = .fin a m e →
      let size := (unitsOf (min e (-12)) X).natAbs
      let unit := 2 ^ (-12 - min e (-12)).toNat
      (m = 0 → tanhValue x = (x, Flags.none)) ∧
      (m ≠ 0 → size < unit → tanhValue x = (x, { Flags.none with nx := true })) ∧
      (16 * 2 ^ 12 * unit ≤ size → tanhValue x = (if a then 0xBF800000 else 0x3F800000, { Flags.none with nx := true })) ∧
      (unit ≤ size → size < 16 * 2 ^ 12 * unit → ∃ p y r,
        (isFinite p ∧ p.neg = false ∧ ∀ i j, i ≤ e → j ≤ lastBit c → unitsOf (i + j) p = unitsOf i (.fin false m e) * unitsOf j c) ∧ y = wide p ∧
        tanhValue x = ((fp32.round .rne 0 (if a then r.negate else r)).1, { Flags.none with nx := true }) ∧
        ∀ n g, wide y.exp2 = .fin false n g →
          let one : Int := (2 ^ (-(min g 0)).toNat : Nat)
          let top := unitsOf (min g 0) (.fin false n g) - one
          let bottom := unitsOf (min g 0) (.fin false n g) + one
          ∃ k i, r = wide (.fin (decide (top < 0)) k i) ∧ i ≤ 0 ∧ close (k * bottom.natAbs) (top.natAbs * 2 ^ (-i).toNat)))

/-- R223, R224, R236: special functions, division and random numbers, element by element at 32 bits. -/
def VectorFunctionLanesClauses : Prop :=
  ∀ (h : Hdr) (d a b : Nat) (s : State), VectorIssues h s →
    let k := begun h s
    let x := fun i => (k.rv a).elem 32 i
    let word := fun i => (philox (k.rg a) (i / 4) (k.rg b)).word (i % 4)
    VectorResult (exec (.vrcp h d a) s) h s 32 d [a] 8 false (fun i => specialValue rcpOf (x i)) ∧
    VectorResult (exec (.vrsq h d a) s) h s 32 d [a] 8 false (fun i => specialValue rsqOf (x i)) ∧
    VectorResult (exec (.vsqrt h d a) s) h s 32 d [a] 12 false (fun i => specialValue sqrtOf (x i)) ∧
    VectorResult (exec (.vexp2 h d a) s) h s 32 d [a] 10 false (fun i => specialValue exp2Of (x i)) ∧
    VectorResult (exec (.vlog2 h d a) s) h s 32 d [a] 10 false (fun i => specialValue log2Of (x i)) ∧
    VectorResult (exec (.vsin h d a) s) h s 32 d [a] 14 false (fun i => specialValue (trigOf false) (x i)) ∧
    VectorResult (exec (.vcos h d a) s) h s 32 d [a] 14 false (fun i => specialValue (trigOf true) (x i)) ∧
    VectorResult (exec (.vtanh h d a) s) h s 32 d [a] 12 false (fun i => tanhValue (x i)) ∧
    VectorResult (exec (.vdiv h d a b) s) h s 32 d [a, b] 12 false (fun i => divValue (x i) ((k.rv b).elem 32 i)) ∧
    VectorResult (exec (.vrngU32 h d a b) s) h s 32 d [] 6 false (quietLane word) ∧
    VectorResult (exec (.vrngF32 h d a b) s) h s 32 d [] 6 false
      (quietLane (fun i => (fp32.round .rne 0 (.fin false (2 * (word i / 2 ^ 9) + 1) (-24))).1))

/-- R223, R224, R236: special functions, division and random numbers in V, and the hyperbolic tangent of an element, together. That the
quotient of the hyperbolic tangent is close before its rounding is a property of the model's procedure. -/
def Obligations.VectorFunctions : Prop := VectorFunctionLanesClauses ∧ HyperbolicTangentClauses

/-- Table 5.3, R219: the conditions of VCMP on two elements: integers as the type's signedness orders them; floats that are numbers by
value, −0 equal to +0; with a NaN only `ne` and `un` hold. -/
def ElementConditionsClauses : Prop :=
  ∀ (ty : ElemType) (x y : Nat),
    (∀ f, ty.format.kind = .int f →
      let X := f.value x
      let Y := f.value y
      (vcondHolds ty .eq x y = true ↔ X = Y) ∧ (vcondHolds ty .ne x y = true ↔ X ≠ Y) ∧ (vcondHolds ty .lt x y = true ↔ X < Y) ∧
      (vcondHolds ty .le x y = true ↔ X ≤ Y) ∧ (vcondHolds ty .gt x y = true ↔ Y < X) ∧ (vcondHolds ty .ge x y = true ↔ Y ≤ X) ∧
      vcondHolds ty .un x y = false) ∧
    (∀ f, ty.format.kind = .float f →
      let X := f.value x
      let Y := f.value y
      (X.isNan = true ∨ Y.isNan = true → ∀ c, vcondHolds ty c x y = true ↔ c = .ne ∨ c = .un) ∧
      (X.isNan = false → Y.isNan = false →
        (vcondHolds ty .eq x y = true ↔ ¬ valueLt X Y ∧ ¬ valueLt Y X) ∧ (vcondHolds ty .ne x y = true ↔ valueLt X Y ∨ valueLt Y X) ∧
        (vcondHolds ty .lt x y = true ↔ valueLt X Y) ∧ (vcondHolds ty .le x y = true ↔ ¬ valueLt Y X) ∧
        (vcondHolds ty .gt x y = true ↔ valueLt Y X) ∧ (vcondHolds ty .ge x y = true ↔ ¬ valueLt X Y) ∧ vcondHolds ty .un x y = false))

/-- R213, R219, R221: VCMP and VMOVM write the bits of a predicate, one for each allowed element and 0 at and above their number. -/
def PredicateLanesClauses : Prop :=
  ∀ (h : Hdr) (d a b : Nat) (ty : ElemType) (c : VCond) (s : State), VectorIssues h s →
    let w := ty.width
    let n := 1024 / w
    let k := begun h s
    ∀ (o : Answer) (reads : List Nat) (p : Nat → Bool),
      (o = exec (.vcmp h d a b ty c) s ∧ reads = [a, b] ∧ p = (fun i => vcondHolds ty c ((k.rv a).elem w i) ((k.rv b).elem w i))) ∨
      (o = exec (.vmovm h d a ty false) s ∧ reads = [a] ∧ p = (fun i => decide ((k.rv a).elem w i ≠ 0))) →
      ∃ e m, Lands o h s reads [] e 2 ∧ e.kind = .qreg ∧ e.dest = d ∧ Allowed h s n m ∧
        (∀ i, i < 128 → e.mask.getLsbD i = (m.getLsbD i || decide (n ≤ i))) ∧
        (∀ i, i < n → Nat.testBit e.data.toNat i = p i) ∧ (∀ i, n ≤ i → Nat.testBit e.data.toNat i = false)

/-- R213, R219, R221: VCMP and VMOVM, and when each condition holds of two elements, together. -/
def Obligations.VectorPredicates : Prop := PredicateLanesClauses ∧ ElementConditionsClauses

/-- R97, R98: the value of a step of a reduction: a sum rounded once under the mode, or wrapped, or the lesser or greater of R96; its flags
join those of its operands. The tree of 2^(k + 1) elements combines those of its halves, lower indices to the left; a step of the prefix
pattern combines each element with the one at the distance below it, from the values before the step. -/
def ReductionStepsClauses : Prop :=
  (∀ (ty : ElemType) (r : Rounding) (a b : Lane),
    (∀ op z, (op = .min ∧ z = (minMax ty false a.1 b.1, Flags.none)) ∨ (op = .max ∧ z = (minMax ty true a.1 b.1, Flags.none)) ∨
        (op = .sum ∧ ∃ f, ty.format.kind = .float f ∧ z = arithLane .add ty (.round r) 0 a.1 b.1) ∨
        (op = .sum ∧ ∃ f, ty.format.kind = .int f ∧ z = (((f.value a.1 + f.value b.1) % 2 ^ f.width).toNat, Flags.none)) →
      redStep ty op r a b = (z.1, (a.2.join b.2).join z.2))) ∧
  (∀ (f : Lane → Lane → Lane) (x : Lane) (xs ys : List Lane) (k : Nat), xs.length = 2 ^ k → ys.length = 2 ^ k →
    redTree f [x] 0 = x ∧ redTree f (xs ++ ys) (k + 1) = f (redTree f xs k) (redTree f ys k)) ∧
  (∀ (f : Lane → Lane → Lane) (es : List Lane) (d k : Nat), let next := scanSteps f es d 1
    scanSteps f es d 0 = es ∧ scanSteps f es d (k + 1) = scanSteps f next (2 * d) k ∧ next.length = es.length ∧
    (∀ i, i < d → next[i]? = es[i]?) ∧
    ∀ i a b, d ≤ i → es[i - d]? = some a → es[i]? = some b → next[i]? = some (f a b))

/-- R97, R98: over integers the tree and the prefix pattern give the sums modulo 2^w of all elements and of each prefix, and the tree the
least and the greatest element. -/
def IntegerReductionsClauses : Prop :=
  ∀ (ty : ElemType) (f : IntFormat) (r : Rounding) (es : List Lane) (k : Nat), ty.format.kind = .int f → es.length = 2 ^ k →
    let values := es.map (fun e => f.value e.1)
    let tree (op : RedOp) : Int := f.value (redTree (redStep ty op r) es k).1
    (tree .sum - values.sum) % 2 ^ f.width = 0 ∧
    (tree .min ∈ values ∧ ∀ v ∈ values, tree .min ≤ v) ∧ (tree .max ∈ values ∧ ∀ v ∈ values, v ≤ tree .max) ∧
    ∀ i, i < 2 ^ k → ∃ z, (scanSteps (redStep ty .sum r) es 1 k)[i]? = some z ∧ (f.value z.1 - (values.take (i + 1)).sum) % 2 ^ f.width = 0

/-- Under R99 a pair of a value's code and an index wins over another: its value is greater, NaN as −∞ and −0 as +0, or equal and its
index lower. -/
def pairBeats (f : Format) (p q : Nat × Nat) : Prop :=
  let v (c : Nat) : FVal := if (f.value 0 c).isNan then .inf true else f.value 0 c
  valueLt (v q.1) (v p.1) ∨ (¬ valueLt (v p.1) (v q.1) ∧ p.2 < q.2)

/-- R99, R226: VMAXI answers the candidate over which no other wins, its index from the base in the upper half and its value, NaN as the
canonical NaN, in the lower; without a candidate that is a number, index 0xFFFFFFFF, with AN. -/
def MaxWithIndexClauses : Prop :=
  ∀ (ty : ElemType) (base : Nat) (cands : List (Nat × Nat)), ty = .f32 ∨ ty = .i32 →
    let nan (c : Nat) : Prop := (ty.format.value 0 c).isNan = true
    let z := maxiResult ty base cands
    ((∀ p ∈ cands, nan p.1) →
      z = (BitVec.ofNat 64 (0xFFFFFFFF * 2 ^ 32 + if ty = .i32 then 0x80000000 else 0x7FC00000), { Flags.none with an := true })) ∧
    (¬ (∀ p ∈ cands, nan p.1) → ∃ p ∈ cands, (∀ q ∈ cands, ¬ pairBeats ty.format q p) ∧
      (nan p.1 → z = (BitVec.ofNat 64 ((base + p.2) % 2 ^ 32 * 2 ^ 32 + 0x7FC00000), Flags.none)) ∧
      (¬ nan p.1 → z = (BitVec.ofNat 64 ((base + p.2) % 2 ^ 32 * 2 ^ 32 + p.1), Flags.none)))

/-- R221, R225, R226: results for g[d] from a row: count, reduction by the pairwise tree of R97, greatest element with its index, and
one element; and a reduction of every prefix. -/
def ReductionLanesClauses : Prop :=
  ∀ (h : Hdr) (d a b : Nat) (ty : ElemType) (op : RedOp) (r : Rounding) (s : State), VectorIssues h s →
    let w := ty.width
    let n := 1024 / w
    let k := begun h s
    ∀ m, Allowed h s n m →
      let x := fun i => (k.rv a).elem w i
      let entering := (List.range n).map (fun i => Lane.plain (if m.getLsbD i then x i else redIdentity ty op))
      Lands (exec (.vpopc h d a ty) s) h s [] []
        (gEntry d (BitVec.ofNat 64 ((List.range n).countP (fun i => m.getLsbD i && (k.rvq a).getLsbD i))) Flags.none) 3 ∧
      (let z := redTree (redStep ty op r) entering (Nat.log2 n)
       Lands (exec (.vred h d a ty op r) s) h s [a] [] (gEntry d (placed ty z.1) z.2) 6) ∧
      (VectorResult (exec (.vscan h d a ty op r) s) h s w d [a] 6 false
        (fun i => (scanSteps (redStep ty op r) entering 1 (Nat.log2 n)).getD i (Lane.plain 0))) ∧
      Lands (exec (.vext h d a b ty) s) h s [a] []
        (if (k.rg b).toNat < n ∧ m.getLsbD (k.rg b).toNat then gEntry d (placed ty (x (k.rg b).toNat)) Flags.none else VEntry.bare) 3 ∧
      (n = 32 →
        let z := maxiResult ty (k.rg b).toNat (((List.range 32).filter (fun i => m.getLsbD i)).map (fun i => (x i, i)))
        Lands (exec (.vmaxi h d a b ty) s) h s [a] [] (gEntry d z.1 z.2) 6)

/-- R97 to R99, R221, R225, R226: the reductions of a row, and the values of their steps, of the tree and the prefix pattern and of the
greatest element, together. That the first element of a prefix passes with its bits as they are is the model's choice, log entry 99. Its
other readings of what the rules leave open are log entry 9. -/
def Obligations.VectorReductions : Prop :=
  ReductionLanesClauses ∧ ReductionStepsClauses ∧ IntegerReductionsClauses ∧ MaxWithIndexClauses

/-- R222, R227: VCVT converts each allowed element and writes 0 above them; VINS writes one element, if it is allowed. -/
def Obligations.VectorConversions : Prop :=
  ∀ (h : Hdr) (d a b : Nat) (ty : ElemType) (src : CvtSource) (target : Format) (r : Rounding) (s : State), VectorIssues h s →
    let k := begun h s
    let ws := (src.format ty).width
    let wt := target.width
    let n := 1024 / max ws wt
    (∃ e m, Lands (exec (.vcvt h d a ty src target r) s) h s [a] [d] e 3 ∧ e.kind = .vreg ∧ e.dest = d ∧ e.width = wt / 8 ∧
      e.stoinc = decide (r = .sto) ∧ Allowed h s n m ∧
      (∀ i, i < 1024 / wt → i < 128 → e.mask.getLsbD i = (m.getLsbD i || (decide (n ≤ i) && decide (m ≠ 0)))) ∧
      (∀ i, i < n → m.getLsbD i = true →
        e.data.elem wt i = (target.round r (k.draw r i) ((src.format ty).value 0 ((k.rv a).elem ws i))).1 % 2 ^ wt) ∧
      (∀ i, n ≤ i → i < 1024 / wt → e.data.elem wt i = 0)) ∧
    (∃ e, Lands (exec (.vins h d a b ty) s) h s [d] [d] e 2 ∧ e.kind = .vreg ∧ e.dest = d ∧ e.width = ty.width / 8 ∧
      (∀ m, Allowed h s (1024 / ty.width) m → ∀ i, i < 128 → e.mask.getLsbD i = (m.getLsbD i && decide (i = (k.rg b).toNat))) ∧
      ((k.rg b).toNat < 1024 / ty.width → e.data.elem ty.width (k.rg b).toNat = (k.rg a).toNat % 2 ^ ty.width))

/-- What a vector access answers, with whether it stores, its latency, and the address and the stride of its elements (R228, Table 9.2). -/
def VectorAccessOf (h : Hdr) (d a b : Nat) (ty : ElemType) (disp : Int) (s : State) (o : Answer) (store : Bool) (latency : Nat)
    (addr stride : Word) : Prop :=
  let k := begun h s
  let packed := BitVec.ofNat 64 (ty.width / 8)
  (o = exec (.vld h d a b ty disp) s ∧ store = false ∧ latency = 5 ∧ addr = k.memAddr a b disp ∧ stride = packed) ∨
  (o = exec (.vst h d a b ty disp) s ∧ store = true ∧ latency = 3 ∧ addr = k.memAddr a b disp ∧ stride = packed) ∨
  (o = exec (.vlds h d a b ty) s ∧ store = false ∧ latency = 6 ∧ addr = k.rg a ∧ stride = k.rg b) ∨
  (o = exec (.vsts h d a b ty) s ∧ store = true ∧ latency = 3 ∧ addr = k.rg a ∧ stride = k.rg b)

/-- Whether n bytes at an address lie in the own cell store, in space 1 and below 1 MiB, and beside another micro-context in the CSLIVE
window (R47, R228, R329). -/
def inOwnStore (s : State) (u : SlotId) (a : Word) (n : Nat) : Prop :=
  let w := (s.slot u).window_
  let off := a.toNat % 2 ^ 57
  a.toNat / 2 ^ 57 = 16 ∧ off + n ≤ 2 ^ 20 ∧ (s.foreignNeighbour u = true → w.1 ≤ off ∧ off + n ≤ w.1 + w.2)

/-- R228: a vector access all of whose allowed elements lie aligned in the own cell store enters flight with their addresses. -/
def VectorAccessIssuesClauses : Prop :=
  ∀ (h : Hdr) (d a b : Nat) (ty : ElemType) (disp : Int) (s : State), VectorIssues h s →
    let width := ty.width / 8
    ∀ (o : Answer) (store : Bool) (latency : Nat) (addr stride : Word) (m : Mask), Allowed h s (1024 / ty.width) m →
      VectorAccessOf h d a b ty disp s o store latency addr stride →
      (∀ i, i < 1024 / ty.width → m.getLsbD i = true →
        inOwnStore (begun h s) s.cur.slot (addr + BitVec.ofNat 64 i * stride) width ∧ offset (addr + BitVec.ofNat 64 i * stride) % width = 0) →
      ∃ e, Lands o h s (if store then [d] else []) (if store then [] else [d]) e latency ∧
        e.kind = (if store then .store else .load) ∧ e.dest = d ∧ e.width = width ∧ e.mask = m ∧ e.addr = addr ∧ e.stride = stride ∧
        (store = true → e.data = (begun h s).rv d)

/-- R228: an allowed element outside the own cell store traps SPACE with the address of the lowest such element, whatever the alignment of
any element; where all lie inside, the lowest that is not aligned to its size traps ALIGN with its address. -/
def VectorAccessTrapsClauses : Prop :=
  ∀ (h : Hdr) (d a b : Nat) (ty : ElemType) (disp : Int) (s : State), VectorIssues h s →
    let width := ty.width / 8
    ∀ (o : Answer) (store : Bool) (latency i : Nat) (addr stride : Word) (m : Mask), Allowed h s (1024 / ty.width) m →
      VectorAccessOf h d a b ty disp s o store latency addr stride → i < 1024 / ty.width → m.getLsbD i = true →
      let at_ (j : Nat) : Word := addr + BitVec.ofNat 64 j * stride
      let inside (j : Nat) : Prop := inOwnStore (begun h s) s.cur.slot (at_ j) width
      let space : TrapInfo := { cause := 0x07, sub := 0, tval := at_ i }
      let align : TrapInfo := { cause := 0x06, sub := 0, tval := at_ i }
      (TrapsAtOnce s space → ¬ inside i → (∀ j, j < i → m.getLsbD j = true → inside j) → o = .next (trapped s space)) ∧
      (TrapsAtOnce s align → (∀ j, j < 1024 / ty.width → m.getLsbD j = true → inside j) → offset (at_ i) % width ≠ 0 →
        (∀ j, j < i → m.getLsbD j = true → offset (at_ j) % width = 0) → o = .next (trapped s align))

/-- R228: vector accesses that enter flight and those that trap, together.
Its readings of what the rules leave open are the model's: log entry 8. -/
def Obligations.VectorAccess : Prop := VectorAccessIssuesClauses ∧ VectorAccessTrapsClauses

/-- R228: as a V store lands it writes each allowed element to the own cell store, at byte offset addr + i × stride, and no other byte of
memory changes. -/
def StoreLandingClauses : Prop :=
  ∀ (s : State) (u : SlotId) (e : VEntry), e.kind = .store → 0 < e.width →
    (∀ j, (∀ i, i < 1024 / (8 * e.width) → e.mask.getLsbD i = true →
        j < cellStoreAt u.cell + e.elemAddr i ∨ cellStoreAt u.cell + e.elemAddr i + e.width ≤ j) →
      Memory.byte (s.landEntry u e).mem j = Memory.byte s.mem j) ∧
    (∀ i, i < 1024 / (8 * e.width) → e.mask.getLsbD i = true →
      (∀ k, i < k → k < 1024 / (8 * e.width) → e.mask.getLsbD k = true →
        e.elemAddr i + e.width ≤ e.elemAddr k ∨ e.elemAddr k + e.width ≤ e.elemAddr i) →
      ∀ n, n < e.width →
        Memory.byte (s.landEntry u e).mem (cellStoreAt u.cell + e.elemAddr i + n) = BitVec.ofNat 8 (e.data.elem (8 * e.width) i / 2 ^ (8 * n)))

/-- R210, R213, R215, R237: the landing of a result for a register writes that register, ORs its flags into VSTAT, makes its post and
retires; a result for elements leaves the elements outside its mask; no byte of memory changes. -/
def RegisterLandingClauses : Prop :=
  ∀ (s : State) (u : SlotId) (e : VEntry),
    let t := s.landEntry u e
    (t.slot u).sr.vflags = ((s.slot u).sr.vflags ||| e.flags) ∧
    (∀ p, e.post = some p → (t.slot u).tokens .v p = (s.slot u).tokens .v p + 1) ∧
    (e.width ≠ 0 → (t.slot u).v.retired = (s.slot u).v.retired + 1) ∧
    (e.kind ≠ .store → ∀ a, Memory.byte t.mem a = Memory.byte s.mem a) ∧
    (e.kind = .greg → ∀ n, (t.slot u).v.gReg n =
      if n = e.dest ∧ e.dest ≠ 0 then BitVec.ofNat 64 e.data.toNat
      else if n = 15 ∧ e.stoinc = true then (s.slot u).v.gReg 15 + 1 else (s.slot u).v.gReg n) ∧
    (e.kind = .qreg → ∀ n, n ≠ 0 → (t.slot u).v.vqReg n =
      if n = e.dest then ((s.slot u).v.vqReg n &&& ~~~ e.mask) ||| (BitVec.ofNat 128 e.data.toNat &&& e.mask) else (s.slot u).v.vqReg n) ∧
    (e.kind = .vreg → e.mask ≠ 0 → e.width = 1 ∨ e.width = 2 ∨ e.width = 4 ∨ e.width = 8 →
      e.dest < 64 → s.accFirst u (e.dest / 32) = false →
      ∀ i, i < 1024 / (8 * e.width) → (t.vReg u e.dest).elem (8 * e.width) i =
        if e.mask.getLsbD i then e.data.elem (8 * e.width) i else ((s.takeTile u (e.dest / 32)).vReg u e.dest).elem (8 * e.width) i)

/-- R228, R234: a vector load as it lands reads each allowed element from the own cell store, at byte offset addr + i × stride, into its
row; the pair of VHEAPR writes the values and then the indices, so that the indices prevail where the two registers are one. The other
elements of these registers and every other v register stay, and so does every byte of memory. -/
def RowLandingClauses : Prop :=
  ∀ (s : State) (u : SlotId) (e : VEntry), e.mask ≠ 0 → e.dest < 64 → s.accFirst u (e.dest / 32) = false →
    let t := s.landEntry u e
    let w := 8 * e.width
    (e.kind = .load → e.width = 1 ∨ e.width = 2 ∨ e.width = 4 ∨ e.width = 8 →
      let old := s.takeTile u (e.dest / 32)
      (∀ i, i < 1024 / w → (t.vReg u e.dest).elem w i =
        if e.mask.getLsbD i then natOf (s.load (cellStoreAt u.cell + e.elemAddr i) e.width) else (old.vReg u e.dest).elem w i) ∧
      (∀ n, n < 64 → n ≠ e.dest → t.vReg u n = old.vReg u n) ∧ ∀ a, Memory.byte t.mem a = Memory.byte s.mem a) ∧
    (e.kind = .heapPair → e.width = 4 → e.dest2 < 64 → s.accFirst u (e.dest2 / 32) = false →
      let old := (s.takeTile u (e.dest / 32)).takeTile u (e.dest2 / 32)
      (∀ i, i < 32 → (t.vReg u e.dest2).elem 32 i = if e.mask.getLsbD i then e.data2.elem 32 i else (old.vReg u e.dest2).elem 32 i) ∧
      (e.dest ≠ e.dest2 →
        ∀ i, i < 32 → (t.vReg u e.dest).elem 32 i = if e.mask.getLsbD i then e.data.elem 32 i else (old.vReg u e.dest).elem 32 i) ∧
      (∀ n, n < 64 → n ≠ e.dest → n ≠ e.dest2 → t.vReg u n = old.vReg u n) ∧ ∀ a, Memory.byte t.mem a = Memory.byte s.mem a)

/-- R210, R213, R228, R234, R320: the landing of stores, of loads and heap pairs, and of register results, together.
Its readings of what the rules leave open are the model's: log entry 7. -/
def Obligations.Landing : Prop := StoreLandingClauses ∧ RegisterLandingClauses ∧ RowLandingClauses

/-- R27, R230, R235: MPUSH pushes the top AND a predicate, MINV inverts the top within the mask below it, MPOP pops; VHEAPC empties the
heap; nothing happens where bit 0 of the guard is false (R214). -/
def MaskStackAndHeapClearClauses : Prop :=
  ∀ (h : Hdr) (a : Nat) (s : State), VectorIssues h s →
    let l := (begun h s).here
    let top := fun (l : Slot) => l.mstack.headD Mask.full
    (((l.v.vqReg h.guard).getLsbD 0 != h.sense) = true →
      (l.mstack.length < 16 →
        ChangesSlot (exec (.mpush h a) s) h s (fun l => { l with mstack := (top l &&& l.v.vqReg a) :: l.mstack })) ∧
      (l.mstack ≠ [] →
        ChangesSlot (exec (.minv h) s) h s
          (fun l => { l with mstack := (l.mstack.tail.headD Mask.full &&& ~~~ top l) :: l.mstack.tail }) ∧
        ChangesSlot (exec (.mpop h) s) h s (fun l => { l with mstack := l.mstack.tail })) ∧
      ChangesSlot (exec (.vheapc h) s) h s (fun l => { l with heap := [], hloss := false, hpopped := 0 })) ∧
    (((l.v.vqReg h.guard).getLsbD 0 != h.sense) = false →
      ChangesSlot (exec (.mpush h a) s) h s id ∧ ChangesSlot (exec (.minv h) s) h s id ∧ ChangesSlot (exec (.mpop h) s) h s id ∧
      ChangesSlot (exec (.vheapc h) s) h s id)

/-- R230: MPUSH at depth 16, and MINV and MPOP at depth 0, trap MSTACK with the depth as TVAL. -/
def MaskStackTrapsClauses : Prop :=
  ∀ (h : Hdr) (a : Nat) (s : State), VectorIssues h s →
    let l := (begun h s).here
    ((l.v.vqReg h.guard).getLsbD 0 != h.sense) = true → (landed s).trapHeld s.cur.slot .v 0x01 = false →
    let trap := (landed s).takeTrap s.cur.slot .v { cause := 0x01, sub := 5, tval := BitVec.ofNat 64 l.mstack.length } TrapMode.precise
    (16 ≤ l.mstack.length → exec (.mpush h a) s = .next trap) ∧
    (l.mstack = [] → exec (.minv h) s = .next trap ∧ exec (.mpop h) s = .next trap)

/-- The mask stack and the cleared heap, with their traps, together. -/
def Obligations.MaskStackAndHeap : Prop := MaskStackAndHeapClearClauses ∧ MaskStackTrapsClauses

/-- A heap entry is greater than another (R99, R232): its value is greater, or equal, −0 as +0, and its index lower. -/
def heapGreater (p q : BitVec 32 × BitVec 32) : Prop :=
  let o := (fp32.value p.1.toNat).compare (fp32.value q.1.toNat)
  o = .gt ∨ (o = .eq ∧ p.2.toNat < q.2.toNat)

/-- The heap as VHEAP builds it (R232, R233): greatest first, at most 256 entries, none of them NaN. -/
structure HeapOrdered (l : List (BitVec 32 × BitVec 32)) : Prop where
  sorted : l.Pairwise (fun p q => ¬ heapGreater q p)
  bounded : l.length ≤ 256
  numbers : ∀ p ∈ l, (fp32.value p.1.toNat).isNan = false

/-- R232, R233: an insertion puts an entry after every entry that is not below it, so that of equals the earlier is greater, and keeps the
first 256; insertions in a row keep the 256 greatest of the entries held and inserted, set HLOSS if they are more, and keep the heap
ordered. -/
def HeapInsertionClauses : Prop :=
  ∀ (l : Slot) (p : BitVec 32 × BitVec 32) (ps : List (BitVec 32 × BitVec 32)), HeapOrdered l.heap →
    (fp32.value p.1.toNat).isNan = false → (∀ q ∈ ps, (fp32.value q.1.toNat).isNan = false) →
    let t := l.gather ps
    (∃ above below, l.heap = above ++ below ∧ (∀ q ∈ above, ¬ heapGreater p q) ∧ (∀ q ∈ below, heapGreater p q) ∧
      (l.gather [p]).heap = (above ++ p :: below).take 256) ∧
    (l.gather [p]).gather ps = l.gather (p :: ps) ∧
    HeapOrdered t.heap ∧ t.heap.length = min 256 (l.heap.length + ps.length) ∧
    (∃ lost, (t.heap ++ lost).Perm (l.heap ++ ps) ∧ ∀ q ∈ lost, ∀ x ∈ t.heap, ¬ heapGreater q x) ∧
    (t.hloss = true ↔ l.hloss = true ∨ 256 < l.heap.length + ps.length) ∧ t = { l with heap := t.heap, hloss := t.hloss }

/-- R233, R234: VHEAP inserts its allowed elements that are not NaN, in ascending order, at issue; VHEAPR takes out the first 32 entries of
the heap, none of which is below one that stays, and puts them into two registers, padded where there are fewer; both keep the heap ordered.
VHEAPR of an empty heap that has lost an entry traps HEAPOVF with the number of entries popped. -/
def HeapInstructionsClauses : Prop :=
  ∀ (h : Hdr) (d a b : Nat) (s s1 : State) (m : Mask), VectorIssues h s → Allowed h s 32 m →
    let k := begun h s
    (k.vRows [a] [] false = .ok s1 →
      let cands := ((List.range 32).filter (fun i => m.getLsbD i && !(fp32.value ((k.rv a).elem 32 i)).isNan)).map
        (fun i => (BitVec.ofNat 32 ((k.rv a).elem 32 i), BitVec.ofNat 32 ((k.rg b).toNat + i)))
      ∃ t, exec (.vheap h a b) s = .next t ∧
        VIssued h (s1.withHere (fun l => l.gather cands)) t
          [{ VEntry.bare with offset := 3, post := h.post, reads := rowSet [a] }] ∧
        (HeapOrdered k.here.heap → HeapOrdered t.here.heap)) ∧
    (k.here.heap ≠ [] ∨ k.here.hloss = false → k.vRows [] [d, a] (decide (m ≠ 0)) = .ok s1 →
      let n := if ((k.here.v.vqReg h.guard).getLsbD 0 != h.sense) then min 32 k.here.heap.length else 0
      ∃ t e, exec (.vheapr h d a) s = .next t ∧
        VIssued h (s1.withHere (fun l => { l with heap := l.heap.drop n, hpopped := l.hpopped + n })) t [e] ∧
        e.kind = .heapPair ∧ e.dest = d ∧ e.dest2 = a ∧ e.mask = m ∧ e.offset = 3 ∧ e.post = h.post ∧
        (∀ i, i < 32 → e.data.elem 32 i = ((k.here.heap.take n)[i]?.map (fun p => p.1.toNat)).getD 0xFF800000 ∧
          e.data2.elem 32 i = ((k.here.heap.take n)[i]?.map (fun p => p.2.toNat)).getD 0xFFFFFFFF) ∧
        (HeapOrdered k.here.heap → HeapOrdered t.here.heap ∧ ∀ p ∈ k.here.heap.take n, ∀ q ∈ t.here.heap, ¬ heapGreater q p)) ∧
    (let trap : TrapInfo := { cause := 0x0D, sub := 0, tval := BitVec.ofNat 64 k.here.hpopped }
     k.here.heap = [] → k.here.hloss = true → TrapsAtOnce s trap → exec (.vheapr h d a) s = .next (trapped s trap))

/-- R232 to R234: the order of the heap, insertions, and the instructions that gather and read, together.
Its readings of what the rules leave open are the model's: log entry 10. -/
def Obligations.HeapGatherAndRead : Prop := HeapInsertionClauses ∧ HeapInstructionsClauses

/-- What a rounding mode other than STO asks of the result y for the exact value x, against another number u of the format; `even` says that
the result's last bit is 0 (Table 3.10). -/
def roundsBest (r : Rounding) (even : Prop) (x y u : Int) : Prop :=
  match r with
  | .rne => (y - x).natAbs ≤ (u - x).natAbs ∧ ((y - x).natAbs = (u - x).natAbs → u ≠ y → even)
  | .rtz => y.natAbs ≤ x.natAbs ∧ (u.natAbs ≤ x.natAbs → u.natAbs ≤ y.natAbs)
  | .rup => x ≤ y ∧ (x ≤ u → y ≤ u)
  | .rdn => y ≤ x ∧ (u ≤ x → u ≤ y)
  | .sto => True

/-- R85 to R88: a finite value that is not 0, rounded to a V float type in a mode other than STO, keeps its sign; where it does not overflow
the result is the best finite number of the type that the mode admits, and NX tells whether it differs; it overflows only beyond the largest
finite magnitude, to what R87 says. Under STO it is the number that RTZ gives or the next above it in magnitude, as the word drawn decides. -/
def FloatRoundingClauses : Prop :=
  ∀ (ty : ElemType) (f : FloatFormat) (r : Rounding) (draw m : Nat) (neg : Bool) (e lsb : Int),
    ty.format.kind = .float f → m ≠ 0 → lsb ≤ e → lsb ≤ 1 - (f.bias : Int) - f.frac →
    let v : FVal := .fin neg m e
    let x := unitsOf lsb v
    let c := (f.round r draw v).1
    let fl := (f.round r draw v).2
    let down := (f.round .rtz draw v).1
    let size (z : Nat) : Nat := (unitsOf lsb (f.value z)).natAbs
    (r ≠ .sto →
      (fl.of = false → isFinite (f.value c) ∧ (f.value c).neg = neg ∧ (fl.nx = true ↔ unitsOf lsb (f.value c) ≠ x) ∧
        ∀ z, isFinite (f.value z) → roundsBest r (c % 2 = 0) x (unitsOf lsb (f.value c)) (unitsOf lsb (f.value z))) ∧
      (fl.of = true → fl.nx = true ∧ (∀ z, isFinite (f.value z) → size z < x.natAbs) ∧
        c = f.code neg (if r = .rne ∨ (r = .rup ∧ neg = false) ∨ (r = .rdn ∧ neg = true) then f.infMag else f.maxMag))) ∧
    (r = .sto → down % 2 ^ (f.width - 1) < f.maxMag →
      c = if draw < (x.natAbs - size down) * 2 ^ 32 / (size (down + 1) - size down) then down + 1 else down)

/-- R90: a finite value rounded to an integer type in a mode other than STO is the integer that the mode chooses, clamped to the type's
range with SAT alone; NX tells otherwise whether the value was no integer. -/
def IntegerRoundingClauses : Prop :=
  ∀ (ty : ElemType) (f : IntFormat) (r : Rounding) (draw m : Nat) (neg : Bool) (e lsb : Int),
    ty.format.kind = .int f → r ≠ .sto → lsb ≤ e → lsb ≤ 0 →
    let v : FVal := .fin neg m e
    let one : Int := (2 ^ (-lsb).toNat : Nat)
    let x := unitsOf lsb v
    let lo : Int := if f.signed then -(2 ^ (f.width - 1)) else 0
    let hi : Int := if f.signed then 2 ^ (f.width - 1) - 1 else 2 ^ f.width - 1
    ∃ t : Int,
      (match r with
        | .rne => 2 * (t * one - x).natAbs ≤ one.natAbs ∧ (2 * (t * one - x).natAbs = one.natAbs → t % 2 = 0)
        | .rtz => (t * one).natAbs ≤ x.natAbs ∧ x.natAbs < (t * one).natAbs + one.natAbs ∧ 0 ≤ t * x
        | .rup => x ≤ t * one ∧ t * one < x + one
        | .rdn => t * one ≤ x ∧ x < t * one + one
        | .sto => True) ∧
      f.value (f.round r draw v).1 = max lo (min hi t) ∧
      (f.round r draw v).2 = { Flags.none with sat := decide (t < lo ∨ hi < t), nx := decide (lo ≤ t ∧ t ≤ hi ∧ t * one ≠ x) }

/-- R217: on floats VADD, VSUB and VMUL round the exact sum, difference and product once, and VFMA and VFMS the exact sum of d and the
product; an exact zero has the sign that R217 gives it; NaN operands give the canonical NaN, and ∞ − ∞ and 0 × ∞ give it with NV. -/
def FloatLanesClauses : Prop :=
  ∀ (ty : ElemType) (f : FloatFormat) (r : Rounding) (draw x y z : Nat), ty.format.kind = .float f →
    let X := f.value x
    let Y := f.value y
    let Z := f.value z
    let lane (op : Arith) : Lane := arithLane op ty (.round r) draw x y
    let invalid : Lane := (f.canonNan, { Flags.none with nv := true })
    (isFinite X → isFinite Y →
      (∃ v, lane .add = f.round r draw v ∧ isFinite v ∧
        (∀ lsb, lsb ≤ lastBit X → lsb ≤ lastBit Y → unitsOf lsb v = unitsOf lsb X + unitsOf lsb Y) ∧
        (v.isZero = true → v.neg = if X.isZero = true ∧ Y.isZero = true ∧ X.neg = Y.neg then X.neg else decide (r = .rdn))) ∧
      (∃ v, lane .sub = f.round r draw v ∧ isFinite v ∧
        (∀ lsb, lsb ≤ lastBit X → lsb ≤ lastBit Y → unitsOf lsb v = unitsOf lsb X - unitsOf lsb Y) ∧
        (v.isZero = true → v.neg = if X.isZero = true ∧ Y.isZero = true ∧ X.neg ≠ Y.neg then X.neg else decide (r = .rdn))) ∧
      (∃ v, lane .mul = f.round r draw v ∧ isFinite v ∧ v.neg = (X.neg != Y.neg) ∧
        (∀ i j, i ≤ lastBit X → j ≤ lastBit Y → unitsOf (i + j) v = unitsOf i X * unitsOf j Y)) ∧
      (isFinite Z → ∀ minus : Bool, ∃ v, floatFused f minus r draw Z X Y = f.round r draw v ∧ isFinite v ∧
        (∀ i j, i ≤ lastBit X → j ≤ lastBit Y → i + j ≤ lastBit Z →
          unitsOf (i + j) v = unitsOf (i + j) Z + (if minus then -1 else 1) * (unitsOf i X * unitsOf j Y)))) ∧
    (X = .nan ∨ Y = .nan → ∀ op, lane op = (f.canonNan, Flags.none)) ∧
    (∀ a b, X = .inf a → Y = .inf b → (a ≠ b → lane .add = invalid) ∧ (a = b → lane .sub = invalid) ∧
      lane .mul = (f.code (a != b) f.infMag, Flags.none)) ∧
    (∀ a, X = .inf a → Y.isZero = true → lane .mul = invalid ∧ ∀ minus, floatFused f minus r draw Z X Y = invalid) ∧
    (∀ a, X = .inf a → isFinite Y → lane .add = (f.code a f.infMag, Flags.none) ∧ lane .sub = (f.code a f.infMag, Flags.none))

/-- R93: VRCP, VDIV, VSQRT and VRSQ of finite operands that are not 0 round once, to nearest, a number that stands within one part in 2^60
of the quotient or root; an exact quotient of VDIV or root of VSQRT is that number. -/
def QuotientsAndRootsClauses : Prop :=
  ∀ (x y m n : Nat) (a b : Bool) (e g : Int), fp32.value x = .fin a m e → fp32.value y = .fin b n g → m ≠ 0 → n ≠ 0 →
    (∃ k i, specialValue rcpOf x = fp32.round .rne 0 (.fin a k i) ∧ i + e ≤ 0 ∧ close (k * m) (2 ^ (-(i + e)).toNat)) ∧
    (∃ k i, divValue x y = fp32.round .rne 0 (.fin (a != b) k i) ∧ i + g ≤ e ∧ close (k * n) (m * 2 ^ (e - g - i).toNat) ∧
      (m * 2 ^ (e - g - i).toNat % (2 * n) = 0 → k * n = m * 2 ^ (e - g - i).toNat)) ∧
    (a = false →
      (∃ k i, specialValue sqrtOf x = fp32.round .rne 0 (.fin false k i) ∧ 2 * i ≤ e ∧ close (k * k) (m * 2 ^ (e - 2 * i).toNat) ∧
        ∀ j, 4 * (j * j) = m * 2 ^ (e - 2 * i).toNat → k = 2 * j) ∧
      (∃ k i, specialValue rsqOf x = fp32.round .rne 0 (.fin false k i) ∧ 2 * i + e ≤ 0 ∧ close (k * k * m) (2 ^ (-(2 * i + e)).toNat)))

/-- R93, R94, R224 and Table 3.12: the special operands of the special functions, on FP32 codes, and results that are exact. -/
def SpecialOperandsClauses : Prop :=
  ∀ (x : Nat), x < 2 ^ 32 →
    let one := 0x3F800000
    let nan := 0x7FC00000
    let inf := 0x7F800000
    let quiet (c : Nat) : Lane := (c, Flags.none)
    let invalid : Lane := (nan, { Flags.none with nv := true })
    let zero (c : Nat) : Lane := (c, { Flags.none with dz := true })
    let range : Lane := (nan, { Flags.none with rr := true })
    (fp32.value x = .nan → ∀ f ∈ [exp2Of, log2Of, rcpOf, rsqOf, sqrtOf, trigOf false, trigOf true],
      specialValue f x = quiet nan ∧ tanhValue x = quiet nan) ∧
    (∀ a e, fp32.value x = .fin a 0 e →
      specialValue exp2Of x = quiet one ∧ specialValue log2Of x = zero 0xFF800000 ∧ specialValue (trigOf false) x = quiet x ∧
      specialValue (trigOf true) x = quiet one ∧ specialValue rcpOf x = zero (if a then 0xFF800000 else inf) ∧
      specialValue rsqOf x = zero (if a then 0xFF800000 else inf) ∧ specialValue sqrtOf x = quiet x ∧ tanhValue x = quiet x) ∧
    (∀ a, fp32.value x = .inf a →
      specialValue exp2Of x = quiet (if a then 0 else inf) ∧ specialValue log2Of x = (if a then invalid else quiet inf) ∧
      (∀ cosine, specialValue (trigOf cosine) x = (nan, { Flags.none with nv := true, rr := true })) ∧
      specialValue rcpOf x = quiet (if a then 0x80000000 else 0) ∧ specialValue rsqOf x = (if a then invalid else quiet 0) ∧
      specialValue sqrtOf x = (if a then invalid else quiet inf)) ∧
    (∀ m e, m ≠ 0 → fp32.value x = .fin true m e →
      specialValue log2Of x = invalid ∧ specialValue rsqOf x = invalid ∧ specialValue sqrtOf x = invalid) ∧
    (∀ a m e, fp32.value x = .fin a m e →
      let size := (unitsOf (min e 0) (fp32.value x)).natAbs
      let unit := 2 ^ (-(min e 0)).toNat
      (2 ^ 20 * unit ≤ size → ∀ cosine, specialValue (trigOf cosine) x = range) ∧
      (16 * unit ≤ size → tanhValue x = ((if a then 0xBF800000 else one), { Flags.none with nx := true })) ∧
      (m ≠ 0 → 2 ^ 12 * size < unit → tanhValue x = (x, { Flags.none with nx := true })) ∧
      (∀ j : Int, -126 ≤ j → j ≤ 127 → unitsOf (min e 0) (fp32.value x) = j * unit →
        specialValue exp2Of x = quiet ((j + 127).toNat * 2 ^ 23)) ∧
      (∀ b : Nat, a = false → m = 2 ^ b → specialValue log2Of x = fp32.round .rne 0 (FVal.ofInt (e + b)) ∧ (specialValue log2Of x).2 = Flags.none))

/-- R85 to R94, R217, R223, R224: what the functions of a lane compute: one rounding of the exact sum or product, quotients and roots,
special operands and exact results, together. The closeness of quotients and roots before their rounding is a property of the model's
procedure, which the rules leave open. -/
def Obligations.FloatElements : Prop :=
  FloatRoundingClauses ∧ IntegerRoundingClauses ∧ FloatLanesClauses ∧ QuotientsAndRootsClauses ∧ SpecialOperandsClauses

/-! ### Guards, control and special registers (ch. 7) -/

/-- The instructions whose guard acts element by element or that do a part of their effect under a false guard (R119, R86). -/
def guardByParts : Instr → Bool
  | .vadd .. | .vsub .. | .vmul .. | .vfma .. | .vfms .. | .vmin .. | .vmax .. | .vabs .. | .vneg .. | .vcmp .. | .vsel .. => true
  | .vand .. | .vor .. | .vxor .. | .vnot .. | .vshl .. | .vshr .. | .vsar .. | .vcvt .. | .vrcp .. | .vrsq .. | .vsqrt .. => true
  | .vdiv .. | .vexp2 .. | .vlog2 .. | .vsin .. | .vcos .. | .vtanh .. | .vred .. | .vmaxi .. | .vscan .. | .vperm .. => true
  | .vbcast .. | .vrot .. | .vld .. | .vst .. | .vlds .. | .vsts .. | .vins .. | .vext .. | .viota .. | .vrngF32 .. => true
  | .vrngU32 .. | .mpush .. | .minv .. | .mpop .. | .vbrz .. | .vheap .. | .vheapr .. | .vheapc .. | .vpopc .. | .vmovm .. => true
  | .mcvt .. => true
  | _ => false

/-- The instructions that enter the command queue of X (R251). -/
def entersQueue : Instr → Bool
  | .xmov .. | .xmovs .. | .xgath .. | .xscat .. | .xunpk .. | .xfill .. | .xhash .. | .xapp .. => true
  | _ => false

/-- R118, R119: NOP has no effect beyond its tokens, and neither has any instruction whose guard is false, but for those whose guard acts by
element and MCVT, whose retirement steps the counter of STO (R86), and VBRZ, which falls through. A command of X whose guard is false keeps
its place behind earlier commands: it retires after them, as an entry that does nothing else (R20, R251; its form in the queue is log entry
87). -/
def Obligations.FalseGuardLeavesTokensOnly : Prop :=
  (∀ (h : Hdr) (s : State), Issues h s → Changes (exec (.nop h) s) h s id) ∧
  (∀ (i : Instr) (h : Hdr) (s : State), i.hdr = some h → guardByParts i = false → Ready h s → Onward h (landed s) →
    (landed s).guardHolds h = false → (entersQueue i = true → (begun h s).here.xqueue = []) → Changes (exec i s) h s id) ∧
  (∀ (i : Instr) (h : Hdr) (s : State), i.hdr = some h → entersQueue i = true → Ready h s → (landed s).guardHolds h = false →
    (begun h s).here.xqueue ≠ [] → (begun h s).here.xqueue.length < 16 →
    ∃ c : XCommand, c.void = true ∧ c.post = h.post ∧ c.instr = i ∧
      exec i s = .next (((begun h s).withHere (fun l => { l with xqueue := l.xqueue ++ [c] })).moveOn h)) ∧
  (∀ (h : Hdr) (d a : Nat) (i32 : Bool) (target : Format) (rnd : Rounding) (s : State), Ready h s → s.cur.stream ≠ .v → Onward h s →
    s.guardHolds h = false → ∃ t, exec (.mcvt h d a i32 target rnd) s = .next t ∧ Stepped h s t ∧
      Registers s.me t.me (if rnd = .sto then oneReg 15 (s.me.gReg 15 + 1) else noReg) noReg noReg noReg) ∧
  (∀ (h : Hdr) (a : Nat) (tgt : Target) (s : State), VectorIssues h s →
    ((begun h s).here.v.vqReg h.guard).getLsbD 0 = h.sense → ChangesSlot (exec (.vbrz h a tgt) s) h s id)

/-- R170 to R173: a branch that is taken enters the line of its target at its word; CALL and CALLR write the link to g63, after CALLR has
read its operand; LOOP counts l[d] down and falls through at 0 and from 1. -/
def BranchesClauses : Prop :=
  ∀ (h : Hdr) (a d : Nat) (tgt : Target) (s : State), Ready h s → (landed s).guardHolds h = true →
    let k := begun h s
    let line := (k.me.line.va : Int) + 64 * tgt.line
    let n := k.me.lReg d
    (0 ≤ line → line ≤ 2 ^ 57 - 64 → ∀ l, (landed s).enterAt s.cur (line.toNat + 4 + 4 * tgt.word) = .ok l →
      let pc := line.toNat + 4 + 4 * tgt.word
      (∃ t, exec (.br h tgt) s = .next t ∧ Jumped h k t pc l ∧ Registers k.me t.me noReg noReg noReg noReg) ∧
      (∃ t, exec (.call h tgt) s = .next t ∧ Jumped h k t pc l ∧ Registers k.me t.me (oneReg 63 (linkOf h k.me)) noReg noReg noReg) ∧
      (n ≠ 0 → n ≠ 1 →
        ∃ t, exec (.loop h d tgt) s = .next t ∧ Jumped h k t pc l ∧ Registers k.me t.me noReg noReg (anyReg d (n - 1)) noReg)) ∧
    (∀ l, (k.rg a).toNat / 2 ^ 61 % 8 = 0 → (k.rg a).toNat % 4 = 0 → 4 ≤ (k.rg a).toNat % 64 →
      (landed s).enterAt s.cur (k.rg a).toNat = .ok l →
      (∃ t, exec (.jmpr h a) s = .next t ∧ Jumped h k t (k.rg a).toNat l ∧ Registers k.me t.me noReg noReg noReg noReg) ∧
      (∃ t, exec (.ret h a) s = .next t ∧ Jumped h k t (k.rg a).toNat l ∧ Registers k.me t.me noReg noReg noReg noReg) ∧
      (∃ t, exec (.callr h a) s = .next t ∧ Jumped h k t (k.rg a).toNat l ∧
        Registers k.me t.me (oneReg 63 (linkOf h k.me)) noReg noReg noReg)) ∧
    (s.cur.stream ≠ .v → Onward h s →
      (n = 0 → ∃ t, exec (.loop h d tgt) s = .next t ∧ Stepped h s t ∧ Registers s.me t.me noReg noReg noReg noReg) ∧
      (n = 1 → ∃ t, exec (.loop h d tgt) s = .next t ∧ Stepped h s t ∧ Registers s.me t.me noReg noReg (anyReg d 0) noReg)) ∧
    (s.cur.stream = .v → Onward h (landed s) →
      (n = 0 → ChangesSlot (exec (.loop h d tgt) s) h s id) ∧ (n = 1 → VWrites (exec (.loop h d tgt) s) h s (anyReg d 0) noReg))

/-- R104, R106, R170, R171: a register target is checked for SPACE, then for ALIGN, with TVAL its value; a target line outside
[0, 2^57 − 64] traps SPACE with TVAL the branch's line. The branch itself traps, no link is written, and LOOP counts nothing down. -/
def BranchTrapsClauses : Prop :=
  ∀ (h : Hdr) (a : Nat) (tgt : Target) (s : State), Ready h s → (landed s).guardHolds h = true →
    let v := (begun h s).rg a
    let line := ((landed s).me.line.va : Int) + 64 * tgt.line
    let space : TrapInfo := { cause := 0x07, sub := 0, tval := v }
    let align : TrapInfo := { cause := 0x06, sub := 0, tval := v }
    let out : TrapInfo := { cause := 0x07, sub := 0, tval := BitVec.ofNat 64 (landed s).me.line.va }
    (TrapsAtOnce s space → v.toNat / 2 ^ 61 % 8 ≠ 0 →
      exec (.jmpr h a) s = .next (trapped s space) ∧ exec (.ret h a) s = .next (trapped s space) ∧
      exec (.callr h a) s = .next (trapped s space)) ∧
    (TrapsAtOnce s align → v.toNat / 2 ^ 61 % 8 = 0 → v.toNat % 4 ≠ 0 ∨ v.toNat % 64 < 4 →
      exec (.jmpr h a) s = .next (trapped s align) ∧ exec (.ret h a) s = .next (trapped s align) ∧
      exec (.callr h a) s = .next (trapped s align)) ∧
    (TrapsAtOnce s out → line < 0 ∨ 2 ^ 57 - 64 < line →
      exec (.br h tgt) s = .next (trapped s out) ∧ exec (.call h tgt) s = .next (trapped s out) ∧
      ∀ d, (begun h s).me.lReg d ≠ 0 → (begun h s).me.lReg d ≠ 1 → exec (.loop h d tgt) s = .next (trapped s out))

/-- R231: VBRZ branches where no lane of its predicate is set under the mask. -/
def VectorBranchClauses : Prop :=
  ∀ (h : Hdr) (a : Nat) (tgt : Target) (s : State), VectorIssues h s →
    let k := begun h s
    ((k.here.v.vqReg h.guard).getLsbD 0 != h.sense) = true →
    (k.me.vqReg a &&& k.here.maskTop ≠ 0 → ChangesSlot (exec (.vbrz h a tgt) s) h s id) ∧
    (k.me.vqReg a &&& k.here.maskTop = 0 →
      let line := (k.me.line.va : Int) + 64 * tgt.line
      0 ≤ line → line ≤ 2 ^ 57 - 64 →
      ∀ l, (landed s).enterAt s.cur (line.toNat + 4 + 4 * tgt.word) = .ok l →
        ∃ t, exec (.vbrz h a tgt) s = .next t ∧ t.me.pc = line.toNat + 4 + 4 * tgt.word ∧ t.me.line = l ∧ t.me.entry = .inLine ∧
          (∀ x, Memory.byte t.mem x = Memory.byte k.mem x) ∧ Registers k.me t.me noReg noReg noReg noReg)

/-- Branches, their traps, and the branch of a vector mask, together. That LOOP counts l[d] down at its issue in V is the model's reading:
log entry 7. -/
def Obligations.Branches : Prop := BranchesClauses ∧ BranchTrapsClauses ∧ VectorBranchClauses

/-- R18, R105, R174: HALT, and the last instruction of a line with LAST set, halt their stream; while another stream of the unit runs,
nothing else happens. -/
def StreamHaltClauses : Prop :=
  ∀ (h : Hdr) (s : State), Ready h s → s.cur.stream ≠ .v → s.guardHolds h = true →
    (∃ st, st ≠ s.cur.stream ∧ (s.here.stream st).halted = false) →
    (∃ t, exec (.halt h) s = .next t ∧ OnlyStream s t ∧ t.me.halted = true ∧ t.me.retired = s.me.retired + 1 ∧
      TokensMoved h s.cur.stream s.here t.here ∧ Registers s.me t.me noReg noReg noReg noReg) ∧
    (s.me.line.count ≤ wordIndex s.me.pc + h.words → s.me.line.last = true →
      ∃ t, exec (.nop h) s = .next t ∧ OnlyStream s t ∧ t.me.halted = true ∧ t.me.retired = s.me.retired + 1 ∧
        TokensMoved h s.cur.stream s.here t.here ∧ Registers s.me t.me noReg noReg noReg noReg)

/-- R174, R210, R211: HALT of V halts it at once, while its results in flight go on; another stream runs, or some result is still to land. -/
def VectorHaltClauses : Prop :=
  ∀ (h : Hdr) (s : State), Ready h s → s.cur.stream = .v → (landed s).guardHolds h = true →
    let k := begun h s
    let flight := k.here.vflight.map (fun e => { e with offset := e.offset - 1 }) ++ postEntry h
    ((∃ st, st ≠ .v ∧ (s.here.stream st).halted = false) ∨ flight ≠ []) →
    ∃ t, exec (.halt h) s = .next t ∧ t = { k with cells := t.cells } ∧ (∀ a, Memory.byte t.mem a = Memory.byte k.mem a) ∧
      (∀ u, u ≠ s.cur.slot → t.slot u = k.slot u) ∧ (∀ c n, (t.cell c).tile n = (k.cell c).tile n) ∧
      t.here = { k.here with v := t.here.v, vflight := flight } ∧ t.here.v.halted = true ∧ t.here.v.pc = k.here.v.pc ∧
      Registers k.here.v t.here.v noReg noReg noReg noReg

/-- R18, R37, R385, R391: the halt of the last stream that runs, with nothing in flight, ends the unit: completed, or as cancelled after it
took CANCEL. Its slot holds no unit and no token, its registers stay as they are, and its launch counts it. -/
def UnitEndsClauses : Prop :=
  ∀ (h : Hdr) (s : State) (b : Binding) (x : UnitSt) (l : Launch), Ready h s → (landed s).guardHolds h = true →
    let k := begun h s
    let u := s.cur.slot
    let how := if k.here.tookCancel then 2 else 1
    (∀ st, st ≠ s.cur.stream → (k.here.stream st).halted = true) → k.here.vflight = [] → (s.cur.stream = .v → h.post = none) →
    k.here.mflight = none → k.here.xqueue = [] → k.here.bound = some b → Map.find k.launches b.unit.launch = some l →
    l.units[b.unit.index]? = some x → x.status = .bound u →
    ∃ t, exec (.halt h) s = .next t ∧ (t.slot u).bound = none ∧ (∀ p c, (t.slot u).tokens p c = 0) ∧
      (∀ st, ((t.slot u).stream st).halted = true ∧ Registers (k.here.stream st) ((t.slot u).stream st) noReg noReg noReg noReg) ∧
      (t.slot u).vrows = k.here.vrows ∧ (t.slot u).sr = k.here.sr ∧ (t.slot u).mstack = k.here.mstack ∧ (t.slot u).heap = k.here.heap ∧
      (l.state = 0 → l.ended + 1 < l.units.length → ∃ m, Map.find t.launches b.unit.launch = some m ∧ m.ended = l.ended + 1 ∧
        (m.units[b.unit.index]?).map (·.status) = some (.ended how) ∧ m.state = 0)

/-- A stream's end, V's, and a unit's, together. That the registers stay in a slot without a unit is the model's reading: log entry 100. -/
def Obligations.Halting : Prop := StreamHaltClauses ∧ VectorHaltClauses ∧ UnitEndsClauses

/-- R175 to R177 and Tables 1.5 to 1.9, 13.1 to 13.3: what CVTA, TSPC and MFS answer. -/
def AddressAndSpecialReadsClauses : Prop :=
  ∀ (h : Hdr) (d a n : Nat) (s : State), Issues h s →
    let k := begun h s
    let u := s.cur.slot
    let x := (landed s).rg a
    let b := k.binding u
    (∃ v, ResultQ (exec (.tspc h d a n) s) h s d v ∧ (v = true ↔ x.toNat / 2 ^ 61 = n)) ∧
    (∃ v, ResultG (exec (.cvta h d a 0) s) h s d v ∧
      (x.toNat / 2 ^ 61 ≠ 1 → x.toNat / 2 ^ 61 ≠ 3 → v = x) ∧
      (u.cell < 512 → x.toNat / 2 ^ 61 = 1 → v = BitVec.ofNat 64 (2 * 2 ^ 61 + (u.cell % 8) * 2 ^ 57 + x.toNat % 2 ^ 57)) ∧
      (u.cell < 512 → x.toNat / 2 ^ 61 = 3 →
        v = BitVec.ofNat 64 (4 * 2 ^ 61 + (u.cell / 8 % 16) * 2 ^ 57 +
          (x.toNat % 2 ^ 57 + (if b.size < 8 then 2 ^ 20 * (b.base % 8) else 0)) % 2 ^ 57))) ∧
    (∃ v, ResultG (exec (.cvta h d a 1) s) h s d v ∧
      (x.toNat / 2 ^ 61 ≠ 2 → x.toNat / 2 ^ 61 ≠ 4 → v = x) ∧
      (u.cell < 512 → x.toNat / 2 ^ 61 = 2 →
        v = if x.toNat / 2 ^ 57 % 16 = u.cell % 8 then BitVec.ofNat 64 (2 ^ 61 + x.toNat % 2 ^ 57) else x) ∧
      (u.cell < 512 → x.toNat / 2 ^ 61 = 4 →
        let start := if b.size < 8 then 2 ^ 20 * (b.base % 8) else 0
        let len := 2 ^ 20 * min b.size 8
        let off := x.toNat % 2 ^ 57
        v = if x.toNat / 2 ^ 57 % 16 = u.cell / 8 % 16 ∧ start ≤ off ∧ off < start + len then BitVec.ofNat 64 (3 * 2 ^ 61 + (off - start))
          else x)) ∧
    (∀ f, f < 2 → 512 ≤ u.cell → ResultG (exec (.cvta h d a f) s) h s d x) ∧
    ResultG (exec (.mfs h d 0x01) s) h s d
      (BitVec.ofNat 64 (if 512 ≤ u.cell then 2 ^ 32 else b.size * 2 ^ 32 + b.base * 2 ^ 16 + (u.cell - b.base))) ∧
    ResultG (exec (.mfs h d 0x04) s) h s d (BitVec.ofNat 64 (k.here.sr.level + k.here.sr.ceil * 2 ^ 8)) ∧
    ResultG (exec (.mfs h d 0x0F) s) h s d (BitVec.ofNat 64 (k.here.sr.vflags.toNat + k.here.mstack.length * 2 ^ 24 +
      k.here.heap.length * 2 ^ 32 + (if k.here.hloss then 2 ^ 41 else 0))) ∧
    (u.cell < 512 →
      let bits (t : Tile) : Nat := (if t.own then 1 else 0) + (if t.dirty then 2 else 0) + (if t.held then 4 else 0)
      ResultG (exec (.mfs h d 0x0C) s) h s d (BitVec.ofNat 64 (bits ((k.cell u.cell).tile 0) + 2 ^ 3 * bits ((k.cell u.cell).tile 1) +
        (if k.here.sr.img0 then 2 ^ 8 else 0) + (if k.here.sr.img1 then 2 ^ 9 else 0)))) ∧
    ResultG (exec (.mfs h d 0x00) s) h s d (BitVec.ofNat 64 ((if 512 ≤ u.cell then 2 ^ 15 else 0) + (if u.h1 then 2 ^ 14 else 0) +
      dieOf u.cell * 2 ^ 12 + clusterOf u.cell * 2 ^ 8 + rankOf u.cell * 2 ^ 5)) ∧
    ResultG (exec (.mfs h d 0x02) s) h s d (BitVec.ofNat 64 (b.home * 2 ^ 14 + b.handle)) ∧
    ResultG (exec (.mfs h d 0x03) s) h s d (BitVec.ofNat 64 ((if b.prot then 16 else 0) + b.part)) ∧
    ResultG (exec (.mfs h d 0x05) s) h s d (BitVec.ofNat 64 k.cyc) ∧
    ResultG (exec (.mfs h d 0x08) s) h s d k.here.sr.tvec ∧ ResultG (exec (.mfs h d 0x09) s) h s d k.here.sr.tcause ∧
    ResultG (exec (.mfs h d 0x0A) s) h s d k.here.sr.tval ∧ ResultG (exec (.mfs h d 0x0B) s) h s d k.here.sr.tsave ∧
    ResultG (exec (.mfs h d 0x0E) s) h s d k.here.sr.cslive ∧
    (512 ≤ u.cell → ResultG (exec (.mfs h d 0x0C) s) h s d 0 ∧ ResultG (exec (.mfs h d 0x0D) s) h s d 0) ∧
    (u.cell < 512 → ResultG (exec (.mfs h d 0x0D) s) h s d k.here.sr.mprog)

/-- A number that names no special register (Table 1.5). -/
def reservedSpecial (n : Nat) : Prop := n = 0x06 ∨ n = 0x07 ∨ 0x10 ≤ n

/-- R30, R177, R205: user mode writes TVEC, VSTAT and CSLIVE, and any other register traps PRIV with TVAL the register's number; in
supervisor mode a register that cannot be written ignores the write; only writable fields change. A reserved number traps ILLREG in either
mode, with the instruction's address as TVAL, and so does a read of one. AOWN, in a compute cell, sets OWN, DIRTY and HELD of both tiles and
the slot's image marks, and leaves the rows of the tiles. The instruction CSLIVE, and in either mode a write of the register, set the live
window where no unit of another micro-context stands beside: whole pages, up to 2^20. -/
def SpecialWritesClauses : Prop :=
  ∀ (h : Hdr) (d a b : Nat) (s : State), Issues h s →
    let k := begun h s
    let x := k.rg a
    let writes (n : Nat) (f : Specials → Specials) : Prop := Changes (exec (.mts h n a) s) h s (fun l => { l with sr := f l.sr })
    writes 0x08 (fun r => { r with tvec := x &&& 0x001FEFFEFFFFFFC0 }) ∧
    writes 0x0F (fun r => { r with vflags := x.setWidth 8 }) ∧
    (k.userMode s.cur = false →
      writes 0x04 (fun r => { r with level := min (x.toNat % 32) r.ceil }) ∧
      writes 0x09 (fun r => { r with tcause := x &&& 0x3FFFFF }) ∧
      writes 0x0A (fun r => { r with tval := x }) ∧
      writes 0x0B (fun r => { r with tsave := x &&& 0xFFFFFFFFFFFF0000 }) ∧
      (s.cur.slot.cell < 512 → writes 0x0D (fun r => { r with mprog := x &&& 0xFFFFFFFFFF0000BD })) ∧
      (512 ≤ s.cur.slot.cell → writes 0x0C id ∧ writes 0x0D id) ∧
      (s.cur.slot.cell < 512 →
        let owned (t : Tile) (i : Nat) : Tile := { t with own := x.getLsbD i, dirty := x.getLsbD (i + 1), held := x.getLsbD (i + 2) }
        ∃ t, exec (.mts h 0x0C a) s = .next t ∧ t = { k with cells := t.cells } ∧
          (∀ j, Memory.byte t.mem j = Memory.byte k.mem j) ∧ (∀ v, v ≠ s.cur.slot → t.slot v = k.slot v) ∧
          (t.cell s.cur.slot.cell).tile 0 = owned ((k.cell s.cur.slot.cell).tile 0) 0 ∧
          (t.cell s.cur.slot.cell).tile 1 = owned ((k.cell s.cur.slot.cell).tile 1) 3 ∧
          (∀ c n, c ≠ s.cur.slot.cell → (t.cell c).tile n = (k.cell c).tile n) ∧
          t.here.sr = { k.here.sr with img0 := x.getLsbD 8, img1 := x.getLsbD 9 } ∧
          Registers k.me t.me noReg noReg noReg noReg ∧ t.here.window = k.here.window ∧ t.here.handler = k.here.handler) ∧
      (d < 0x04 ∨ d = 0x05 → writes d id)) ∧
    (k.userMode s.cur = true → d < 0x06 ∨ (0x09 ≤ d ∧ d ≤ 0x0D) →
      TrapsAtOnce s { cause := 0x05, sub := 0, tval := BitVec.ofNat 64 d } →
      exec (.mts h d a) s = .next (trapped s { cause := 0x05, sub := 0, tval := BitVec.ofNat 64 d })) ∧
    (reservedSpecial d → TrapsAtOnce s { cause := 0x04, sub := 0, tval := BitVec.ofNat 64 s.me.pc } →
      exec (.mts h d a) s = .next (trapped s { cause := 0x04, sub := 0, tval := BitVec.ofNat 64 s.me.pc }) ∧
      exec (.mfs h a d) s = .next (trapped s { cause := 0x04, sub := 0, tval := BitVec.ofNat 64 s.me.pc })) ∧
    (k.foreignNeighbour s.cur.slot = false →
      (let off := x.toNat / 2 ^ 12 % 2 ^ 8 * 2 ^ 12
       writes 0x0E (fun r => { r with cslive := BitVec.ofNat 64 (off + min (x.toNat / 2 ^ 33 % 2 ^ 9 * 2 ^ 12) (2 ^ 20 - off) * 2 ^ 21) })) ∧
      (let start := if x.toNat / 2 ^ 61 = 1 then x.toNat % 2 ^ 57 else x.toNat
       let n := (k.rg b).toNat
       let lo := start / 2 ^ 12 * 2 ^ 12
       let hi := (min (start + n) (2 ^ 20) + 2 ^ 12 - 1) / 2 ^ 12 * 2 ^ 12
       Changes (exec (.cslive h a b) s) h s (fun l => { l with sr := { l.sr with
         cslive := if 2 ^ 20 ≤ start ∨ n = 0 then 0 else BitVec.ofNat 64 (lo + (hi - lo) * 2 ^ 21) } })))

/-- Addresses and special registers, read and written, together. That MTS has its effect in V at its issue is the model's reading: log
entry 7. -/
def Obligations.AddressesAndSpecialRegisters : Prop := AddressAndSpecialReadsClauses ∧ SpecialWritesClauses

/-! ### Memory, synchronisation and system instructions (ch. 8) -/

/-- R182, R183, R129: LD and LDA read their bytes, little-endian, and ST and STR write the low bytes of g[d], at g[a] + g[b] + disp, where
the checks of R179 pass and lead to byte number k of the stores. -/
def LoadsAndStoresClauses : Prop :=
  ∀ (h : Hdr) (d a b : Nat) (lsz : LoadSize) (ssz : StoreSize) (disp : Int) (ord : MemOrder) (scope : Scope) (s : State),
    Issues h s → s.cur.stream = .s →
    let x := s.rg a + s.rg b + BitVec.ofInt 64 disp
    let n := LoadSize.bytes lsz
    let m := StoreSize.bytes ssz
    (∀ k s1, (begun h s).sAccess .load true x n n = .ok (k, s1) →
      Loads (exec (.ld h d a b lsz disp) s) h s d (loadedWord s k n (LoadSize.signed lsz))) ∧
    (∀ k s1, (begun h s).sAccess .load false x n n = .ok (k, s1) →
      Loads (exec (.lda h d a b lsz disp ord scope) s) h s d (loadedWord s k n (LoadSize.signed lsz))) ∧
    ((begun h s).sideCheck x m = none →
      (∀ k s1, (begun h s).sAccess .store true x m m = .ok (k, s1) →
        ∃ t, exec (.st h d a b ssz disp) s = .next t ∧ AccessFrame h s t ∧ Stored s t k m (s.rg d).toNat ∧
          Registers s.me t.me noReg noReg noReg noReg) ∧
      (∀ k s1, (begun h s).sAccess .store false x m m = .ok (k, s1) →
        ∃ t, exec (.str h d a b ssz disp ord scope) s = .next t ∧ AccessFrame h s t ∧ Stored s t k m (s.rg d).toNat ∧
          Registers s.me t.me noReg noReg noReg noReg))

/-- The answer of an atomic: the old value goes to g[d] and the new one, if there is one, to memory. -/
def swapsAt (o : Answer) (h : Hdr) (s : State) (d k n : Nat) (sgn : Bool) (new : Nat) : Prop :=
  ∃ t, o = .next t ∧ AccessFrame h s t ∧ Registers s.me t.me (oneReg d (loadedWord s k n sgn)) noReg noReg noReg ∧ Stored s t k n new

/-- R185: an atomic reads its location and writes the new value of Table 8.3 in one step; ACAS that finds another value writes nothing.
Its readings of what the rules leave open are the model's: log entry 17. -/
def Obligations.Atomics : Prop :=
  ∀ (h : Hdr) (d a b c : Nat) (sz : AtomicSize) (ms : MinMaxSize) (ord : MemOrder) (scope : Scope) (s s1 : State) (k : Nat),
    Issues h s → s.cur.stream = .s →
    let n := AtomicSize.bytes sz
    let m := MinMaxSize.bytes ms
    let x := natOf (s.load k n)
    let y := (s.rg b).toNat % 2 ^ (8 * n)
    let p := natOf (s.load k m)
    let q := (s.rg b).toNat % 2 ^ (8 * m)
    let less (u v : Nat) : Prop := if MinMaxSize.signed ms then signed (8 * m) u < signed (8 * m) v else u < v
    ((begun h s).sideCheck (s.rg a) n = none → (begun h s).sAccess .atomic false (s.rg a) n n = .ok (k, s1) →
      swapsAt (exec (.aadd h d a b sz ord scope) s) h s d k n false ((x + y) % 2 ^ (8 * n)) ∧
      swapsAt (exec (.aand h d a b sz ord scope) s) h s d k n false (Nat.land x y) ∧
      swapsAt (exec (.aor h d a b sz ord scope) s) h s d k n false (Nat.lor x y) ∧
      swapsAt (exec (.axor h d a b sz ord scope) s) h s d k n false (Nat.xor x y) ∧
      swapsAt (exec (.axchg h d a b sz ord scope) s) h s d k n false y ∧
      (x = y → swapsAt (exec (.acas h d a b c sz ord scope) s) h s d k n false ((s.rg c).toNat % 2 ^ (8 * n))) ∧
      (x ≠ y → Loads (exec (.acas h d a b c sz ord scope) s) h s d (loadedWord s k n false))) ∧
    ((begun h s).sideCheck (s.rg a) m = none → (begun h s).sAccess .atomic false (s.rg a) m m = .ok (k, s1) →
      (less q p → swapsAt (exec (.amin h d a b ms ord scope) s) h s d k m (MinMaxSize.signed ms) q) ∧
      (¬ less q p → swapsAt (exec (.amin h d a b ms ord scope) s) h s d k m (MinMaxSize.signed ms) p) ∧
      (less p q → swapsAt (exec (.amax h d a b ms ord scope) s) h s d k m (MinMaxSize.signed ms) q) ∧
      (¬ less p q → swapsAt (exec (.amax h d a b ms ord scope) s) h s d k m (MinMaxSize.signed ms) p))

/-- R179: an access of S that leaves its space traps SPACE, whatever its alignment; one that is in its space but not aligned to its size
traps ALIGN; TVAL is its address. -/
def AccessTrapsClauses : Prop :=
  ∀ (h : Hdr) (d a b : Nat) (lsz : LoadSize) (ssz : StoreSize) (disp : Int) (s : State),
    Ready h s → s.guardHolds h = true → s.cur.stream = .s → s.here.window = none →
    let x := s.rg a + s.rg b + BitVec.ofInt 64 disp
    let space : TrapInfo := { cause := 0x07, sub := 0, tval := x }
    let align : TrapInfo := { cause := 0x06, sub := 0, tval := x }
    let ok (n : Nat) : Bool := (begun h s).spaceOk s.cur ((begun h s).binding s.cur.slot) x n
    (TrapsAtOnce s space →
      (ok (LoadSize.bytes lsz) = false → exec (.ld h d a b lsz disp) s = .next (trapped s space)) ∧
      (ok (StoreSize.bytes ssz) = false → exec (.st h d a b ssz disp) s = .next (trapped s space))) ∧
    (TrapsAtOnce s align →
      (ok (LoadSize.bytes lsz) = true → x.toNat % 2 ^ 57 % LoadSize.bytes lsz ≠ 0 → exec (.ld h d a b lsz disp) s = .next (trapped s align)) ∧
      (ok (StoreSize.bytes ssz) = true → x.toNat % 2 ^ 57 % StoreSize.bytes ssz ≠ 0 →
        exec (.st h d a b ssz disp) s = .next (trapped s align)))

/-- Loads and stores of S, with the traps of an access, together.
Its readings of what the rules leave open are the model's: log entry 17. -/
def Obligations.LoadsStoresAndTheirTraps : Prop := LoadsAndStoresClauses ∧ AccessTrapsClauses

/-- R187 to R190: a fence orders accesses that the model makes one at a time, so it only goes on, in X once its queue is empty; RFENCE drops
the slot's record-cache entries; TKSEND makes a token where there is room and TKWAIT takes one. -/
def FencesAndTokensClauses : Prop :=
  ∀ (h : Hdr) (p : Stream) (ord : MemOrder) (scope : Scope) (s : State), Issues h s →
    let k := begun h s
    (s.cur.stream = .x → k.here.xqueue = []) →
    Changes (exec (.fence h ord scope) s) h s id ∧
    (s.cur.stream ≠ .v →
      (∃ t, exec (.rfence h) s = .next t ∧ Advanced h s t ∧ Registers s.me t.me noReg noReg noReg noReg ∧
        t = { s with cells := t.cells } ∧ (∀ x, Memory.byte t.mem x = Memory.byte s.mem x) ∧
        (t.cell s.cur.slot.cell).recs = (s.cell s.cur.slot.cell).recs.filter (fun e => e.h1 != s.cur.slot.h1)) ∧
      (h.wait = none → h.post = none → s.here.tokens s.cur.stream p + s.here.reserved s.cur.stream p < 16 →
        ∃ t, exec (.tksend h p) s = .next t ∧ OnlyStream s t ∧ Registers s.me t.me noReg noReg noReg noReg ∧
          t.me.retired = s.me.retired + 1 ∧
          ∀ a b, t.here.tokens a b = s.here.tokens a b + (if a = s.cur.stream ∧ b = p then 1 else 0)) ∧
      (h.wait = none → h.post = none → s.here.tokens p s.cur.stream ≠ 0 →
        ∃ t, exec (.tkwait h p) s = .next t ∧ OnlyStream s t ∧ Registers s.me t.me noReg noReg noReg noReg ∧
          t.me.retired = s.me.retired + 1 ∧
          ∀ a b, t.here.tokens a b = s.here.tokens a b - (if a = p ∧ b = s.cur.stream then 1 else 0))) ∧
    (s.cur.stream = .v → k.here.tokens .v p + k.here.reserved .v p + (if h.post = some p then 1 else 0) < 16 →
      k.here.vflight.length + (if h.post = none then 0 else 1) < 32 →
      ∃ t, exec (.tksend h p) s = .next t ∧
        VIssued h k t ([{ VEntry.bare with post := some p, width := 0 }] ++ postEntry h))

/-- R192, R197, R199, R200: BARA arrives at a barrier and BARW passes it once its phase has ended; JOIN passes once its child has ended;
CNTRD reads a counter; WAITEV answers it once ENDED reaches the bound or the level has ended. -/
def BarriersAndCountersClauses : Prop :=
  ∀ (h : Hdr) (d a b n level : Nat) (child : Bool) (scope : BarScope) (s : State) (l : Launch), Issues h s → s.cur.stream = .s →
    let k := begun h s
    k.myLaunch = some l →
    let bar := l.barrier n
    let r := k.myUnit
    (Map.find bar.arrived r.index ≠ some bar.phase →
      Changes (exec (.barw h n scope) s) h s id ∧
      Retires (exec (.bara h n scope) s) h s (k.withLaunch r.launch (fun l =>
        ({ l with barriers := Map.set l.barriers n { bar with arrived := Map.set bar.arrived r.index bar.phase } }).settleBarriers))) ∧
    ((∀ m c, k.childOf (s.rg a) = some (m, c) → c.state ≠ 0) → Changes (exec (.join h a) s) h s id) ∧
    WritesG (exec (.cntrd h d a child level) s) h s d (k.counterOf a child level) ∧
    ((k.counterOf a child level).toNat / 2 ^ 62 ≠ 0 ∨ (s.rg b).toNat ≤ (k.counterOf a child level).toNat % 2 ^ 30 →
      WritesG (exec (.waitev h d a b child level) s) h s d (k.counterOf a child level))

/-- Fences, tokens, barriers and counters, together.
Its readings of what the rules leave open are the model's: log entries 17 and 37. -/
def Obligations.SynchronisationInstructions : Prop := FencesAndTokensClauses ∧ BarriersAndCountersClauses

/-- R194 to R196, R198: LAUNCH and LAUNCH.cont report the first failing check in g[d] with q[b] false, in the order of R195, and otherwise
create a child and answer its handle; CANCEL reports whether its target existed and had ended, and cancels a child, the issuing unit, its
launch, or the graph, phase or job around it. -/
def LaunchAndCancelClauses : Prop :=
  ∀ (h : Hdr) (d a b level : Nat) (cont : Bool) (s s1 : State) (bs : List Byte) (l : Launch),
    Issues h s → s.cur.stream = .s → s.here.window = none →
    let k := begun h s
    let o := exec (if cont then .launchCont h d a b else .launch h d a b) s
    let bd := k.binding s.cur.slot
    let invalid := k.recordInvalid bd.part bs ∨ (cont = true ∧ (LaunchRec.ofBytes bs).gsize ≠ l.record.gsize)
    let full := (cont = true ∧ l.contTaken = true) ∨ (cont = false ∧ poolSize ≤ k.poolUsed bd.part)
    let beyond := cont = false ∧ (k.mc bd.handle).quota ≤ k.quotaUsed bd.handle
    let report (r : State) (v : Word) (ok : Bool) : Prop := Retires o h s (r.withMe (fun t => (t.setG d v).setQ b ok))
    k.myLaunch = some l →
    (k.sRead (s.rg a) 64 64 = .ok (bs, s1) →
      (invalid → report s1 3 false) ∧
      (¬ invalid → beyond → report s1 2 false) ∧
      (¬ invalid → ¬ beyond → full → report s1 1 false) ∧
      (¬ invalid → ¬ beyond → ¬ full →
        report (s1.createChild (LaunchRec.ofBytes bs) cont).2
          (Config.launchTag (s1.createChild (LaunchRec.ofBytes bs) cont).1 ++ BitVec.ofNat 32 (s1.createChild (LaunchRec.ofBytes bs) cont).1)
          true)) ∧
    (k.childOf (s.rg a) = none → WritesG (exec (.cancel h d a true level) s) h s d 2) ∧
    (∀ n c, k.childOf (s.rg a) = some (n, c) →
      (c.state ≠ 0 → WritesG (exec (.cancel h d a true level) s) h s d 1) ∧
      (c.state = 0 → Retires (exec (.cancel h d a true level) s) h s ((k.withMe (fun t => t.setG d 0)).cancelLaunch n true))) ∧
    Retires (exec (.cancel h d a false 0) s) h s ((k.withMe (fun t => t.setG d 0)).signal k.myUnit false) ∧
    Retires (exec (.cancel h d a false 1) s) h s ((k.withMe (fun t => t.setG d 0)).cancelLaunch k.myUnit.launch true) ∧
    (∀ jn j, k.myJob = some (jn, j) → 2 ≤ level → level ≤ 4 →
      ((j.counter k.myGraph level).state ≠ 0 → WritesG (exec (.cancel h d a false level) s) h s d 1) ∧
      ((j.counter k.myGraph level).state = 0 →
        Retires (exec (.cancel h d a false level) s) h s ((k.withMe (fun t => t.setG d 0)).cancelJob jn k.myGraph level)))

/-- R37: cancelling a launch that has bound marks it and delivers CANCEL to each of its units, in its slot or kept for its resume;
cancelling the graph, phase or job around a graph, whose launches have all bound, marks that level unless it has ended, and delivers CANCEL
to every bound unit within it. -/
def CancellationClauses : Prop :=
  (∀ (s : State) (n : Nat) (l : Launch) (own : Bool), Map.find s.launches n = some l → l.state = 0 → (∃ x ∈ l.units, x.status ≠ .waiting) →
    let t := s.cancelLaunch n own
    (∃ l1, Map.find t.launches n = some l1 ∧ l1.cancelled = (l.cancelled || own) ∧ l1.record = l.record ∧ l1.ended = l.ended ∧
      ∀ (i : Nat) (x : UnitSt), l.units[i]? = some x → (∀ v, x.status = .bound v → (t.slot v).cancel = true) ∧
        (∀ v, x.status = .saved v → ∃ y, l1.units[i]? = some y ∧ y.cancel = true ∧ y.status = x.status)) ∧
    (∀ m, m ≠ n → Map.find t.launches m = Map.find s.launches m) ∧ t.jobs = s.jobs ∧ t.mem = s.mem) ∧
  (∀ (s : State) (jn g level : Nat) (j : Job), Map.find s.jobs jn = some j → 2 ≤ level → level ≤ 4 → g < j.graphs.length →
    (j.graph g).phase < j.phases.length → (j.counter g level).state = 0 →
    (∀ n ∈ s.launchesIn jn j g level, ∃ l, Map.find s.launches n = some l ∧ l.state = 0 ∧ ∃ x ∈ l.units, x.status ≠ .waiting) →
    let t := s.cancelJob jn g level
    (∃ j1, Map.find t.jobs jn = some j1 ∧ (j1.counter g level).cancelled = true) ∧ t.mem = s.mem ∧
    ∀ (n : Nat) (l : Launch) (i : Nat) (x : UnitSt) (v : SlotId), n ∈ s.launchesIn jn j g level → Map.find s.launches n = some l → l.units[i]? = some x → x.status = .bound v →
      (t.slot v).cancel = true)

/-- Launches, and CANCEL of every level, together.
Its readings of what the rules leave open are the model's: log entries 36, 38 and 40. -/
def Obligations.LaunchAndCancel : Prop := LaunchAndCancelClauses ∧ CancellationClauses

/-- R202, R203: ENQ hands the engine the command bytes at g[a] while fewer than 8 of the unit's commands are outstanding there; DEQ writes
the oldest result to g[a], and all ones where the unit has no command outstanding; both need an own-store address. Its readings of what the
rules leave open are the model's: log entry 43. -/
def Obligations.EngineQueues : Prop :=
  ∀ (h : Hdr) (a : Nat) (e : Engine) (s s1 : State) (bs : List Byte), Issues h s → s.cur.stream = .s →
    let k := begun h s
    let n := match e with
      | .walker => 32
      | .collective => 64
      | .egress => 64
      | .siphon => 32
    (s.here.window = none → (s.rg a).toNat / 2 ^ 61 = 1 → k.sRead (s.rg a) n n = .ok (bs, s1) → k.outstanding k.myUnit e < 8 →
      Retires (exec (.enq h a e) s) h s (s1.accept e bs false).2 ∧
      ∃ c, (s1.accept e bs false).2.commands = s1.commands ++ [c] ∧ c.bytes = bs ∧ c.engine = e ∧ c.unit = k.myUnit ∧ c.die = dieOf s.cur.slot.cell) ∧
    ((s.rg a).toNat / 2 ^ 61 = 1 →
      (∀ x, k.readyResult k.myUnit e = some x → k.sWrite (s.rg a) x.bytes 16 = .ok s1 →
        Retires (exec (.deq h a e) s) h s { s1 with results := s1.results.filter (fun z => decide (z.id ≠ x.id)) }) ∧
      (k.readyResult k.myUnit e = none → k.outstanding k.myUnit e = 0 → k.sWrite (s.rg a) (List.replicate 16 0xFF) 16 = .ok s1 →
        Retires (exec (.deq h a e) s) h s s1)) ∧
    (∀ t, t = ({ cause := 0x07, sub := 0, tval := s.rg a } : TrapInfo) → TrapsAtOnce s t → (s.rg a).toNat / 2 ^ 61 ≠ 1 →
      exec (.deq h a e) s = .next (trapped s t) ∧ (s.here.window = none → exec (.enq h a e) s = .next (trapped s t)))

/-- R206, R207, R204: TRAP and BKPT trap with their immediate as TVAL and their successor noted; ERET traps PRIV in user mode, is a NOP
without a handler, and returns from one; GPOS goes on where no boundary is requested. -/
def SoftwareTrapsAndReturnClauses : Prop :=
  ∀ (h : Hdr) (imm a : Nat) (s : State), Issues h s → s.cur.stream = .s →
    let k := begun h s
    let soft (c : Nat) : State := s.takeTrap s.cur.slot .s { cause := c, sub := 0, tval := BitVec.ofNat 64 imm }
      { report := false, async := false, succ := (s.me.line.successor (wordIndex s.me.pc) h.words).1,
        shalt := (s.me.line.successor (wordIndex s.me.pc) h.words).2 }
    exec (.trap h imm) s = .next (soft 0x12) ∧
    exec (.bkpt h imm) s = .next (soft 0x13) ∧
    (s.me.sup = false → ∀ t, t = ({ cause := 0x05, sub := 0, tval := BitVec.ofNat 64 s.me.pc } : TrapInfo) → TrapsAtOnce s t →
      exec (.eret h) s = .next (trapped s t)) ∧
    (s.me.sup = true → s.here.handler = none → Changes (exec (.eret h) s) h s id) ∧
    (s.me.sup = true → s.here.handler ≠ none → h.post = none → k.areaHeld s.cur.slot = false → exec (.eret h) s = .next (k.returnOut s.cur.slot)) ∧
    ((s.rg a).toNat / 2 ^ 61 % 8 = 0 → (s.rg a).toNat % 4 = 0 → 4 ≤ (s.rg a).toNat % 64 →
      ((∀ l, k.myLaunch = some l → l.request = none) → Changes (exec (.gpos h a) s) h s id) ∧
      (∀ l, k.myLaunch = some l → l.request ≠ none → k.here.quietForGpos = true →
        exec (.gpos h a) s = .next (k.leaveBoundary s.cur.slot (s.rg a).toNat)))

/-- The trap cause of R309 and R310 as TCAUSE holds it: cause, subcode, stream, and the marks REPORT, USER, NEST and ASYNC. -/
def causeWordHas (w : Word) (t : TrapInfo) (st : Stream) (report user async nest : Bool) : Prop :=
  w.toNat % 256 = t.cause ∧ w.toNat / 2 ^ 8 % 256 = t.sub ∧ w.toNat / 2 ^ 16 % 4 = st.code ∧ w.getLsbD 18 = report ∧ w.getLsbD 19 = user ∧
  w.getLsbD 20 = nest ∧ w.getLsbD 21 = async ∧ w.toNat < 2 ^ 22

/-- R312, R314, R331: taking a trap where no handler runs writes TCAUSE and TVAL, gives S the save area, cause and value in g1 to g3, and
starts it at the user handler's line, in user mode, if TVEC enables the cause, the trap was raised in user mode and it is not ACCFIRST, and
else at the firmware's line in supervisor mode, with S's mode noted. No other register of S, no other slot's registers and no tile changes. -/
def TrapEntryClauses : Prop :=
  ∀ (s : State) (u : SlotId) (st : Stream) (i : TrapInfo) (m : TrapMode),
    (s.slot u).handler = none → s.trapHeld u st i.cause = false → i.cause < 256 → i.sub < 256 →
    let l := s.slot u
    let t := s.takeTrap u st i m
    let k := t.slot u
    let user := !(l.stream st).sup
    let vectored := decide (i.cause < 32 ∧ i.cause ≠ 0x0C) && l.sr.tvec.getLsbD (32 + i.cause) &&
      decide (l.sr.tvec.toNat / 64 % 2 ^ 26 ≠ 0) && user
    causeWordHas k.sr.tcause i st m.report user m.async false ∧ k.sr.tval = i.tval ∧ k.sr.tvec = l.sr.tvec ∧ k.sr.tsave = l.sr.tsave ∧
    k.s.gReg 1 = l.sr.tsave ∧ k.s.gReg 2 = k.sr.tcause ∧ k.s.gReg 3 = i.tval ∧
    (∀ n, n ≠ 1 → n ≠ 2 → n ≠ 3 → k.s.gReg n = l.s.gReg n) ∧ (∀ n, k.s.qReg n = l.s.qReg n) ∧
    k.s.halted = false ∧ k.s.entry = .start ∧ k.s.sup = !vectored ∧
    (∃ x, k.handler = some x ∧ x.firmware = (!vectored) ∧ x.sMode = l.s.sup) ∧
    (vectored = true → k.s.pc = l.sr.tvec.toNat / 64 % 2 ^ 26 * 64 + 4) ∧
    (vectored = false → k.s.pc = (Config.handlerLine (s.jalcen (dieOf u.cell))).toNat / 64 * 64 + 4) ∧
    k.mflight = none ∧ k.vflight = l.vflight ∧ k.bound = l.bound ∧
    (∀ c n, (t.cell c).tile n = (s.cell c).tile n) ∧ (∀ w, w ≠ u → t.slot w = s.slot w)

/-- R319, Table 13.4: where the trap record holds its header, the streams' program counters and registers, the tokens and the special
registers; its length is that of its cell's kind. -/
def TrapRecordLayoutClauses : Prop :=
  ∀ (pantry : Bool) (x : RecordHeader) (l : Slot), l.vflight.length ≤ 32 → l.xqueue.length ≤ 16 → l.mstack.length ≤ 16 → l.heap.length ≤ 256 →
    let bs := recordBytes pantry x l
    let gAt (st : Stream) : Nat := match st with
      | .s => 0x400
      | .v => 0x600
      | .m => 0x680
      | .x => 0x700
    bs.length = (if pantry then 0x7800 else 0x5800) ∧
    natAt bs 0 8 = x.tcause.toNat ∧ natAt bs 8 8 = x.tval.toNat ∧
    (x.kind < 4 → natAt bs 16 8 = x.kind + (if x.pend then 2 ^ 8 else 0)) ∧
    (x.cyc < 2 ^ 64 → natAt bs 24 8 = x.cyc) ∧ (x.succ < 2 ^ 64 → natAt bs 32 8 = x.succ) ∧ (x.gpos < 2 ^ 64 → natAt bs 40 8 = x.gpos) ∧
    byteAt bs 48 = (if x.shalt then 1 else 0) ∧
    (∀ st, ((l.stream st).pc < 2 ^ 64 → natAt bs (0x40 + 64 * st.code) 8 = (l.stream st).pc) ∧
      natAt bs (0x48 + 64 * st.code) 8 = (l.stream st).retired.toNat ∧
      (∀ n, n < 4 → natAt bs (0x50 + 64 * st.code + 4 * n) 4 = ((l.stream st).lReg n).toNat) ∧
      byteAt bs (0x60 + 64 * st.code) = (if (l.stream st).halted then 1 else 0) + (if (l.stream st).notStarted then 2 else 0) ∧
      (∀ n, n < (if st = .s then 64 else 16) → natAt bs (gAt st + 8 * n) 8 = ((l.stream st).gReg n).toNat)) ∧
    natAt bs 0xA8 2 = l.vflight.length ∧ natAt bs 0x128 2 = l.xqueue.length ∧
    (∀ p c, l.tokens p c ≤ 16 → byteAt bs (0x140 + (4 * p.code + c.code)) = l.tokens p c) ∧
    natAt bs 0x200 8 = l.vstat.toNat ∧ natAt bs 0x208 8 = l.sr.mprog.toNat ∧ natAt bs 0x210 8 = l.sr.cslive.toNat ∧
    natAt bs 0x218 8 = l.prio.toNat ∧ natAt bs 0x228 8 = l.sr.tvec.toNat ∧
    (∀ n, n < 48 → natAt bs (0x800 + 16 * n) 16 = (l.v.vqReg n).toNat)

/-- R314, R316, R318, R319: where no handler runs, taking a trap writes the record of the slot, its streams stopped as R316 says, to the
pages of the save area that are mapped and keyed, with TCAUSE, TVAL, KIND 0, the cycle and the successor in its header, but to one of host
memory once the sub-stream of posted writes carries them (R410); no other byte of memory changes. -/
def TrapRecordClauses : Prop :=
  ∀ (s : State) (u : SlotId) (st : Stream) (i : TrapInfo) (m : TrapMode),
    (s.slot u).handler = none → s.trapHeld u st i.cause = false → i.cause < 256 → i.sub < 256 →
    let t := s.takeTrap u st i m
    let bs := recordBytes (isPantry u.cell) { tcause := (t.slot u).sr.tcause, tval := i.tval, kind := 0, pend := false, cyc := s.cyc
                                              succ := m.succ, gpos := 0, shalt := m.shalt } (s.slot u).cut
    let pages : List (Option (Nat × Nat)) := s.savePages u .store (s.slot u).sr.tsave.toNat bs.length
    (∀ (j k o : Nat), pages[j]? = some (some (k, o)) → s.keyed k = true → k < 2 ^ 55 ∨ s.linkHeld (s.binding u).part .store = false →
      (∀ (j1 k1 o1 : Nat), j1 ≠ j → pages[j1]? = some (some (k1, o1)) → k + 4096 ≤ k1 ∨ k1 + 4096 ≤ k) →
      ∀ x, x < 4096 → o + x < bs.length → Memory.byte t.mem (k + x) = bs.getD (o + x) 0) ∧
    (∀ x, (∀ k o, some (k, o) ∈ pages → x < k ∨ k + 4096 ≤ x) → Memory.byte t.mem x = Memory.byte s.mem x)

/-- R207, R322: a return from a handler takes the mode noted at the trap and the slot from the record at TSAVE, where the record can be read
and is valid: program counters, registers, tokens and special registers as the record holds them. A recorded trap with PEND 1 is taken
again; else no handler runs after. Memory changes at most in the byte PEND. -/
def ReturnRestoresClauses : Prop :=
  ∀ (s : State) (u : SlotId) (x : Handler) (bs : List Byte) (h : RecordHeader),
    (s.slot u).handler = some x → s.savedBytes u (s.slot u).sr.tsave.toNat (recordSize u.cell) = some bs →
    RecordHeader.ofBytes bs = some h → (slotFrom (isPantry u.cell) bs (s.slot u)).isSome = true →
    (∃ st : Stream, byteAt bs (0x60 + 64 * st.code) % 2 = 0) →
    let t := s.returnFrom u
    let k := t.slot u
    let gAt (st : Stream) : Nat := match st with
      | .s => 0x400
      | .v => 0x600
      | .m => 0x680
      | .x => 0x700
    k.sr.tcause = h.tcause ∧ k.sr.tval = h.tval ∧ k.bound = (s.slot u).bound ∧ (∀ w, w ≠ u → t.slot w = s.slot w) ∧
    (∀ c n, (t.cell c).tile n = (s.cell c).tile n) ∧
    (h.pend = true → k.handler.isSome = true) ∧
    (h.pend = false → k.handler = none ∧ k.s.sup = x.sMode ∧ (∀ a, Memory.byte t.mem a = Memory.byte s.mem a) ∧
      (∀ st, (k.stream st).pc = natAt bs (0x40 + 64 * st.code) 8 ∧ (k.stream st).retired.toNat = natAt bs (0x48 + 64 * st.code) 8 ∧
        (k.stream st).halted = decide (byteAt bs (0x60 + 64 * st.code) % 2 = 1) ∧
        (∀ n, n < 4 → ((k.stream st).lReg n).toNat = natAt bs (0x50 + 64 * st.code + 4 * n) 4) ∧
        (∀ n, 0 < n → n < (if st = .s then 64 else 16) → ((k.stream st).gReg n).toNat = natAt bs (gAt st + 8 * n) 8)) ∧
      (∀ p c, k.tokens p c = byteAt bs (0x140 + (4 * p.code + c.code))) ∧
      k.vflight.length = natAt bs 0xA8 2 ∧ k.xqueue.length = natAt bs 0x128 2 ∧ k.mflight = none ∧
      k.sr.mprog.toNat = natAt bs 0x208 8 ∧ k.sr.tvec = BitVec.ofNat 64 (natAt bs 0x228 8) &&& 0x001FEFFEFFFFFFC0)

/-- Software traps, trap entry, the trap record, and the return from a trap, together.
Its readings of what the rules leave open are the model's: log entries 18, 19 and 20. -/
def Obligations.TrapsAndReturn : Prop :=
  SoftwareTrapsAndReturnClauses ∧ TrapEntryClauses ∧ TrapRecordLayoutClauses ∧ TrapRecordClauses ∧ ReturnRestoresClauses

/-! ### The matrix and the tile-move stream (ch. 10) -/

/-- Whether MPROG records a position for an operation on a tile (R242, Table 10.2). -/
def recorded (w : Word) (op tile : Nat) : Bool := decide (w.toNat / 2 ^ 63 = 1 ∧ w.toNat / 2 ^ 62 % 2 = tile ∧ w.toNat / 2 ^ 59 % 8 = op)

/-- The position that MPROG records for an operation on a tile (R242, Table 10.2): step and row, or the start. -/
def recordedAt (w : Word) (op tile : Nat) : Nat × Nat :=
  if recorded w op tile then (w.toNat / 2 ^ 24 % 2 ^ 30, w.toNat / 2 ^ 54 % 32) else (0, 0)

/-- The answer of a matrix instruction of operation `op` on a tile, or of MZERO, which has none, that begins from a state r in which its
records have been taken: where no slot beside it owns its tiles and no race is found, it is in progress, with its number of steps, from the
position that MPROG records for it, or from its start; one that resumes still holds the rows in which it consumed an error (R246).
Nothing else changes but the owners of its tiles. -/
def BeginsMatrix (o : Answer) (h : Hdr) (s r : State) (i : Instr) (recA recB : BitVec 512) (op : Option (Nat × Nat)) (total : Nat) : Prop :=
  let w := s.here.sr.mprog
  let resumes := match op with
    | some (n, tile) => recorded w n tile
    | none => false
  let at_ := match op with
    | some (n, tile) => recordedAt w n tile
    | none => (0, 0)
  ∀ s1, r.ownTiles s.cur.slot (tilesNamed i) = .ok s1 → s1.accRaceM s.cur.slot i = none →
    s1.cellRace s1.cur (matrixSpans s.cur.slot.cell i (shapeOf recA) (shapeOf recB)) = none →
    ∃ t, o = .next t ∧ t = { s1 with cells := t.cells } ∧ (∀ a, Memory.byte t.mem a = Memory.byte s.mem a) ∧
      (∀ u, u ≠ s.cur.slot → t.slot u = r.slot u) ∧ (∀ c n, (t.cell c).tile n = (s1.cell c).tile n) ∧
      t.here.mflight = some { instr := i, recA := recA, recB := recB, step := at_.1, row := at_.2, total := total, wait := h.wait
                              post := h.post, poisoned := if resumes then s.here.mpoison else 0 } ∧
      t.here = { r.here with mflight := t.here.mflight, m := t.here.m, mpoison := 0 } ∧
      t.me.pc = s.me.pc ∧ t.me.retired = s.me.retired ∧ t.me.halted = s.me.halted ∧ Registers s.me t.me noReg noReg noReg noReg

/-- R239 to R244, R248, R249: a matrix instruction whose records and format pair are valid begins, at the position that MPROG records for
it or at its start, and has not retired. That one resumed still holds the errors it had consumed is the model's reading: log entry 12. Its
other readings of what the rules leave open are log entry 11. -/
def Obligations.MatrixInstructionsBegin : Prop :=
  ∀ (h : Hdr) (d a b : Nat) (i32 : Bool) (target : Format) (rnd : Rounding) (s : State), Issues h s → s.cur.stream = .m →
    let k := begun h s
    BeginsMatrix (exec (.mzero h d) s) h s k (.mzero h d) 0 0 none 1 ∧
    BeginsMatrix (exec (.mcvt h d a i32 target rnd) s) h s k (.mcvt h d a i32 target rnd) 0 0 (some (4, d)) 1 ∧
    (∀ sh rec r, k.takeShape s.cur (s.re a) = .ok (sh, rec, r) → sh.scaled = false →
      (sh.fmt = .fp32 ∨ sh.fmt = .int32 ∨ sh.fmt = .uint32 → BeginsMatrix (exec (.mlda h d a) s) h s r (.mlda h d a) rec 0 (some (2, d)) 1) ∧
      (sh.fmt = .fp32 ∨ sh.fmt = .int32 → BeginsMatrix (exec (.mbias h d a) s) h s r (.mbias h d a) rec 0 (some (5, d)) 1)) ∧
    (∀ sh rec r, k.takeShape s.cur (s.re d) = .ok (sh, rec, r) → sh.scaled = false →
      sh.fmt = .fp32 ∨ sh.fmt = .int32 ∨ sh.fmt = .uint32 → BeginsMatrix (exec (.msta h d a) s) h s r (.msta h d a) rec 0 (some (3, a)) 1) ∧
    (∀ shA recA r shB recB r1, k.takeShape s.cur (s.re a) = .ok (shA, recA, r) → r.takeShape r.cur (s.re b) = .ok (shB, recB, r1) →
      let steps (cls : DotClass) : Nat := (max shA.ext.1 shB.ext.1 + cls.unit - 1) / cls.unit
      (∀ cls, shA.scaled = false → shB.scaled = false → dotClass false shA.fmt shB.fmt = some cls →
        BeginsMatrix (exec (.mma h d a b) s) h s r1 (.mma h d a b) recA recB (some (0, d)) (steps cls)) ∧
      (∀ cls, dotClass true shA.fmt shB.fmt = some cls →
        BeginsMatrix (exec (.mmas h d a b) s) h s r1 (.mmas h d a b) recA recB (some (1, d)) (steps cls)))

/-- R77: the product of two values: NaN of a NaN and of 0 × ∞, else an infinity of an infinity, else the exact product. -/
def IsProduct (x y p : FVal) : Prop :=
  (x = .nan ∨ y = .nan → p = .nan) ∧
  (∀ a, (x = .inf a ∧ y.isZero = true) ∨ (y = .inf a ∧ x.isZero = true) → p = .nan) ∧
  (∀ a, (x = .inf a ∧ y ≠ .nan ∧ y.isZero = false) ∨ (y = .inf a ∧ x ≠ .nan ∧ x.isZero = false) → p = .inf (x.neg != y.neg)) ∧
  (isFinite x → isFinite y → isFinite p ∧ p.neg = (x.neg != y.neg) ∧
    ∀ i j, i ≤ lastBit x → j ≤ lastBit y → unitsOf (i + j) p = unitsOf i x * unitsOf j y)

/-- R78: the value of the products of a block or group: NaN where one is NaN or two infinities differ, else an infinity that is among them,
else a finite value as the test says. -/
def BlockValue (ps : List FVal) (finite : FVal → Prop) (v : FVal) : Prop :=
  (.nan ∈ ps ∨ (.inf true ∈ ps ∧ .inf false ∈ ps) → v = .nan) ∧
  (.nan ∉ ps → ∀ a, .inf a ∈ ps → .inf (!a) ∉ ps → v = .inf a) ∧
  ((∀ p ∈ ps, isFinite p) → isFinite v ∧ finite v)

/-- R79 to R81: an FP32 accumulator element after the value v of a block or group: unchanged where v is zero, else the exact sum rounded
once, a NaN or an infinity where the operands make one. -/
def Accumulates (acc : Nat) (v : FVal) (c : Nat) : Prop :=
  let x := fp32.value acc
  (v.isZero = true → c = acc) ∧
  (isFinite v → v.isZero = false → isFinite x → ∃ z, isFinite z ∧ c = (fp32.round .rne 0 z).1 ∧
    (∀ lsb, lsb ≤ lastBit x → lsb ≤ lastBit v → unitsOf lsb z = unitsOf lsb x + unitsOf lsb v) ∧ (z.isZero = true → z.neg = false)) ∧
  (v = .nan ∨ (v.isZero = false ∧ x = .nan) ∨ (∃ a, v = .inf a ∧ x = .inf (!a)) → c = 0x7FC00000) ∧
  (∀ a, (v = .inf a ∧ (isFinite x ∨ x = .inf a)) ∨ (x = .inf a ∧ isFinite v ∧ v.isZero = false) → c = if a then 0xFF800000 else 0x7F800000)

/-- A finite value truncated toward zero to units of 2^w (R80). -/
def truncatedUnits (w : Int) (p : FVal) : Int :=
  let lsb := min w (lastBit p)
  let q : Int := ((unitsOf lsb p).natAbs / 2 ^ (w - lsb).toNat : Nat)
  if p.neg then -q else q

/-- The floor of the base-2 logarithm of the magnitude of a finite value that is not zero. -/
def isLog (e : Int) (p : FVal) : Prop :=
  let lsb := min e (lastBit p)
  2 ^ (e - lsb).toNat ≤ (unitsOf lsb p).natAbs ∧ (unitsOf lsb p).natAbs < 2 ^ (e - lsb + 1).toNat

/-- R77 to R82: one step of a dot product. The exact class adds the exact sum of the products, times both scales, to an FP32 element, or,
for integers, to an INT32 element, clamped, with ISAT where that changes it. The group classes truncate each product 32 bits below the
greatest before the sum. -/
def DotStepClauses : Prop :=
  ∀ (acc : Nat) (a b : DotOperand),
    let ps := List.zipWith (fun x y => (x.mul y).1) a.vals b.vals
    (∀ x y : FVal, IsProduct x y (x.mul y).1) ∧
    (∃ v v1 v2, BlockValue ps (fun v => ∀ lsb, lsb ≤ 0 → (∀ p ∈ ps, lsb ≤ lastBit p) → unitsOf lsb v = (ps.map (unitsOf lsb)).sum) v ∧
      IsProduct v a.scale v1 ∧ IsProduct v1 b.scale v2 ∧ Accumulates acc v2 (dotStep .exactFloat acc a b).1 ∧
      (dotStep .exactFloat acc a b).2 = false) ∧
    (∀ n, ∃ v, Accumulates acc v (dotStep (.group n) acc a b).1 ∧ (dotStep (.group n) acc a b).2 = false ∧
      BlockValue ps (fun v => ((∀ p ∈ ps, p.isZero = true) → v.isZero = true) ∧
        ∀ e, (∃ p ∈ ps, p.isZero = false ∧ isLog e p) → (∀ p ∈ ps, p.isZero = false → ∀ g, isLog g p → g ≤ e) →
          let w := e - 32
          unitsOf (min w 0) v = (ps.map (truncatedUnits w)).sum * 2 ^ (w - min w 0).toNat) v) ∧
    ((∀ p ∈ ps, ∃ neg m, p = .fin neg m 0) →
      let t := signed 32 acc + (ps.map (unitsOf 0)).sum
      signed 32 (dotStep .exactInt acc a b).1 = max (-(2 ^ 31)) (min (2 ^ 31 - 1) t) ∧ (dotStep .exactInt acc a b).1 < 2 ^ 32 ∧
      ((dotStep .exactInt acc a b).2 = true ↔ t < -(2 ^ 31) ∨ 2 ^ 31 ≤ t))

/-- R242, R245: an update of MMA or MMAS whose operands are read without an error gives each element c of its row of the tile the value of
one step of the dot product of row and column c, ORs ISAT into MPROG and moves the position there on; no other row, no other tile, no byte
of memory, no poison bit changes. -/
def MatrixUpdateClauses : Prop :=
  ∀ (s : State) (u : SlotId) (m : MInFlight) (scaled : Bool) (h : Hdr) (d a b : Nat) (shA shB : Shape) (cls : DotClass)
    (x : DotOperand) (ys : List DotOperand),
    (s.slot u).mflight = some m → m.ended = false → d < 2 → m.row < 32 →
    m.instr = (if scaled then .mmas h d a b else .mma h d a b) → shapeOf m.recA = some shA → shapeOf m.recB = some shB →
    dotClass scaled shA.fmt shB.fmt = some cls →
    s.dotOperand { slot := u, stream := .m } shA m.step cls.unit m.row = .ok x →
    s.dotColumns { slot := u, stream := .m } shB m.step cls.unit (List.range 32) = .ok ys →
    x.upset = false → (∀ y ∈ ys, y.upset = false) →
    let t := s.mUpdate u
    let old := (s.cell u.cell).tile d
    let new := (t.cell u.cell).tile d
    (∀ c, c < 32 → ∀ y, ys[c]? = some y → (new.row m.row).elem 32 c = (dotStep cls ((old.row m.row).elem 32 c) x y).1 % 2 ^ 32) ∧
    (∀ r, r < 32 → r ≠ m.row → new.row r = old.row r) ∧
    new.dirty = true ∧ new.poison = old.poison ∧ new.held = old.held ∧ new.own = old.own ∧
    (∀ n, n < 2 → n ≠ d → (t.cell u.cell).tile n = (s.cell u.cell).tile n) ∧
    (t.slot u).mflight = some { m with step := if m.row = 31 then m.step + 1 else m.step, row := if m.row = 31 then 0 else m.row + 1 } ∧
    (m.step < 2 ^ 29 → recordedAt (t.slot u).sr.mprog (if scaled then 1 else 0) d =
      (if m.row = 31 then m.step + 1 else m.step, if m.row = 31 then 0 else m.row + 1)) ∧
    t = { s with cells := t.cells } ∧ (∀ w, w ≠ u → t.slot w = s.slot w)

/-- R242, R246, R250, R20: MRETIRE of an instruction that has made its last update and consumed no error: it retires, with its post, its
stream moves on and MPROG keeps its flags alone; no byte of memory and no tile changes. MPRG answers MPROG, and with fn 1 clears its flags. -/
def MatrixRetirementClauses : Prop :=
  (∀ (s : State) (u : SlotId) (m : MInFlight) (h : Hdr),
    (s.slot u).bound ≠ none → (s.slot u).mflight = some m → m.ended = true → m.poisoned = 0 → m.instr.hdr = some h →
    (s.slot u).m.halted = false →
    (wordIndex (s.slot u).m.pc + h.words < (s.slot u).m.line.count ∨ (s.slot u).m.line.last = false) →
    ∃ t, exec (.mRetire u) s = .next t ∧ t = { s with cells := t.cells } ∧ (∀ w, w ≠ u → t.slot w = s.slot w) ∧
      (∀ c n, (t.cell c).tile n = (s.cell c).tile n) ∧
      (t.slot u).mflight = none ∧ (t.slot u).m.retired = (s.slot u).m.retired + 1 ∧
      (t.slot u).sr.mprog.toNat = (s.slot u).sr.mprog.toNat % 256 ∧
      (t.slot u).m.pc = (if wordIndex (s.slot u).m.pc + h.words < (s.slot u).m.line.count then (s.slot u).m.pc + 4 * h.words
        else (s.slot u).m.line.nextPc) ∧
      (∀ p c, (t.slot u).tokens p c = (s.slot u).tokens p c + (if h.post = some c ∧ p = .m then 1 else 0))) ∧
  (∀ (h : Hdr) (d : Nat) (s : State), Issues h s → s.cur.stream = .m →
    WritesG (exec (.mprg h d 0) s) h s d s.here.sr.mprog ∧
    Makes (exec (.mprg h d 1) s) h s
      (s.withHere (fun l => { l with sr := { l.sr with mprog := BitVec.ofNat 64 (s.here.sr.mprog.toNat - s.here.sr.mprog.toNat % 256) } }))
      (oneReg d s.here.sr.mprog) noReg)

/-- Element (c, r) of a record, as the row instructions number it (R248). -/
def tileElem (c r : Nat) : Index := { i0 := c, i1 := r, i2 := 0, i3 := 0 }

/-- Where a 4-byte element of a record lies in the own cell store (R64). -/
def elemPlace (u : SlotId) (sh : Shape) (c r : Nat) : Nat := cellStoreAt u.cell + (sh.locate (tileElem c r)).1.toNat % 2 ^ 57

/-- Every element of row r of a record within its extents lies in the own cell store. -/
def rowInStore (s : State) (u : SlotId) (sh : Shape) (r : Nat) : Prop :=
  ∀ c, c < 32 → sh.holds (tileElem c r) = true → inOwnStore s u (sh.locate (tileElem c r)).1 4

/-- No byte of row r of a record carries an uncorrectable error. -/
def rowSound (s : State) (u : SlotId) (sh : Shape) (r : Nat) : Prop :=
  ∀ c j, c < 32 → j < 4 → sh.holds (tileElem c r) = true → Map.find s.upsets (elemPlace u sh c r + j) = none

/-- The 32 bits of element (c, r) of a record: its bytes, or PAD beyond the extents (R64). -/
def rowWord (s : State) (u : SlotId) (sh : Shape) (r c : Nat) : Nat :=
  if sh.holds (tileElem c r) then natOf (s.load (elemPlace u sh c r) 4) else sh.pad % 2 ^ 32

/-- What an update of a row instruction of operation `op` on a tile leaves besides tiles and memory (R242): the position after it in MPROG,
the instruction there, and nothing else of the machine. -/
structure RowUpdated (s t : State) (u : SlotId) (m : MInFlight) (op tile : Nat) : Prop where
  flight : (t.slot u).mflight = some { m with step := if m.row = 31 then m.step + 1 else m.step, row := if m.row = 31 then 0 else m.row + 1 }
  position : m.step < 2 ^ 29 →
    recordedAt (t.slot u).sr.mprog op tile = (if m.row = 31 then m.step + 1 else m.step, if m.row = 31 then 0 else m.row + 1)
  machine : t = { s with cells := t.cells, mem := t.mem, upsets := t.upsets }
  slots : ∀ w, w ≠ u → t.slot w = s.slot w

/-- What an update that writes row r of a tile leaves of the tiles: the other rows and the other tile; the tile becomes dirty. -/
structure RowWritten (s t : State) (cell d r : Nat) : Prop where
  dirty : ((t.cell cell).tile d).dirty = true
  owner : ((t.cell cell).tile d).own = ((s.cell cell).tile d).own ∧ ((t.cell cell).tile d).held = ((s.cell cell).tile d).held
  rows : ∀ k, k < 32 → k ≠ r → ((t.cell cell).tile d).row k = ((s.cell cell).tile d).row k
  other : ∀ n, n < 2 → n ≠ d → (t.cell cell).tile n = (s.cell cell).tile n
  memory : ∀ x, Memory.byte t.mem x = Memory.byte s.mem x

/-- R242, R248: the one update of MZERO sets a tile to 0 and clears its poison; an update of MLDA copies a row of its record into the tile
and clears the row's poison bit, and one of MSTA copies a row of the tile to its record, or traps POISON where the row's poison bit is set. -/
def MatrixRowMovesClauses : Prop :=
  ∀ (s : State) (u : SlotId) (m : MInFlight) (h : Hdr) (d a e : Nat) (sh : Shape),
    (s.slot u).mflight = some m → m.ended = false → m.row < 32 → d < 2 → a < 2 → u.cell < 512 →
    let t := s.mUpdate u
    let old (n : Nat) : Tile := (s.cell u.cell).tile n
    let new (n : Nat) : Tile := (t.cell u.cell).tile n
    let flags (x : State) : Nat := (x.slot u).sr.mprog.toNat % 256
    (m.instr = .mzero h d →
      (∀ r, r < 32 → (new d).row r = 0) ∧ (new d).poison = 0 ∧ (new d).dirty = true ∧ (new d).own = (old d).own ∧ (new d).held = (old d).held ∧
      (∀ n, n < 2 → n ≠ d → new n = old n) ∧ (t.slot u).mflight = some { m with step := 1 } ∧ (t.slot u).sr = (s.slot u).sr ∧
      t = { s with cells := t.cells } ∧ (∀ w, w ≠ u → t.slot w = s.slot w)) ∧
    (shapeOf m.recA = some sh → sh.scaled = false → sh.fmt = .fp32 ∨ sh.fmt = .int32 ∨ sh.fmt = .uint32 → rowInStore s u sh m.row →
      (m.instr = .mlda h d e → rowSound s u sh m.row →
        (∀ c, c < 32 → ((new d).row m.row).elem 32 c = rowWord s u sh m.row c) ∧ RowWritten s t u.cell d m.row ∧
        (new d).poison = (old d).poison &&& ~~~ BitVec.ofNat 32 (2 ^ m.row) ∧ flags t = flags s ∧ RowUpdated s t u m 2 d) ∧
      (m.instr = .msta h e a → (old a).poison.getLsbD m.row = false →
        (∀ c j, c < 32 → j < 4 → sh.holds (tileElem c m.row) = true →
          Memory.byte t.mem (elemPlace u sh c m.row + j) = BitVec.ofNat 8 (((old a).row m.row).elem 32 c / 2 ^ (8 * j))) ∧
        (∀ x, (∀ c, c < 32 → sh.holds (tileElem c m.row) = true → x < elemPlace u sh c m.row ∨ elemPlace u sh c m.row + 4 ≤ x) →
          Memory.byte t.mem x = Memory.byte s.mem x) ∧
        (∀ c n, (t.cell c).tile n = (s.cell c).tile n) ∧ flags t = flags s ∧ RowUpdated s t u m 3 a) ∧
      (m.instr = .msta h e a → (old a).poison.getLsbD m.row = true →
        t = s.takeTrap u .m { cause := 0x0A, sub := 0, tval := BitVec.ofNat 64 (a * 2 ^ 32 + (old a).poison.toNat) } TrapMode.precise))

/-- R242, R248, R249: an update of MBIAS adds the record's row 0 to a row of the tile, rounded on FP32 and clamped, with ISAT, on INT32; one
of MCVT converts a row of tile a into a row of tile d, packed, with zeros above and the flags of the conversion in MPROG, or traps POISON
where the row's poison bit is set. -/
def MatrixRowArithmeticClauses : Prop :=
  ∀ (s : State) (u : SlotId) (m : MInFlight) (h : Hdr) (d a e : Nat) (i32 : Bool) (target : Format) (rnd : Rounding) (sh : Shape),
    (s.slot u).mflight = some m → m.ended = false → m.row < 32 → d < 2 → a < 2 → u.cell < 512 →
    let t := s.mUpdate u
    let old (n : Nat) : Tile := (s.cell u.cell).tile n
    let new (n : Nat) : Tile := (t.cell u.cell).tile n
    let flags (x : State) : BitVec 8 := (x.slot u).sr.mprog.setWidth 8
    let acc (c : Nat) : Nat := ((old d).row m.row).elem 32 c
    let bias (c : Nat) : Nat := rowWord s u sh 0 c
    let sum (c : Nat) : Int := signed 32 (acc c) + signed 32 (bias c)
    (m.instr = .mbias h d e → shapeOf m.recA = some sh → sh.scaled = false → rowInStore s u sh 0 → rowSound s u sh 0 →
      (sh.fmt = .fp32 →
        (∀ c, c < 32 → ((new d).row m.row).elem 32 c =
          (fp32.round .rne 0 (FVal.add false (fp32.value (acc c)) (fp32.value (bias c))).1).1) ∧ flags t = flags s) ∧
      (sh.fmt = .int32 →
        (∀ c, c < 32 → signed 32 (((new d).row m.row).elem 32 c) = max (-(2 ^ 31)) (min (2 ^ 31 - 1) (sum c))) ∧
        (flags t).setWidth 7 = (flags s).setWidth 7 ∧
        ((flags t).getLsbD 7 = true ↔ (flags s).getLsbD 7 = true ∨ ∃ c, c < 32 ∧ (sum c < -(2 ^ 31) ∨ 2 ^ 31 ≤ sum c))) ∧
      (sh.fmt = .fp32 ∨ sh.fmt = .int32 →
        RowWritten s t u.cell d m.row ∧ (new d).poison = (old d).poison ∧ RowUpdated s t u m 5 d)) ∧
    (m.instr = .mcvt h d a i32 target rnd → target.width ≤ 32 →
      let src : Format := if i32 then .int32 else .fp32
      let x (c : Nat) : Nat := ((old a).row m.row).elem 32 c
      let word (c : Nat) : Nat := stoDraw rnd ((s.slot u).m.gReg 14) ((s.slot u).m.gReg 15) (32 * m.row + c)
      let z (c : Nat) : Nat × Flags := if target = src then (x c, Flags.none) else target.round rnd (word c) (src.value 0 (x c))
      ((old a).poison.getLsbD m.row = false →
        (∀ c, c < 32 → ((new d).row m.row).elem target.width c = (z c).1 % 2 ^ target.width) ∧
        ((new d).row m.row).toNat < 2 ^ (32 * target.width) ∧
        flags t = flags s ||| ((Flags.joinAll ((List.range 32).map (fun c => (z c).2))).bits &&& 0x3D) ∧
        RowWritten s t u.cell d m.row ∧ (new d).poison = (old d).poison ∧ RowUpdated s t u m 4 d) ∧
      ((old a).poison.getLsbD m.row = true →
        t = s.takeTrap u .m { cause := 0x0A, sub := 0, tval := BitVec.ofNat 64 (a * 2 ^ 32 + (old a).poison.toNat) } TrapMode.precise))

/-- The updates of an M instruction and its retirement, together.
Its readings of what the rules leave open are the model's: log entry 12. -/
def Obligations.MatrixUpdatesAndRetirement : Prop :=
  DotStepClauses ∧ MatrixUpdateClauses ∧ MatrixRowMovesClauses ∧ MatrixRowArithmeticClauses ∧ MatrixRetirementClauses

/-- The command that a tile-move instruction puts into its queue (R251). -/
def commandOf (h : Hdr) (i : Instr) (s : State) (opD opA opB : Word) (r : XRecords) : XCommand :=
  { instr := i, words := (List.range h.words).map (fun j => s.me.line.word (wordIndex s.me.pc + j)), pc := s.me.pc, cursor := 0,
    opD := opD, opA := opA, opB := opB, recD := r.recD, recA := r.recA, recB := r.recB, total := drivingCount i r, post := h.post, fresh := false
    fault := none, parked := none, void := false }

/-- The answer of a tile-move instruction whose command enters the queue, from a state r in which its records have been taken: where no race
is found, the stream moves on, and the command has not retired. -/
def Enqueues (o : Answer) (h : Hdr) (s r : State) (k : XCommand) : Prop :=
  r.cellRace r.cur (r.commandSpans s.cur.slot k) = none →
    ∃ t, o = .next t ∧ t = { r with cells := t.cells } ∧ (∀ a, Memory.byte t.mem a = Memory.byte s.mem a) ∧
      (∀ u, u ≠ s.cur.slot → t.slot u = r.slot u) ∧ (∀ c n, (t.cell c).tile n = (s.cell c).tile n) ∧
      t.here.xqueue = s.here.xqueue ++ [k] ∧ t.here = { r.here with xqueue := t.here.xqueue, x := t.here.x } ∧
      t.me.pc = (if wordIndex s.me.pc + h.words < s.me.line.count then s.me.pc + 4 * h.words else s.me.line.nextPc) ∧
      t.me.retired = s.me.retired ∧ t.me.halted = false ∧ Registers s.me t.me noReg noReg noReg noReg

/-- R251, R255 to R257: with fewer than 16 commands in the queue and outside a window, a tile-move instruction takes its records, d before a
before b, and its command enters the queue with the operand values of issue, where the records agree with Table 10.5 (XHASH: g[d], and g[b]
unless it is 0, aligned to 16). Its readings of what the rules leave open are the model's: log entry 14. -/
def Obligations.TileMovesEnterQueue : Prop :=
  ∀ (h : Hdr) (d a b : Nat) (rnd : Rounding) (s r : State) (x : XRecords), Issues h s → s.cur.stream = .x →
    s.here.xqueue.length < 16 → s.here.window = none →
    let k := begun h s
    let taken (i : Instr) (u v w : Word) : Prop := k.takeRecords s.cur i u v w = .ok (x, r) ∧ recordFault i x = none
    let enters (i : Instr) (u v w : Word) : Prop := taken i u v w → Enqueues (exec i s) h s r (commandOf h i s u v w x)
    enters (.xmov h d a) (s.re d) (s.re a) 0 ∧
    enters (.xmovs h d a rnd) (s.re d) (s.re a) 0 ∧
    enters (.xunpk h d a) (s.re d) (s.re a) 0 ∧
    enters (.xfill h d a) (s.re d) (s.rg a) 0 ∧
    enters (.xgath h d a b) (s.re d) (s.re a) (s.re b) ∧
    enters (.xscat h d a b) (s.re d) (s.re a) (s.re b) ∧
    ((s.rg d).toNat % 16 = 0 → (s.rg b).toNat % 16 = 0 → enters (.xhash h d a b) (s.rg d) (s.re a) (s.rg b))

/-- R258, R259: XAPP outside a window appends at issue: where its packed bytes are the entry size and the region of the attached record has
room, the command's destination is the next entry's address and the region's length grows by one; XQRY answers the number of commands in the
queue, or the cursor of the oldest, where an instruction whose guard was false is no command. -/
def AppendsAndQueriesClauses : Prop :=
  ∀ (h : Hdr) (d a b n : Nat) (s r : State) (x : XRecords) (sh : Shape), Issues h s → s.cur.stream = .x →
    let k := begun h s
    (s.here.xqueue.length < 16 → s.here.window = none → s.here.attached = some n →
      k.takeRecords s.cur (.xapp h a b) 0 (s.re a) (s.rg b) = .ok (x, r) → x.a = some sh →
      let rec_ := s.srec n
      let region := (s.rg b).toNat
      region < 2 → rec_.cap region ≠ 0 → sh.packedBytes = rec_.esize region → rec_.len region < rec_.cap region →
      let to_ := (rec_.region region).1 + BitVec.ofNat 64 (rec_.len region * rec_.esize region)
      let c := commandOf h (.xapp h a b) s to_ (s.re a) (s.rg b) x
      r.cellRace r.cur (r.commandSpans s.cur.slot c) = none →
      ∃ t, exec (.xapp h a b) s = .next t ∧ t.here.xqueue = s.here.xqueue ++ [c] ∧ (t.srec n).len region = rec_.len region + 1 ∧
        (t.srec n).len (1 - region) = rec_.len (1 - region) ∧ (∀ m, m ≠ n → t.srec m = s.srec m) ∧
        (∀ j, Memory.byte t.mem j = Memory.byte s.mem j) ∧ (∀ u, u ≠ s.cur.slot → t.slot u = r.slot u) ∧
        t.me.retired = s.me.retired ∧ Registers s.me t.me noReg noReg noReg noReg) ∧
    let commands := s.here.xqueue.filter (fun c => c.void = false)
    WritesG (exec (.xqry h d 0) s) h s d (BitVec.ofNat 64 commands.length) ∧
    WritesG (exec (.xqry h d 1) s) h s d (BitVec.ofNat 64 ((commands.head?.map (fun c => c.cursor)).getD 0))

/-- R251, R254: the head of a queue that has written its last byte retires, with its post, and makes no access; a command that the range
checker holds back, an earlier one overlapping it, processes no element. -/
def TileMoveRetirementClauses : Prop :=
  (∀ (s : State) (u : SlotId) (k : XCommand) (rest : List XCommand),
    (s.slot u).xqueue = k :: rest → k.fresh = false → k.fault = none → k.ended = true → (∀ c ∈ rest, c.fault = none) →
    (k.void = false → k.total = drivingCount k.instr k.shapes) →
    (s.slot u).bound ≠ none → (s.slot u).handler = none → (s.cell u.cell).active = u.h1 → (s.slot u).s.halted = false →
    ∃ t, exec (.xCommandRetire u) s = .next t ∧ t = { s with cells := t.cells } ∧ (∀ w, w ≠ u → t.slot w = s.slot w) ∧
      (∀ c n, (t.cell c).tile n = (s.cell c).tile n) ∧
      (t.slot u).xqueue = rest ∧ (t.slot u).x.retired = (s.slot u).x.retired + 1 ∧
      (t.slot u).x.pc = (s.slot u).x.pc ∧ (t.slot u).x.g = (s.slot u).x.g ∧ (t.slot u).x.q = (s.slot u).x.q ∧
      (∀ p c, (t.slot u).tokens p c = (s.slot u).tokens p c + (if k.post = some c ∧ p = .x then 1 else 0))) ∧
  (∀ (s : State) (u : SlotId) (n : Nat) (k : XCommand), (s.slot u).xqueue[n]? = some k → k.fresh = false →
    k.fault = none → s.commandsRun u = true →
    (∃ e ∈ (s.slot u).xqueue.take n, e.fresh = false ∧ e.ended = false ∧
      ∃ x ∈ s.commandSpans u e, ∃ y ∈ s.commandSpans u k, x.lo < y.hi ∧ y.lo < x.hi ∧ (x.write = true ∨ y.write = true)) →
    (s.xElem u n).mem = s.mem ∧ ∀ c, (s.xElem u n).slot u = c → (c.xqueue[n]?).map (fun k => k.cursor) = some k.cursor)

/-- The bytes that an access to element i of a tensor reaches, where its checks pass: none outside the extents (R64). -/
def ElementBytes (s : State) (c : Cursor) (write : Bool) (sh : Shape) (i : Index) (ks : List Nat) : Prop :=
  if sh.holds i then ∃ t, s.touch c write (sh.locate i).1 (sh.locate i).2.2 = .ok (ks, t) else ks = []

/-- Bits `bit` to `bit + w - 1` of some bytes take a value, the other bits of these bytes stay, and so does every other byte of memory. -/
def BitsWritten (s t : State) (ks : List Nat) (bit w v : Nat) : Prop :=
  (∀ x, x ∉ ks → Memory.byte t.mem x = Memory.byte s.mem x) ∧
  (ks.Nodup → (∀ x ∈ ks, s.keyed x = true) → ∀ j, j < 8 * ks.length →
    (natOf (t.loadEach ks)).testBit j = if bit ≤ j ∧ j < bit + w then v.testBit (j - bit) else (natOf (s.loadEach ks)).testBit j)

/-- The effect of writing v to element i of a tensor: its w bits (R63, R64). -/
def ElementWritten (s t : State) (sh : Shape) (i : Index) (ks : List Nat) (v : Nat) : Prop :=
  BitsWritten s t ks (sh.locate i).2.1 sh.fmt.width v

/-- R64: an element read is the bits of its bytes, little-endian, or PAD beyond the extents; a read changes no byte. -/
def ElementReadClauses : Prop :=
  ∀ (s s1 : State) (c : Cursor) (sh : Shape) (i : Index) (v : Nat) (up : Bool), s.readElem c sh i = .ok (v, s1, up) →
    s1.mem = s.mem ∧ (sh.holds i = false → v = sh.pad % 2 ^ sh.fmt.width ∧ s1 = s) ∧
    (sh.holds i = true → ∃ ks, ElementBytes s c false sh i ks ∧
      v = natOf (s.loadEach ks) / 2 ^ (sh.locate i).2.1 % 2 ^ sh.fmt.width ∧ (up = true ↔ ∃ x ∈ ks, Map.find s.upsets x ≠ none))

/-- R252, R255: the element of a copying command writes to the destination the source's element, converted as Table 10.5 says, or the
filling value; with block scales, XMOV copies the scale word of a block with its first element, after both have been read. -/
def CopyElementClauses : Prop :=
  ∀ (s s1 : State) (c : Cursor) (k : XCommand) (h : Hdr) (p q v : Nat) (rnd : Rounding) (d a : Shape) (up : Bool) (ks : List Nat),
    k.shapes.d = some d → k.shapes.a = some a →
    let i := d.index k.cursor
    let writes (r : State) (x : Nat) : Prop := ∃ t, s.elemOf c k = .ok t ∧ ElementWritten r t d i ks x
    (k.instr = .xfill h p q → ElementBytes s c true d i ks → writes s k.opA.toNat) ∧
    (s.readElem c a i = .ok (v, s1, up) → ElementBytes s1 c true d i ks →
      (k.instr = .xmovs h p q rnd → writes s1 (d.fmt.round rnd 0 (a.fmt.value 0 v)).1) ∧
      (k.instr = .xmov h p q → d.scaled = false ∨ a.scaled = false ∨ i.i0 % 32 ≠ 0 → writes s1 v)) ∧
    (∀ w s0 up0, k.instr = .xunpk h p q →
      (if a.scaled then s.readScale c a (i.i0 / 32) i = .ok (w, s0, up0) else w = 0x3F80 ∧ s0 = s) →
      s0.readElem c a i = .ok (v, s1, up) → ElementBytes s1 c true d i ks →
      writes s1 (d.fmt.round .rne 0 (((scaleOf a.fmt w).1.mul (a.fmt.value (scaleOf a.fmt w).2 v)).1)).1) ∧
    (∀ w s2 s3 up2 ks2, k.instr = .xmov h p q → d.scaled = true → a.scaled = true → i.i0 % 32 = 0 →
      s.readElem c a i = .ok (v, s1, up) → s1.readScale c a (i.i0 / 32) i = .ok (w, s2, up2) → s2.writeElem c d i v = .ok s3 →
      (d.scaleAt (i.i0 / 32) i).toNat % 2 = 0 → (∃ s4, s3.touch c true (d.scaleAt (i.i0 / 32) i) 2 = .ok (ks2, s4)) →
      ∃ t, s.elemOf c k = .ok t ∧ BitsWritten s3 t ks2 0 16 w ∧ (ElementBytes s2 c true d i ks → ElementWritten s2 s3 d i ks v))

/-- R252, R256: XGATH writes to the destination's element the element of the source's row that the index selects, PAD for one outside it;
XSCAT writes the source's element to the destination's row that the index selects, and drops it outside. The index is read anew for each
element. -/
def RowElementClauses : Prop :=
  ∀ (s s1 s2 : State) (c : Cursor) (k : XCommand) (h : Hdr) (p q n x v : Nat) (d a b : Shape) (up up2 : Bool) (ks : List Nat),
    k.shapes.d = some d → k.shapes.a = some a → k.shapes.b = some b →
    let writes (r : State) (i : Index) (y : Nat) : Prop := ∃ t, s.elemOf c k = .ok t ∧ ElementWritten r t d i ks y
    let chosen : Int := if b.fmt = .int32 then signed 32 x else x
    (k.instr = .xgath h p q n →
      let i := d.index k.cursor
      s.readElem c b { i0 := i.i1, i1 := 0, i2 := 0, i3 := 0 } = .ok (x, s1, up) →
      (0 ≤ chosen → s1.readElem c a { i with i1 := chosen.toNat } = .ok (v, s2, up2) → ElementBytes s2 c true d i ks → writes s2 i v) ∧
      (chosen < 0 → ElementBytes s1 c true d i ks → writes s1 i (a.pad % 2 ^ a.fmt.width))) ∧
    (k.instr = .xscat h p q n →
      let i := a.index k.cursor
      s.readElem c b { i0 := i.i1, i1 := 0, i2 := 0, i3 := 0 } = .ok (x, s1, up) → s1.readElem c a i = .ok (v, s2, up2) →
      (0 ≤ chosen → ElementBytes s2 c true d { i with i1 := chosen.toNat } ks → writes s2 { i with i1 := chosen.toNat } v) ∧
      (chosen < 0 → ∃ t, s.elemOf c k = .ok t ∧ t.mem = s.mem))

/-- R252, R257, R258: XHASH writes 16 bytes of SHAKE256 of the previous digest, or zeros, and the 64 bytes of the tokens, all read before;
an element of XAPP goes to its place in the entry, packed in element order. -/
def HashAndAppendElementClauses : Prop :=
  ∀ (s s1 : State) (c : Cursor) (k : XCommand) (h : Hdr) (p q n : Nat) (a : Shape) (ks : List Nat), k.shapes.a = some a →
    (∀ tokens prev s2, k.instr = .xhash h p q n → s.readTokens c a 0 16 = .ok (tokens, s1) →
      (k.opB = 0 → prev = List.replicate 16 0 ∧ s2 = s1) →
      (k.opB ≠ 0 → ∃ js t, s1.touch c false k.opB 16 = .ok (js, t) ∧ prev = t.loadEach js ∧ s2 = t.countEach js) →
      (∃ t, s2.touch c true k.opD 16 = .ok (ks, t)) →
      ∃ t, s.elemOf c k = .ok t ∧ (∀ x, x ∉ ks → Memory.byte t.mem x = Memory.byte s.mem x) ∧
        (ks.Nodup → (∀ x ∈ ks, s.keyed x = true) → t.loadEach ks = shake256 (prev ++ tokens) 16)) ∧
    (∀ v up, k.instr = .xapp h p q → k.cursor < a.count → s.readElem c a (a.index k.cursor) = .ok (v, s1, up) →
      let bit := k.cursor * a.fmt.width
      (∃ t, s1.touch c true (k.opD + BitVec.ofNat 64 (bit / 8)) ((bit % 8 + a.fmt.width + 7) / 8) = .ok (ks, t)) →
      ∃ t, s.elemOf c k = .ok t ∧ BitsWritten s1 t ks (bit % 8) a.fmt.width v)

/-- R251, R252: a command that may proceed makes the effect of its next driving element and moves its cursor past it: by one, or past the
whole token block of XHASH; an element that fails a check has no effect on memory, and the cursor stays. -/
def ElementStepClauses : Prop :=
  ∀ (s : State) (u : SlotId) (n : Nat) (k : XCommand), (s.slot u).xqueue[n]? = some k → k.fresh = false → k.void = false → k.fault = none →
    s.commandsRun u = true → k.ended = false → k.total = drivingCount k.instr k.shapes → s.heldBack u n k = false →
    let c : Cursor := { slot := u, stream := .x }
    let r := s.withSlot u (fun l => l.withCommand n (fun _ => k))
    let t := s.xElem u n
    (∀ r1, r.elemOf c k = .ok r1 → t.mem = r1.mem ∧
      (t.slot u).xqueue[n]? = some { k with parked := none
                                            cursor := match k.instr with
                                              | .xhash _ _ _ _ => 16
                                              | _ => k.cursor + 1 }) ∧
    (∀ i, r.elemOf c k = .error (.trap i) → n ≠ 0 →
      t.mem = s.mem ∧ (t.slot u).xqueue[n]? = some { k with fault := some i, parked := none }) ∧
    (∀ f, r.elemOf c k = .error (.park f) → t.mem = s.mem ∧ (t.slot u).xqueue[n]? = some { k with parked := some f })

/-- R252, R253, R255 to R258: what the driving elements of the tile-move commands read and write, together. -/
def TileMoveElementClauses : Prop :=
  ElementReadClauses ∧ CopyElementClauses ∧ RowElementClauses ∧ HashAndAppendElementClauses ∧ ElementStepClauses

/-- Appends, queries, the elements of tile moves, and their retirement, together. That XMOV copies the scale word of a block with its first
element is the model's choice, log entry 15, and so is that XQRY counts no command whose guard was false, log entry 87. Its other readings
of what the rules leave open are log entries 13, 14 and 16. -/
def Obligations.AppendsQueriesAndTileMoves : Prop := AppendsAndQueriesClauses ∧ TileMoveElementClauses ∧ TileMoveRetirementClauses

/-! ### Serving instructions (ch. 11) -/

/-- The packets of a micro-context's partition flow: none waits, and neither the sub-stream of its writes to host memory nor that of its
reads has stopped (R410). -/
def LinkFlows (s : State) (h : Nat) : Prop := s.linkHeld (s.mc h).part .store = false ∧ s.linkHeld (s.mc h).part .load = false

/-- The state in which an instruction on stream record n has its effect: the record is attached (R264). -/
def onRecord (h : Hdr) (s : State) (n : Nat) : State := (begun h s).withHere (fun l => { l with attached := some n })

/-- R264, R268 to R272: the instructions on a stream record that the micro-context owns: SCUR answers a cursor, SCOMMIT commits or reports
ORDER or FULL, STRUNC truncates, SCKPT makes a checkpoint, SFRAME delivers the oldest frame; each attaches the record. A read of the
record's checkpoints in host memory that would wait for its packets holds them back (R410). -/
def StreamRecordInstructionsClauses : Prop :=
  ∀ (h : Hdr) (d a b : Nat) (s : State), Issues h s → s.cur.stream = .s →
    (s.rg a).toNat < 4096 → (s.srec (s.rg a).toNat).owner = (s.binding s.cur.slot).handle →
    s.dieServes (s.binding s.cur.slot).part ((s.rg a).toNat / 1024) = true →
    let n := (s.rg a).toNat
    let k := onRecord h s n
    let r := s.srec n
    let y := (s.rg b).toNat
    let tag := s.here.window.map (fun w => (w.id, w.i))
    Makes (exec (.scur h d a 0) s) h s k (oneReg d (BitVec.ofNat 64 r.len0)) noReg ∧
    Makes (exec (.scur h d a 1) s) h s k (oneReg d (BitVec.ofNat 64 r.c)) noReg ∧
    Makes (exec (.scur h d a 2) s) h s k (oneReg d (BitVec.ofNat 64 r.p)) noReg ∧
    Makes (exec (.scur h d a 3) s) h s k (oneReg d (BitVec.ofNat 64 (r.kpos * 2 ^ 32 + r.floor))) noReg ∧
    (y / 2 ^ 32 < r.c ∨ r.len0 ≤ y / 2 ^ 32 → Makes (exec (.scommit h d a b) s) h s k (oneReg d 3) noReg) ∧
    (r.c ≤ y / 2 ^ 32 → y / 2 ^ 32 < r.len0 → r.cap 3 ≤ r.delivery.length → Makes (exec (.scommit h d a b) s) h s k (oneReg d 2) noReg) ∧
    (r.c ≤ y / 2 ^ 32 → y / 2 ^ 32 < r.len0 → r.delivery.length < r.cap 3 →
      let prov := decide (s.here.window ≠ none ∨ r.queue ≠ [])
      let e : Delivery := { token := y % 2 ^ 32, pos := y / 2 ^ 32, tag := tag, prov := prov, sent := false }
      let k1 := k.withSrec n (fun r => { r with delivery := r.delivery ++ [e], c := y / 2 ^ 32 + 1 })
      Retires (exec (.scommit h d a b) s) h s
        ((k1.mcStore r.owner ((r.region 3).1 + BitVec.ofNat 64 (y / 2 ^ 32 % r.cap 3 * r.esize 3)) (bytesOf 4 (y % 2 ^ 32) ++ bytesOf 4 (y / 2 ^ 32))).withMe
          (fun t => t.setG d (if prov then 1 else 0)))) ∧
    (s.here.window = none →
      (y ≤ r.len0 → y < 2 ^ 32 → ¬ (0 < y ∧ y < r.floor) → s.recordHeld n = false → Retires (exec (.strunc h a b) s) h s (k.truncate n y)) ∧
      (r.cap 2 ≠ 0 → y % 2 ^ 32 ≤ r.len0 → (r.ckpts = [] ∨ r.kpos < y % 2 ^ 32) → s.recordHeld n = false →
        Retires (exec (.sckpt h a b) s) h s (k.checkpoint n (y % 2 ^ 32))) ∧
      (r.queue = [] → b ≠ 0 → Makes (exec (.sframe h d a b) s) h s k (oneReg d 0) (oneReg b false)) ∧
      (∀ s1 f late, k.popFrame n false = some (s1, f, late) → s.recordHeld n = false →
        let s2 := s1.withMe (fun t => (t.setG d (BitVec.ofNat 64 (f.play * 2 ^ 32 + (if late then 2 ^ 28 else 0) + f.kind * 2 ^ 24 + f.len * 2 ^ 12 + f.buf))).setQ b true)
        (late = false → Retires (exec (.sframe h d a b) s) h s s2) ∧
        (late = true → s.trapHeld s.cur.slot .s 0x0F = false → exec (.sframe h d a b) s =
          .next (((s2.retire h).moveOn h).takeTrap s.cur.slot .s { cause := 0x0F, sub := 0, tval := BitVec.ofNat 64 f.play }
            { report := true, async := false, succ := (s.me.line.successor (wordIndex s.me.pc) h.words).1,
              shalt := (s.me.line.successor (wordIndex s.me.pc) h.words).2 }))))

/-- R267, R268: the record after a frame has been taken from its queue: a barge-in that is not late cuts the lengths to the position played
and withdraws every delivery entry from there on; a late one, and any other frame, cuts nothing; P becomes the position played, at most G;
with no frame left and no window open, every commit is confirmed. -/
def FrameDeliveryClauses : Prop :=
  ∀ (s s1 : State) (n : Nat) (windowOpen late : Bool) (f : StreamFrame), s.popFrame n windowOpen = some (s1, f, late) →
    let r := s.srec n
    let r1 := s1.srec n
    let t := min f.play r.len0
    r.queue = f :: r1.queue ∧ r1.held = some f.buf ∧ r1.owner = r.owner ∧ r1.p = min f.play r1.len0 ∧
    (late = true ↔ f.kind = 1 ∧ 0 < t ∧ t < r.floor) ∧
    (f.kind = 1 → late = false → r1.len0 = t ∧ r1.len1 = min r.len1 t ∧ (∀ e ∈ r1.delivery, e.pos < t) ∧
      (r.cap 2 = 8 → r1.ckpts = r.ckpts.filter (fun p => decide (p ≤ t))) ∧ (r.cap 2 ≠ 8 → r1.ckpts = r.ckpts)) ∧
    (f.kind ≠ 1 ∨ late = true → r1.len0 = r.len0 ∧ r1.len1 = r.len1 ∧ r1.c = r.c ∧ r1.ckpts = r.ckpts ∧ s1.mem = s.mem) ∧
    (r1.queue = [] → windowOpen = false → ∀ e ∈ r1.delivery, e.prov = false) ∧
    (∀ e ∈ r1.delivery, ∃ e0 ∈ r.delivery, e0.pos = e.pos ∧ e0.token = e.token ∧ e0.sent = e.sent) ∧
    (∀ m, m ≠ n → s1.srec m = s.srec m) ∧ s1.cells = s.cells

/-- The bytes of memory `ks` take the values bs, where no two of them are one and all their lines are keyed (R404), and no other byte
changes. -/
def BytesCopied (s t : State) (ks : List Nat) (bs : List Byte) : Prop :=
  (∀ x, x ∉ ks → Memory.byte t.mem x = Memory.byte s.mem x) ∧ (ks.Nodup → (∀ x ∈ ks, s.keyed x = true) → t.loadEach ks = bs)

/-- R267: a truncation to T cuts the lengths, withdraws every delivery entry from T on, lets C fall to the least position withdrawn, sends a
notice if one of them had been handed to the egress engine, and brings P down to T; where the record keeps checkpoints, those above T go,
KNEXT goes back by their number, and STATE becomes the newest left, or zeros. No other record and no other byte of memory changes. -/
def TruncationClauses : Prop :=
  ∀ (s : State) (n t : Nat), (∀ e ∈ (s.srec n).delivery, e.pos < 2 ^ 32) →
    let r := s.srec n
    let k := s.truncate n t
    let r1 := k.srec n
    let gone (e : Delivery) : Prop := e ∈ r.delivery ∧ t ≤ e.pos
    r1.len0 = min r.len0 t ∧ r1.len1 = min r.len1 t ∧ r1.p = min r.p t ∧ r1.queue = r.queue ∧ r1.owner = r.owner ∧
    (∀ e, e ∈ r1.delivery ↔ e ∈ r.delivery ∧ e.pos < t ∧ ¬ (e.prov = false ∧ e.sent = true ∧ e.pos < r1.p)) ∧
    r1.c ≤ r.c ∧ (∀ e, gone e → r1.c ≤ e.pos) ∧ (r1.c = r.c ∨ ∃ e, gone e ∧ r1.c = e.pos) ∧
    ((∃ e, gone e ∧ e.prov = false) → r1.notices = r.notices ++ [t]) ∧ ((∀ e, gone e → e.prov = true) → r1.notices = r.notices) ∧
    (∀ m, m ≠ n → k.srec m = s.srec m) ∧ k.cells = s.cells ∧
    (r.cap 2 ≠ 8 → r1.ckpts = r.ckpts ∧ r1.knext = r.knext ∧ k.mem = s.mem) ∧
    (r.cap 2 = 8 →
      r1.ckpts = r.ckpts.filter (fun p => decide (p ≤ t)) ∧
      r1.knext = (r.knext + 2 ^ 32 - (r.ckpts.filter (fun p => decide (t < p))).length) % 2 ^ 32 ∧
      ∀ ks, LinkFlows s r.owner → s.mcPlaces r.owner .store r.live (r.esize 2) = .ok ks →
        (r1.ckpts = [] → BytesCopied s k ks (List.replicate (r.esize 2) 0)) ∧
        (∀ js, r1.ckpts ≠ [] → s.mcPlaces r.owner .load (r.ringAt 2 (r1.knext + 2 ^ 32 - 1)) (r.esize 2) = .ok js → BytesCopied s k ks (s.loadEach js)))

/-- R271: a checkpoint copies STATE into entry KNEXT of the checkpoint ring, notes its position as the newest of at most 8, and adds 1 to
KNEXT. -/
def CheckpointClauses : Prop :=
  ∀ (s : State) (n p : Nat),
    let r := s.srec n
    let k := s.checkpoint n p
    k.srec n = { r with ckpts := (if 8 ≤ r.ckpts.length then r.ckpts.drop 1 else r.ckpts) ++ [p], knext := (r.knext + 1) % 2 ^ 32 } ∧
    (k.srec n).kpos = p ∧ (∀ m, m ≠ n → k.srec m = s.srec m) ∧ k.cells = s.cells ∧
    ∀ ks js, LinkFlows s r.owner → s.mcPlaces r.owner .store (r.ringAt 2 r.knext) (r.esize 2) = .ok ks → s.mcPlaces r.owner .load r.live (r.esize 2) = .ok js →
      BytesCopied s k ks (s.loadEach js)

/-- Stream record instructions, the delivery of frames, truncations and checkpoints, together. That a window is open for SFRAME, STRUNC,
SCKPT and SCOMMIT where the issuing slot itself has one is the model's choice, log entry 96, and so is the tag of a delivery entry, which
names the window, log entry 94. Its other readings of what the rules leave open are log entries 23 and 27. -/
def Obligations.StreamRecordsAndFrames : Prop :=
  StreamRecordInstructionsClauses ∧ FrameDeliveryClauses ∧ TruncationClauses ∧ CheckpointClauses

/-- A slot's streams other than S rest, and nothing of the slot is in flight (R274). -/
def restsForWindow (l : Slot) : Prop :=
  l.xqueue = [] ∧ l.vflight = [] ∧ l.mflight = none ∧ l.fifo = [] ∧
  ∀ t, t = l.v ∨ t = l.m ∨ t = l.x → t.halted = true ∨ ∃ w, t.waiting = some w ∧ w.on = .token .s

/-- R274: SPECB of 2 to 8 iterations with a local guesser opens a window on a valid block, makes the carry the first guess, and branches to
the guesser with the body's address in g63, the block in g1 and the number of iterations in g2; no other register, no tile and no
other slot changes. -/
def WindowOpensClauses : Prop :=
  ∀ (h : Hdr) (a b w : Nat) (s : State), Issues h s → s.cur.stream = .s → 2 ≤ w → w ≤ 8 →
    let k := begun h s
    let u := s.cur.slot
    s.here.window = none → k.windowBlock (s.rg b) = true → (s.rg a).toNat / 2 ^ 61 = 0 → (s.rg a).toNat % 4 = 0 → 4 ≤ (s.rg a).toNat % 64 →
    restsForWindow k.here → ∀ l, s.enterAt s.cur (s.rg a).toNat = .ok l →
    ∃ t win, exec (.specb h a b w) s = .next t ∧ t.here.window = some win ∧ win.block = s.rg b ∧ win.w = w ∧ win.i = 0 ∧ win.verdict = false ∧
      win.faulted = 0 ∧ win.carryPending = true ∧ win.handle = s.here.attached ∧ win.at_ = s.me.pc ∧ win.body = (linkOf h s.me).toNat ∧
      win.appends = [] ∧
      t.me.pc = (s.rg a).toNat ∧ t.me.line = l ∧ t.me.retired = s.me.retired + 1 ∧
      t.me.gReg 63 = linkOf h s.me ∧ t.me.gReg 1 = s.rg b ∧ t.me.gReg 2 = BitVec.ofNat 64 w ∧
      (∀ n, n ≠ 63 → n ≠ 1 → n ≠ 2 → t.me.gReg n = s.me.gReg n) ∧
      t.mem = (k.setGuess (s.rg b) 0 (k.carry u (s.rg b))).mem ∧ (∀ c n, (t.cell c).tile n = (s.cell c).tile n) ∧
      (∀ v, v ≠ u → t.slot v = s.slot v)

/-- R275: ACMP in an iteration before the last writes the carry to PROD[I], takes GUESS[I + 1] as the carry, in CARRY or in its registers,
and returns to the body; in the last it writes PROD[I] and answers the longest run of iterations, from the first, whose guesses were right
and which no fault marks. Nothing else in memory, no tile, no other slot and no other register changes. -/
def IterationEndsClauses : Prop :=
  ∀ (h : Hdr) (d : Nat) (s : State) (win : Window), Issues h s → s.cur.stream = .s → s.here.window = some win → win.verdict = false →
    let k := begun h s
    let u := s.cur.slot
    let block := cellStoreAt u.cell + offset win.block
    let n := (k.carryShape u win.block).1
    let r := (k.carryShape u win.block).2
    let s1 := k.store (block + prodAt win.i) (k.carry u win.block)
    k.cellRace s.cur (k.acmpSpans u win) = none →
    (win.i + 1 < win.w → ∀ l, s.enterAt s.cur win.body = .ok l →
      let next := s1.guess u win.block (win.i + 1)
      ∃ t win1, exec (.acmp h d) s = .next t ∧ t.me.pc = win.body ∧ t.me.line = l ∧ t.me.retired = s.me.retired + 1 ∧
        t.here.window = some win1 ∧ win1.i = win.i + 1 ∧ win1.verdict = false ∧ win1.faulted = win.faulted ∧ win1.w = win.w ∧
        t.mem = (if r = 0 then s1.store (block + 64) next else s1).mem ∧
        (∀ j, t.me.gReg j = if r ≠ 0 ∧ r ≤ j ∧ j < r + n / 8 then BitVec.ofNat 64 (natAt next (8 * (j - r)) 8) else s.me.gReg j) ∧
        (∀ c m, (t.cell c).tile m = (s.cell c).tile m) ∧ (∀ v, v ≠ u → t.slot v = s.slot v)) ∧
    (win.w ≤ win.i + 1 → 1 ≤ win.w → win.w ≤ 8 →
      ∃ n t, exec (.acmp h d) s = .next t ∧ Advanced h s t ∧
        Registers s.me t.me (oneReg d (BitVec.ofNat 64 (win.cause * 2 ^ 32 + n))) noReg noReg noReg ∧
        (∃ win1, t.here.window = some win1 ∧ win1.verdict = true ∧ win1.accepted = n) ∧ 1 ≤ n ∧ n ≤ win.w ∧
        (∀ j, 1 ≤ j → j < n → win.faulted.getLsbD j = false ∧ s1.prod u win.block (j - 1) = s1.guess u win.block j) ∧
        (n < win.w → win.faulted.getLsbD n = true ∨ s1.prod u win.block (n - 1) ≠ s1.guess u win.block n) ∧
        t.mem = s1.mem ∧ (∀ c m, (t.cell c).tile m = (s.cell c).tile m) ∧ (∀ v, v ≠ u → t.slot v = s.slot v))

/-- R276: SPECE closes a window whose verdict is taken and SPECX any open window: each makes its event at the window's records, and the
carry becomes PROD[A − 1] or GUESS[0]. -/
def WindowClosesClauses : Prop :=
  ∀ (h : Hdr) (s : State) (win : Window), Issues h s → s.cur.stream = .s → s.here.window = some win →
    let k := begun h s
    let u := s.cur.slot
    let closed (r : State) (carry : List Byte) : State := (r.setCarry u win.block carry).withHere (fun l => { l with window := none })
    (win.verdict = true → k.cellRace s.cur (k.carrySpans u win (prodAt (win.accepted - 1))) = none →
      Retires (exec (.spece h) s) h s (closed (k.acceptWindow win) (k.prod u win.block (win.accepted - 1)))) ∧
    (k.cellRace s.cur (k.carrySpans u win (guessAt 0)) = none →
      Retires (exec (.specx h) s) h s (closed (k.abandonWindow win) (k.guess u win.block 0)))

/-- R276, R277: at every record that a window concerns, SPECE keeps the entries that iterations below A have appended and the delivery
entries tagged in them, untagged, and confirmed unless a frame is queued; SPECX withdraws every entry tagged in the window and restores the
lengths. A delivery entry without the window's tag stays as it is; no other record changes. -/
def WindowRecordsClauses : Prop :=
  ∀ (s : State) (win : Window) (n : Nat),
    let r := s.srec n
    let kept := (s.acceptWindow win).srec n
    let left := (s.abandonWindow win).srec n
    let mine (e : Delivery) : Prop := ∃ i, e.tag = some (win.id, i)
    (n ∉ s.windowRecords win → kept = r ∧ left = r) ∧
    (n ∈ s.windowRecords win →
      kept.len0 = win.keptLen n r win.accepted 0 ∧ kept.len1 = win.keptLen n r win.accepted 1 ∧
      left.len0 = win.lenAt n r 0 ∧ left.len1 = win.lenAt n r 1 ∧
      (∀ e, e ∈ left.delivery ↔ e ∈ r.delivery ∧ ¬ mine e) ∧
      (∀ e ∈ r.delivery, ¬ mine e → e ∈ kept.delivery) ∧
      (∀ e ∈ r.delivery, ∀ i, e.tag = some (win.id, i) → i < win.accepted → e.prov = true →
        { e with tag := none, prov := !r.queue.isEmpty } ∈ kept.delivery) ∧
      (∀ e ∈ kept.delivery, ¬ mine e ∨ e.prov = false) ∧
      kept.delivery.length = (r.delivery.filter (fun e => optAny e.tag (fun t => decide (t.1 = win.id ∧ win.accepted ≤ t.2)) = false)).length)

/-- The windows of the speculative instructions, from SPECB to their end, together. That SPECE and SPECX settle every record that the window
has used, by entries with the window's own tag, is the model's choice: log entry 94. Its other readings of what the rules leave open are log
entries 16, 23 and 24. -/
def Obligations.SpeculativeWindows : Prop := WindowOpensClauses ∧ IterationEndsClauses ∧ WindowClosesClauses ∧ WindowRecordsClauses

/-- R281 to R283: PFXQ answers and pins the entry of the longest prefix of its chain, or 0; PFXI inserts an image, or reports EXISTS or
FULL, and takes a free entry, or else the unpinned one least recently matched; PFXPIN and PFXREL count the pins of an entry that a handle
names. That an image with BLOCKS 0, NPAGES outside 1 to 28 or reserved bytes that are not 0 is inserted as it stands is the model's choice,
log entry 95. Its other readings of what the rules leave open are log entry 25. -/
def Obligations.PrefixTable : Prop :=
  ∀ (h : Hdr) (d a b : Nat) (s : State), Issues h s → s.cur.stream = .s → s.here.window = none →
    let k := begun h s
    let part := (s.binding s.cur.slot).part
    (∀ hd s1 bs s2, k.sReadEach (s.rg a) 16 = .ok (hd, s1) → 1 ≤ natAt hd 0 4 → natAt hd 0 4 ≤ 256 → (∀ j, 4 ≤ j → j < 16 → byteAt hd j = 0) →
      s1.sReadEach (s.rg a + 16) (16 * natAt hd 0 4) = .ok (bs, s2) →
      ((∀ j i, j < natAt hd 0 4 → i < 64 →
          ¬ ((s.prefixEntry part i).used = true ∧ (s.prefixEntry part i).digest = natAt bs (16 * j) 16 ∧ (s.prefixEntry part i).blocks = j + 1)) →
        Retires (exec (.pfxq h d a b) s) h s (s2.withMe (fun t => t.setG d 0))) ∧
      (∀ j i at_ s3, j < natAt hd 0 4 → i < 64 → (s.prefixEntry part i).used = true → (s.prefixEntry part i).digest = natAt bs (16 * j) 16 →
        (s.prefixEntry part i).blocks = j + 1 →
        (∀ m, m < i → ¬ ((s.prefixEntry part m).used = true ∧ (s.prefixEntry part m).digest = natAt bs (16 * j) 16 ∧ (s.prefixEntry part m).blocks = j + 1)) →
        (∀ j1 m, j < j1 → j1 < natAt hd 0 4 → m < 64 →
          ¬ ((s.prefixEntry part m).used = true ∧ (s.prefixEntry part m).digest = natAt bs (16 * j1) 16 ∧ (s.prefixEntry part m).blocks = j1 + 1)) →
        s2.buffer .store (s.rg b) 256 = .ok (at_, s3) →
        ∃ t, exec (.pfxq h d a b) s = .next t ∧ Advanced h s t ∧
          Registers s.me t.me (oneReg d (BitVec.ofNat 64 (((s.prefixEntry part i).gen * 2 ^ 16 + i) * 2 ^ 32 + (j + 1)))) noReg noReg noReg ∧
          t.mem = (s3.store at_ (s.prefixEntry part i).image).mem ∧ (t.prefixEntry part i).pins = (s.prefixEntry part i).pins + 1 ∧
          (∀ p m, p ≠ part ∨ m ≠ i → p < 16 → m < 64 → t.prefixEntry p m = s.prefixEntry p m))) ∧
    (∀ at_ s1, k.imageAccess (s.rg a) = .ok (at_, s1) →
      let bs := s1.load at_ 256
      let full := ∀ i, i < 64 → (s.prefixEntry part i).used = true ∧ (s.prefixEntry part i).pins ≠ 0
      ((∃ i, i < 64 ∧ (s.prefixEntry part i).used = true ∧ (s.prefixEntry part i).digest = natAt bs 0 16 ∧ (s.prefixEntry part i).blocks = natAt bs 16 4) →
        Retires (exec (.pfxi h a) s) h s (s1.store (at_ + 24) (bytesOf 4 1))) ∧
      ((∀ i, i < 64 →
          ¬ ((s.prefixEntry part i).used = true ∧ (s.prefixEntry part i).digest = natAt bs 0 16 ∧ (s.prefixEntry part i).blocks = natAt bs 16 4)) →
        (full → Retires (exec (.pfxi h a) s) h s (s1.store (at_ + 24) (bytesOf 4 2))) ∧
        (¬ full → ∃ t i, exec (.pfxi h a) s = .next t ∧ Advanced h s t ∧ i < 64 ∧
          ((s.prefixEntry part i).used = false ∨ ((s.prefixEntry part i).pins = 0 ∧ ∀ m, m < 64 → (s.prefixEntry part m).used = true ∧
            ((s.prefixEntry part m).pins = 0 → (s.prefixEntry part i).matched ≤ (s.prefixEntry part m).matched))) ∧
          (t.prefixEntry part i).used = true ∧ (t.prefixEntry part i).digest = natAt bs 0 16 ∧ (t.prefixEntry part i).blocks = natAt bs 16 4 ∧
          (t.prefixEntry part i).pins = 0 ∧ (t.prefixEntry part i).gen = ((s.prefixEntry part i).gen + 1) % 2 ^ 16 ∧
          t.mem = (s1.store (at_ + 24) (bytesOf 4 0)).mem ∧ (∀ m, m < 64 → m ≠ i → t.prefixEntry part m = s.prefixEntry part m)))) ∧
    (∀ i, i < 64 → (s.prefixEntry part i).used = true → (s.rg a).toNat = (s.prefixEntry part i).gen * 2 ^ 16 + i →
      Retires (exec (.pfxpin h a) s) h s (k.withPrefix part i (fun e => { e with pins := e.pins + 1 })) ∧
      Retires (exec (.pfxrel h a) s) h s (k.withPrefix part i (fun e => { e with pins := e.pins - 1 })))

/-- R284: DQSEND appends its 256 bytes, with the send count in bytes 0 to 7, to a queue that has room; DQRECV takes the oldest entry to
memory, answers its number, and raises SEQERR after it where that is not the number expected. -/
def DieToDieQueuesClauses : Prop :=
  ∀ (h : Hdr) (d a b : Nat) (s : State), Issues h s → s.cur.stream = .s → s.here.window = none →
    let k := begun h s
    let die := dieOf s.cur.slot.cell
    let y := (s.rg b).toNat
    let mine := (s.binding s.cur.slot).handle
    let out := queueNo die (y % 4) (y / 4)
    let in_ := queueNo (y % 4) die (y / 4)
    y < 32 → y % 4 ≠ die → s.dieServes (s.binding s.cur.slot).part (y % 4) = true →
    ((s.dq out).sender = some mine → (s.dq out).entries.length < 64 →
      ∀ n s1, k.buffer .load (s.rg a) 256 = .ok (n, s1) →
      Retires (exec (.dqsend h a b) s) h s (s1.withDq out (fun q =>
        { q with entries := q.entries ++ [bytesOf 8 q.sends ++ (s1.load n 256).drop 8], sends := (q.sends + 1) % 2 ^ 32 }))) ∧
    ((s.dq in_).receiver = some mine → ∀ e rest n s1, (s.dq in_).entries = e :: rest → k.buffer .store (s.rg a) 256 = .ok (n, s1) →
      let s2 := ((s1.store n e).withDq in_ (fun q => { q with entries := rest, receives := (natAt e 0 4 + 1) % 2 ^ 32 })).withMe
        (fun t => t.setG d (BitVec.ofNat 64 (natAt e 0 8)))
      (natAt e 0 4 = (s.dq in_).receives → Retires (exec (.dqrecv h d a b) s) h s s2) ∧
      (natAt e 0 4 ≠ (s.dq in_).receives → s.trapHeld s.cur.slot .s 0x10 = false →
        exec (.dqrecv h d a b) s = .next (((s2.retire h).moveOn h).takeTrap s.cur.slot .s
          { cause := 0x10, sub := 0, tval := BitVec.ofNat 64 ((s.dq in_).receives * 2 ^ 32 + natAt e 0 4) }
          { report := true, async := false, succ := (s.me.line.successor (wordIndex s.me.pc) h.words).1,
            shalt := (s.me.line.successor (wordIndex s.me.pc) h.words).2 })))

/-- R285, R263: a collective instruction submits its command once and waits; once the result is there it writes the 16 bytes to the
command's bytes 48 to 63 and goes on. -/
def CollectiveInstructionsClauses : Prop :=
  ∀ (h : Hdr) (a fn : Nat) (s : State) (n : Nat) (s1 : State) (g : Group), Issues h s → s.cur.stream = .s → s.here.window = none →
    let k := begun h s
    k.buffer .load (s.rg a) 64 = .ok (n, s1) →
    Map.find s.groups (natOf (s1.load (n + 24) 8)) = some g → g.handle = (s.binding s.cur.slot).handle →
    ∀ o op ty, (o = exec (.cred h a fn) s ∧ op = 1 ∧ ty = fn) ∨ (o = exec (.cbcst h a) s ∧ op = 2 ∧ ty = 0) ∨ (o = exec (.cgath h a) s ∧ op = 3 ∧ ty = 0) →
    (s.here.submitted = none →
      ∃ t c x, o = .next t ∧ t.commands = s.commands ++ [c] ∧ c.engine = .collective ∧
        c.bytes = [BitVec.ofNat 8 op, BitVec.ofNat 8 ty] ++ (s1.load n 64).drop 2 ∧ c.direct = true ∧
        t.here.submitted = some x ∧ x.pc = s.me.pc ∧ x.id = c.id ∧ t.me.pc = s.me.pc ∧ t.me.retired = s.me.retired ∧ t.mem = s.mem ∧
        ∃ w, t.me.waiting = some w ∧ w.on = .collective) ∧
    (∀ x r s2, s.here.submitted = some x → x.pc = s.me.pc → s.results.find? (fun r => decide (r.id = x.id)) = some r →
      k.sWrite (s.rg a + 48) r.bytes 16 = .ok s2 →
      Retires o h s ({ s2 with results := s2.results.filter (fun z => decide (z.id ≠ x.id)) }.withHere (fun l => { l with submitted := none })))

/-- Die-to-die queues and collective instructions, together.
Its readings of what the rules leave open are the model's: log entries 26 and 56. -/
def Obligations.QueuesAndCollectives : Prop := DieToDieQueuesClauses ∧ CollectiveInstructionsClauses

/-- R286, R287: SIPHQ raises the urgency of an absent segment and does nothing else (a walk that it makes where a key slot is empty counts
as a refused access, R404); SEGWT goes on where the access would, or would wait for the host link alone (R410); MASKW writes 0 where the
mask is ready and 1 where its deadline has passed, and the read of a mask under an empty key slot counts as refused (R404). Its readings of
what the rules leave open are the model's: log entry 28. -/
def Obligations.SegmentsAndMasks : Prop :=
  ∀ (h : Hdr) (a b : Nat) (s : State), Issues h s → s.cur.stream = .s →
    let k := begun h s
    let v := s.rg a
    ((s.rg b).toNat < 8 →
      (k.absentSegment v = none → ∃ t, exec (.siphq h a b) s = .next t ∧ Advanced h s t ∧ Registers s.me t.me noReg noReg noReg noReg ∧
        t = { s with cells := t.cells, refused := t.refused } ∧ (∀ u, u ≠ s.cur.slot → t.slot u = s.slot u) ∧
        (∀ c n, (t.cell c).tile n = (s.cell c).tile n) ∧
        ((∀ x, k.access s.cur .load v 1 1 ≠ .error (.trap x)) → t.refused = s.refused)) ∧
      (∀ f, k.absentSegment v = some f → ∃ t, exec (.siphq h a b) s = .next t ∧ Advanced h s t ∧ Registers s.me t.me noReg noReg noReg noReg ∧
        t = { s with cells := t.cells, segments := t.segments } ∧
        (∀ die e, e ∈ Map.get [] s.segments die → e.frame = f → die = homeDie (f * 2 ^ 21) →
          { e with urgency := max e.urgency (s.rg b).toNat } ∈ Map.get [] t.segments die) ∧
        (∀ die, die ≠ homeDie (f * 2 ^ 21) → Map.find t.segments die = Map.find s.segments die))) ∧
    ((∃ n, k.access s.cur .load v 1 1 = .ok n) ∨ k.access s.cur .load v 1 1 = .error .hold → Changes (exec (.segwt h a) s) h s id) ∧
    (s.here.window = none → v.toNat / 2 ^ 61 = 0 ∨ v.toNat / 2 ^ 61 = 5 → ∀ n x m s1, k.sAccess .load false v 16 16 = .ok (n, x) →
      k.sAccess .store true v 16 16 = .ok (m, s1) →
      let cell := natOf (s.load n 8)
      let ready := cell / 2 ^ 63 = 1 ∧ cell % 2 ^ 32 = (s.rg b).toNat / 2 ^ 32
      (ready → Retires (exec (.maskw h a b) s) h s ((s1.countLoad n).store (n + 8) (bytesOf 8 0))) ∧
      (¬ ready → maskLate s.cyc (s.rg b) = true → Retires (exec (.maskw h a b) s) h s ((s1.countLoad n).store (n + 8) (bytesOf 8 1))))

/-! ### Events of a slot (95) -/

/-- An event changes no more than cells, and there no other slot than u and no tile. -/
structure OnlySlot (s t : State) (u : SlotId) : Prop where
  machine : t = { s with cells := t.cells }
  slots : ∀ w, w ≠ u → t.slot w = s.slot w
  tiles : ∀ c n, (t.cell c).tile n = (s.cell c).tile n

/-- A slot holds a unit, is the active one of its cell, and runs no handler. -/
structure SlotRuns (s : State) (u : SlotId) : Prop where
  bound : (s.slot u).bound ≠ none
  active : (s.cell u.cell).active = u.h1
  quiet : (s.slot u).handler = none

/-- Cause and subcode of the trap of an encoding (Table 4.6). -/
def encodingCause (t : DecodeTrap) : Nat × Nat :=
  match t with
  | .op => (1, 0)
  | .fn => (1, 1)
  | .target => (1, 4)
  | .len => (2, 0)
  | .spill => (2, 1)
  | .short => (2, 2)
  | .opcode => (3, 0)
  | .token => (3, 2)
  | .priv => (5, 0)
  | .reg => (4, 0)

/-- R120, R210, R287, R311, R61: an encoding that decode rejects traps with its code address, and any other stays; the oldest V result that
is due lands; a pending CANCEL, or else DEADLINE, is taken; a parked stream whose segment is no longer absent may move; MASKW at its
deadline is executed again, and writes 1 where its mask is not ready. Its readings of what the rules leave open are the model's: log entries
7, 24 and 28. -/
def Obligations.SlotEvents : Prop :=
  (∀ (s : State) (e : DecodeTrap), s.here.bound ≠ none →
    (s.rejects e = true → exec (.encodingTrap e) s = .next (s.takeTrap s.cur.slot s.cur.stream
      { cause := (encodingCause e).1, sub := (encodingCause e).2, tval := BitVec.ofNat 64 s.me.pc } TrapMode.precise)) ∧
    (s.rejects e = false → exec (.encodingTrap e) s = .next s)) ∧
  (∀ (s : State) (u : SlotId), SlotRuns s u →
    (∀ before e after, (s.slot u).vflight = before ++ e :: after → (∀ x ∈ before, x.offset ≠ 0) → e.offset = 0 → s.landingTrap u = none →
      (s.slot u).s.halted = false →
      exec (.vResultLand u) s = .next ((s.withSlot u (fun l => { l with vflight := before ++ after })).landEntry u e)) ∧
    ((s.slot u).activated = true → (s.slot u).cancel = true → (s.slot u).window = none → s.trapHeld u .s 0x14 = false →
      ∃ v, exec (.asyncTrapTake u) s = .next ((s.withSlot u (fun l => { l with cancel := false, tookCancel := true, cancelOrder := s.fresh })).takeTrap u .s
        { cause := 0x14, sub := 0, tval := v } { report := false, async := true, succ := 0, shalt := false })) ∧
    ((s.slot u).activated = true → (s.slot u).cancel = false → (s.slot u).deadline = true → s.trapHeld u .s 0x11 = false →
      ∃ v, exec (.asyncTrapTake u) s = .next ((s.withSlot u (fun l => { l with deadline := false })).takeTrap u .s
        { cause := 0x11, sub := 0, tval := v } { report := false, async := true, succ := 0, shalt := false })) ∧
    (∀ st k w f r, st ≠ .x → ((s.slot u).stream st).waiting = some w → w.on = .segment f → Map.find s.residency f = some r →
      ∃ t, exec (.parkRetry u st k) s = .next t ∧ OnlySlot s t u ∧
        t.slot u = (s.slot u).withStream st (fun x => { x with waiting := none })) ∧
    (∀ h a b w, (s.slot u).s.waiting = some w → w.on = .mask → s.instrAt { slot := u, stream := .s } = .maskw h a b →
      maskLate s.cyc ((s.slot u).s.gReg b) = true →
      let s1 : State := { s with cur := { slot := u, stream := .s } }
      let v := s1.rg a
      (∃ t, exec (.maskw h a b) s1 = .next t ∧ exec (.maskwDeadline u) s = .next { t with cur := s.cur }) ∧
      (Issues h s1 → (s.slot u).window = none → v.toNat / 2 ^ 61 = 0 ∨ v.toNat / 2 ^ 61 = 5 →
        ∀ n x m s2, (begun h s1).sAccess .load false v 16 16 = .ok (n, x) → (begun h s1).sAccess .store true v 16 16 = .ok (m, s2) →
        let cell := natOf (s.load n 8)
        let late := if cell / 2 ^ 63 = 1 ∧ cell % 2 ^ 32 = (s1.rg b).toNat / 2 ^ 32 then 0 else 1
        exec (.maskwDeadline u) s =
          .next { (((((s2.countLoad n).store (n + 8) (bytesOf 8 late)).retire h).moveOn h).settleUnit u) with cur := s.cur })))

/-- R55 to R57, R60: PAGE_WALK for a stream of a bound unit puts the leaf that a walk of its address finds into the buffer named, for the
whole page; it changes no other buffer and nothing else; a walk that fails leaves everything but the count of refused accesses (R404). -/
def PageWalksClauses : Prop :=
  ∀ (s : State) (u : SlotId) (st : Stream) (va : Word) (b : Binding), (s.slot u).bound = some b → va.toNat < 2 ^ 57 →
    (∀ sub, s.walk b.part b.root va.toNat = .error sub → ∀ lv,
      ∃ t, exec (.pageWalk u st va lv) s = .next t ∧ t = { s with refused := t.refused }) ∧
    (∀ lv leaf, s.walk b.part b.root va.toNat = .ok (lv, leaf) →
      (bitOf leaf 6 = false ∨ Map.find s.residency (frameOf (pageBase lv leaf)) = some .resident) →
      let e : BufferEntry := { handle := b.handle, va := va.toNat / pageSize lv leaf * pageSize lv leaf, size := pageSize lv leaf, leaf := leaf }
      (∃ t, exec (.pageWalk u st va .first) s = .next t ∧ OnlySlot s t u ∧ e ∈ ((t.slot u).stream st).buffer ∧
        (t.slot u) = (s.slot u).withStream st (fun x => { x with buffer := ((t.slot u).stream st).buffer }) ∧
        (∀ x ∈ ((t.slot u).stream st).buffer, x = e ∨ x ∈ ((s.slot u).stream st).buffer)) ∧
      (∃ t, exec (.pageWalk u st va .shared) s = .next t ∧ t = { s with buffers := t.buffers } ∧ e ∈ Map.get [] t.buffers (bufferOf u.cell) ∧
        (∀ k, k ≠ bufferOf u.cell → Map.get [] t.buffers k = Map.get [] s.buffers k)))

/-! ### Events of the engines of a die (95) -/

/-- From every translation buffer exactly the entries that meet a test are gone (R59). -/
structure Purged (s t : State) (gone : BufferEntry → Prop) : Prop where
  first : ∀ u st e, e ∈ ((t.slot u).stream st).buffer ↔ e ∈ ((s.slot u).stream st).buffer ∧ ¬ gone e
  shared : ∀ k e, e ∈ Map.get [] t.buffers k ↔ e ∈ Map.get [] s.buffers k ∧ ¬ gone e
  memory : t.mem = s.mem
  residency : t.residency = s.residency

/-- A command has been answered, with a result for the unit that gave it (R201). -/
structure Answered (s t : State) (c : Command) (bytes : List Byte) : Prop where
  gone : t.commands = s.commands.filter (fun x => decide (x.id ≠ c.id))
  result : ({ id := c.id, engine := c.engine, unit := c.unit, bytes := bytes, direct := c.direct } : Result) ∈ t.results
  others : ∀ r ∈ s.results, r ∈ t.results
  memory : t.mem = s.mem

/-- The 16 bytes of a result: TAG, STATUS, zeros. -/
def resultOf (tag status : Nat) : List Byte := bytesOf 8 tag ++ [BitVec.ofNat 8 status] ++ List.replicate 7 0

/-- R58, R59, R399: the oldest command at a walker, valid and permitted, removes from every buffer the entries of its handle that overlap
its range by a byte, all of its handle, or all, and is answered OK; WGO hands a VF's command over. -/
def WalkerEventsClauses : Prop :=
  (∀ (s : State) (die : Nat) (c : Command) (rest : List Command), s.waitingAt die .walker = c :: rest → c.vf = 0 → s.unitLives c.unit = true →
    walkBad c.bytes = false → s.walkDenied c = false →
    let h := natAt c.bytes 1 2
    let lo := natAt c.bytes 8 8 / 4096 * 4096
    let n := (natAt c.bytes 16 8 + 4095) / 4096 * 4096
    let ok := resultOf (natAt c.bytes 24 8) 0
    (byteAt c.bytes 0 = 1 → ∃ t, exec (.walkerInvalidateRange die 0) s = .next t ∧ Answered s t c ok ∧
      Purged s t (fun e => e.handle = h ∧ e.va < lo + n ∧ lo < e.va + e.size ∧ 0 < n)) ∧
    (byteAt c.bytes 0 = 2 → ∃ t, exec (.walkerInvalidateHandle die 0) s = .next t ∧ Answered s t c ok ∧ Purged s t (fun e => e.handle = h)) ∧
    (byteAt c.bytes 0 = 3 → ∃ t, exec (.walkerInvalidateAll die 0) s = .next t ∧ Answered s t c ok ∧ Purged s t (fun _ => True))) ∧
  (∀ (s : State) (vf : Nat), 1 ≤ vf → vf ≤ 16 → (Map.get VfWalker.blank s.vfs vf).wgo = false →
    ∃ t c, exec (.walkerHostSubmit vf) s = .next t ∧ t.commands = s.commands ++ [c] ∧ c.engine = .walker ∧ c.vf = vf ∧
      c.bytes.take 32 = ((Map.get VfWalker.blank s.vfs vf).wcmd ++ List.replicate 32 0).take 32 ∧ c.die = byteAt c.bytes 3 % 4 ∧
      (Map.get VfWalker.blank t.vfs vf).wgo = true ∧ (∀ k, k ≠ vf → Map.get VfWalker.blank t.vfs k = Map.get VfWalker.blank s.vfs k) ∧
      t.mem = s.mem ∧ t.cells = s.cells)

/-- Page walks and the commands of the walkers, together.
Its readings of what the rules leave open are the model's: log entries 44 and 47. -/
def Obligations.WalksAndInvalidations : Prop := PageWalksClauses ∧ WalkerEventsClauses

/-- R434: a valid Siphon command, first of its unit there, is answered with the state and the urgency of the segment that its address names;
URGE raises the urgency of an absent one first; an address that no SEG leaf maps is answered NOTSEG. -/
def SiphonCommandsClauses : Prop :=
  ∀ (s : State) (die k : Nat) (c : Command), (s.waitingAt die .siphon)[k]? = some c → c.vf = 0 → s.unitLives c.unit = true →
    s.behindAnother c (fun _ => true) = false → siphonBad c.bytes = false →
    let tag := bytesOf 8 (natAt c.bytes 24 8)
    let seg := s.segFrame c.handle (BitVec.ofNat 64 (natAt c.bytes 8 8))
    let urgency (t : State) (f : Nat) : Nat := ((t.segmentAt f).map (fun e => e.urgency)).getD 0
    let word (st : Option Residency) : Nat := match st with
      | none => 0
      | some .resident => 1
      | some .failed => 2
    (byteAt c.bytes 0 = 1 →
      (seg = none → ∃ t, exec (.siphonQuery die k) s = .next t ∧ Answered s t c (tag ++ [2, 0, 0, 0, 0, 0, 0, 0])) ∧
      (∀ f, seg = some f → ∃ t, exec (.siphonQuery die k) s = .next t ∧ t.segments = s.segments ∧
        Answered s t c (tag ++ [0, BitVec.ofNat 8 (word (Map.find s.residency f)), BitVec.ofNat 8 (urgency s f), 0, 0, 0, 0, 0]))) ∧
    (byteAt c.bytes 0 = 2 → ∀ f, seg = some f →
      (Map.find s.residency f ≠ none → ∃ t, exec (.siphonUrge die k) s = .next t ∧ t.segments = s.segments ∧
        Answered s t c (tag ++ [0, BitVec.ofNat 8 (word (Map.find s.residency f)), BitVec.ofNat 8 (urgency s f), 0, 0, 0, 0, 0])) ∧
      (∀ e, Map.find s.residency f = none → s.segmentAt f = some e → ∃ t, exec (.siphonUrge die k) s = .next t ∧
        Answered s t c (tag ++ [0, 0, BitVec.ofNat 8 (max e.urgency (byteAt c.bytes 1)), 0, 0, 0, 0, 0]) ∧
        t.segmentAt f = some { e with urgency := max e.urgency (byteAt c.bytes 1) }))

/-- R356, R412, R269: a reply that is valid, routed and readable leaves from its port, sealed under its micro-context's key, and is answered
OK, or LINKDOWN where the port is down; a stream's due notice, or else its lowest handed entries, leave under the next OSEQ. That a slot
without a key seals under a key of its own is the model's choice, log entry 70, and so is that an entry leaves as the record holds it where
its region cannot be read, log entry 104. Its other readings of what the rules leave open are log entries 39 and 58. -/
def Obligations.EgressEvents : Prop :=
  (∀ (s : State) (die k : Nat) (c : Command) (route : Word) (port : Nat) (ks : List Nat), (s.waitingAt die .egress)[k]? = some c → c.vf = 0 →
    s.unitLives c.unit = true → s.behindAnother c (fun _ => true) = false → egressBad c.bytes = false → c.route = some (route, port) →
    natAt c.bytes 8 8 = route.toNat → s.commandRange c .load (BitVec.ofNat 64 (natAt c.bytes 24 8)) (natAt c.bytes 32 4) = .ok ks →
    let head := frameHeader 2 0 c.handle (natAt c.bytes 16 8)
    let tag := natAt c.bytes 40 8
    (s.portIsDown port = false → ∃ t, exec (.egressReply die k) s = .next t ∧ Answered s t c (resultOf tag 0) ∧
      t.out = s.out ++ [.frame port (head ++ gcmSeal (s.sealingKey (s.mc c.handle).keySlot) (frameNonce 2 0 c.handle (natAt c.bytes 16 8)) head (s.loadEach ks))]) ∧
    (s.portIsDown port = true → ∃ t, exec (.egressReply die k) s = .next t ∧ Answered s t c (resultOf tag 3) ∧ t.out = s.out)) ∧
  (∀ (s : State) (k n port : Nat), (s.srec k).owner ≠ 0xFFFF → s.streamPort k = some port →
    let r := s.srec k
    let seq := r.oseq + 1
    let frame (type : Nat) (plain : List Byte) : Output :=
      let head := frameHeader type k r.owner seq
      .frame port (head ++ gcmSeal (s.sealingKey (s.mc r.owner).keySlot) (frameNonce type k r.owner seq) head plain)
    (∀ p rest, r.notices = p :: rest → ∃ t, exec (.egressStreamSend k n) s = .next t ∧ t.out = s.out ++ [frame 5 (bytesOf 4 p ++ List.replicate 4 0)] ∧
      (t.srec k).oseq = seq ∧ (t.srec k).notices = rest ∧ (t.srec k).delivery = r.delivery ∧ t.mem = s.mem ∧ t.cells = s.cells) ∧
    (r.notices = [] → r.toSend (min n 1016) ≠ [] → (∀ e ∈ r.toSend (min n 1016), s.readHeld r.owner (r.ringAt 3 e.pos) = false) →
      ∃ t, exec (.egressStreamSend k n) s = .next t ∧ (t.srec k).oseq = seq ∧
      t.out = s.out ++ [frame 4 ((r.toSend (min n 1016)).flatMap (fun e => (s.mcLoad r.owner (r.ringAt 3 e.pos) 8).getD (bytesOf 4 e.token ++ bytesOf 4 e.pos)))] ∧
      (∀ e ∈ (t.srec k).delivery, e.sent = true → e.pos < r.p → e.prov = true) ∧ t.mem = s.mem ∧ t.cells = s.cells))

/-- R285: a collective command that its group accepts and whose bytes can be reached takes its member's next ordinal; one that the group
rejects is answered BADDESC and takes none. Members whose commands differ in OP, TYPE or COUNT all receive MISMATCH, and no byte of memory
changes. -/
def CollectiveSubmissionClauses : Prop :=
  (∀ (s : State) (die k : Nat) (c : Command) (o : Answer), (s.waitingAt die .collective)[k]? = some c → c.ordinal = none →
    s.behindAnother c (fun x => x.ordinal.isNone) = false →
    (collOp c.bytes = 1 ∧ o = exec (.collectiveReduce die k) s) ∨ (collOp c.bytes = 2 ∧ o = exec (.collectiveBroadcast die k) s) ∨
      (collOp c.bytes = 3 ∧ o = exec (.collectiveGather die k) s) →
    (Map.find s.groups (collGroup c.bytes) = none → c.vf = 0 → s.unitLives c.unit = true →
      ∃ t, o = .next t ∧ Answered s t c (resultOf (collTag c.bytes) 2) ∧ t.groups = s.groups) ∧
    (∀ g m ks ds, collGroup c.bytes < 256 → Map.find s.groups (collGroup c.bytes) = some g → g.handle = c.handle → collBad g c.unit.index c.bytes = false →
      g.members.find? (fun m => decide (m.team = c.unit.index)) = some m →
      s.commandRange c .load (collSrc c.bytes) (collSize c.bytes) = .ok ks → s.commandRange c .store (collDst c.bytes) (collDstSize g c.bytes) = .ok ds →
      s.dieServes (s.mc c.handle).part c.die = true →
      ∃ t, o = .next t ∧ t.mem = s.mem ∧ t.results = s.results ∧
        (∀ x, x ∈ s.commands → x.id = c.id → { x with ordinal := some m.next } ∈ t.commands) ∧ (∀ x, x ∈ s.commands → x.id ≠ c.id → x ∈ t.commands) ∧
        ∃ g1, Map.find t.groups (collGroup c.bytes) = some g1 ∧ ∀ x, x ∈ g.members →
          (if x.team = c.unit.index then { x with next := x.next + 1 } else x) ∈ g1.members)) ∧
  (∀ (s : State) (n ordinal : Nat) (g : Group) (cs : List Command) (c : Command) (rest : List Command), Map.find s.groups n = some g → g.peers = [] → g.lost = [] →
    g.contribs = [] →
    (∀ m ∈ g.ranked, ∃ x, s.memberCommand g n ordinal m = some x) → cs = g.ranked.filterMap (s.memberCommand g n ordinal) → cs = c :: rest →
    (mismatched cs = true → ∃ t, exec (.collectiveComplete n ordinal) s = .next t ∧ t.mem = s.mem ∧
      (∀ x ∈ cs, x.vf = 0 → s.unitLives x.unit = true →
        ({ id := x.id, engine := x.engine, unit := x.unit, bytes := resultOf (collTag x.bytes) 1, direct := x.direct } : Result) ∈ t.results) ∧
      (∀ x ∈ t.commands, ∀ y ∈ cs, x.id ≠ y.id)) ∧
    (mismatched cs = true ↔ ∃ x ∈ rest, collOp x.bytes ≠ collOp c.bytes ∨ collType x.bytes ≠ collType c.bytes ∨ collCount x.bytes ≠ collCount c.bytes))

/-- An element of a reduction over ranks, from the elements of the members in rank order (R285, R96, R99, R100): sums and minima from left
to right, each sum rounded once to nearest; of pairs the one over which no other wins, its value NaN as the canonical NaN. -/
def ReducedElement (type : Nat) (first : Nat) (others : List Nat) (v : Nat) : Prop :=
  (type = 0 → v = others.foldl (fun x y => (arithLane .add .f32 (.round .rne) 0 x y).1) first) ∧
  (type = 1 → ∃ w ∈ first :: others, (∀ z ∈ first :: others, ¬ pairBeats .fp32 (z % 2 ^ 32, z / 2 ^ 32) (w % 2 ^ 32, w / 2 ^ 32)) ∧
    v = w / 2 ^ 32 * 2 ^ 32 + if (fp32.value (w % 2 ^ 32)).isNan then 0x7FC00000 else w % 2 ^ 32) ∧
  (type = 2 → v = others.foldl (minMax .f32 false) first)

/-- R285, R100: where the members of a group agree and each has brought its command, with SRC and DST that can be reached, each receives
STATUS 0 and at its DST the outcome: the reduction of the members' elements, ROOT's data, or the data of all in rank order. No other byte of
memory changes. -/
def CollectiveOutcomeClauses : Prop :=
  ∀ (s : State) (n ordinal : Nat) (g : Group) (c : Command) (rest : List Command) (src dst : Command → List Nat), Map.find s.groups n = some g →
    g.peers = [] → g.lost = [] → g.contribs = [] → g.rank < 256 →
    (∀ m ∈ g.ranked, ∃ x, s.memberCommand g n ordinal m = some x) → g.ranked.filterMap (s.memberCommand g n ordinal) = c :: rest →
    mismatched (c :: rest) = false →
    (∀ x ∈ c :: rest, s.commandRange x .load (collSrc x.bytes) (collSize x.bytes) = .ok (src x)) →
    (∀ x ∈ c :: rest, s.commandRange x .store (collDst x.bytes) (collDstSize g x.bytes) = .ok (dst x)) →
    (c :: rest).Pairwise (fun x y => x.id ≠ y.id ∧ ∀ a ∈ dst x, a ∉ dst y) → (∀ x ∈ c :: rest, (dst x).Nodup ∧ ∀ a ∈ dst x, s.keyed a = true) →
    ∃ t, exec (.collectiveComplete n ordinal) s = .next t ∧
      (∀ x ∈ c :: rest, x.vf = 0 → s.unitLives x.unit = true →
        ({ id := x.id, engine := x.engine, unit := x.unit, bytes := resultOf (collTag x.bytes) 0, direct := x.direct } : Result) ∈ t.results) ∧
      (∀ x ∈ t.commands, ∀ y ∈ c :: rest, x.id ≠ y.id) ∧
      (∀ a, (∀ x ∈ c :: rest, a ∉ dst x) → Memory.byte t.mem a = Memory.byte s.mem a) ∧
      ∀ x ∈ c :: rest,
        let got := t.loadEach (dst x)
        let es := if collType c.bytes = 1 then 8 else 4
        let elem (y : Command) (i : Nat) : Nat := natAt (s.loadEach (src y)) (es * i) es
        (collOp c.bytes = 1 → ∀ i, i < collCount c.bytes → collType c.bytes < 3 →
          ReducedElement (collType c.bytes) (elem c i) (rest.map (fun y => elem y i)) (natAt got (es * i) es)) ∧
        (collOp c.bytes = 2 → ∀ y, (c :: rest)[collRoot x.bytes]? = some y → got = s.loadEach (src y)) ∧
        (collOp c.bytes = 3 → got = (c :: rest).flatMap (fun y => s.loadEach (src y)))

/-- The submission of collective commands, and what their completion gives each member, together. Where a group has one member its element
is passed on with its bits as they are, log entry 99; where a DST can no longer be reached, a case that the clauses leave out, its member
alone receives FAULT, log entry 98. These and its readings of what the rules leave open, log entry 45, are the model's. -/
def Obligations.CollectiveEvents : Prop := CollectiveSubmissionClauses ∧ CollectiveOutcomeClauses

/-! ### Events of the Siphon's sources (95) -/

/-- R11, R432, R433, R60, R366: the Siphon starts on the first source that can be tried of the segment whose turn it is, where a drive's
queue pair has room; host-placed data alone before SEGCHK, and flash alone without a drive that is ready, are not tried; data that match the
hash make the frame resident, and data that do not fail the source; a source that has not answered within 100 ms fails; after the last
source the frame is failed. -/
def SegmentSourcesClauses : Prop :=
  ∀ (s : State) (die f : Nat) (e : Segment), (s.segmentsOn die).find? (fun x => decide (x.frame = f)) = some e →
    (∀ src, s.isNext die e = true → s.nextSource e = some src → s.sourceRoom e src = true →
      ∃ t, exec (.siphonFetch die f) s = .next t ∧ t.residency = s.residency ∧ t.mem = s.mem ∧
        ({ e with reading := some src, since := s.cyc } ∈ t.segmentsOn die) ∧
        (src = 1 → ∀ v, Map.find s.drives e.drive = some v → t.out = s.out ++ [.flashRead e.drive 1 e.lba (2 ^ 21 / v.block)]) ∧
        (src = 0 → t.out = s.out)) ∧
    (∀ src, s.nextSource e = some src → s.sourceRoom e src = false → exec (.siphonFetch die f) s = .next s) ∧
    (e.asked = false → bitOf e.src 1 = false → bitOf e.src 2 = false → exec (.siphonFetch die f) s = .next s) ∧
    (bitOf e.src 0 = false → bitOf e.src 2 = false → (∀ v, Map.find s.drives e.drive = some v → v.ready = false) →
      exec (.siphonFetch die f) s = .next s) ∧
    (∀ data, e.reading = some 1 → data.length = 2 ^ 21 → f < 2 ^ 19 →
      (shake256 data 32 = bytesOf 32 e.hash → ∃ t, exec (.segmentCheck die f data) s = .next t ∧ Map.find t.residency f = some .resident ∧
        Memory.read t.mem (f * 2 ^ 21) (2 ^ 21) = data ∧ (∀ a, a < f * 2 ^ 21 ∨ (f + 1) * 2 ^ 21 ≤ a → Memory.byte t.mem a = Memory.byte s.mem a) ∧
        (∀ x, x ≠ f → Map.find t.residency x = Map.find s.residency x)) ∧
      (shake256 data 32 ≠ bytesOf 32 e.hash → ∃ t, exec (.segmentCheck die f data) s = .next t ∧
        Map.find t.residency f = (if [0, 1, 2].all (fun k => !bitOf e.src k || decide (k = 1) || e.failed.contains k) then some .failed
          else Map.find s.residency f))) ∧
    (e.reading = some 0 → e.asked = true → shake256 (Memory.read s.mem (f * 2 ^ 21) (2 ^ 21)) 32 = bytesOf 32 e.hash → ∀ data,
      ∃ t, exec (.segmentCheck die f data) s = .next t ∧ Map.find t.residency f = some .resident ∧ t.mem = s.mem) ∧
    (∀ src, e.reading = some src → e.since + 100000000 ≤ s.cyc → ∃ t, exec (.siphonSourceTimeout die f) s = .next t ∧ t.mem = s.mem ∧
      (∃ x ∈ t.segmentsOn die, x.frame = f ∧ x.reading = none ∧ src ∈ x.failed) ∧
      Map.find t.residency f = (if [0, 1, 2].all (fun k => !bitOf e.src k || decide (k = src) || e.failed.contains k) then some .failed
        else Map.find s.residency f)) ∧
    (∀ src, e.reading = some src → s.cyc < e.since + 100000000 → exec (.siphonSourceTimeout die f) s = .next s)

/-- The Siphon's commands and its sources, together.
Its readings of what the rules leave open are the model's: log entries 46 and 60. -/
def Obligations.SiphonEvents : Prop := SiphonCommandsClauses ∧ SegmentSourcesClauses

/-! ### Frames and queues (95) -/

/-- R337, R338, R412, R268, R451: a request frame that opens under its micro-context's key and is no replay takes the lowest free ring slot,
and a job of it begins or waits; a stream frame takes the lowest free buffer of its record and is queued; a frame that does not open is
counted and nothing else changes. A port goes down and comes up. -/
def FrameEventsClauses : Prop :=
  (∀ (s : State) (port : Nat) (frame : List Byte) (d : Datagram), s.arrives port frame = some d →
    let p := d.payload
    let h := frameHandle p
    (s.mc h).state ≠ .invalid → (s.mc h).state ≠ .drain →
    (frameFormed 1 p = true →
      (s.openFrame h p = none → exec (.serviceRequestFrame port frame) s = .next (s.withMc h (fun m => { m with authfail := min (m.authfail + 1) (2 ^ 32 - 1) }))) ∧
      (∀ plain k, s.openFrame h p = some plain → windowAccepts (Map.find s.replay h) (frameSeq p) = true → (s.mc h).freeRing = some k →
        exec (.serviceRequestFrame port frame) s =
          .next ({ s with replay := Map.set s.replay h (windowMoves (Map.find s.replay h) (frameSeq p)) }.placeRequest h port k (frameSeq p) plain)) ∧
      (∀ plain, s.openFrame h p = some plain → windowAccepts (Map.find s.replay h) (frameSeq p) = false →
        exec (.serviceRequestFrame port frame) s = .next (s.withMc h (fun m => { m with authfail := min (m.authfail + 1) (2 ^ 32 - 1) })))) ∧
    (frameFormed 3 p = true → frameStream p < 4096 → (s.srec (frameStream p)).owner = h →
      ∀ plain k, s.openFrame h p = some plain → byteAt plain 4 < 4 → zeroAt plain 5 3 = true →
        windowAccepts (Map.find s.replayStream (frameStream p)) (frameSeq p) = true → (s.srec (frameStream p)).freeBuffer = some k → (s.mc h).wake = false →
        let f : StreamFrame := { play := natAt plain 0 4, kind := byteAt plain 4, len := (plain.length - 8) / 4, buf := k }
        ∃ t, exec (.streamInputFrame port frame) s = .next t ∧
          t.srec (frameStream p) = { s.srec (frameStream p) with queue := (s.srec (frameStream p)).queue ++ [f] } ∧
          (∀ n, n ≠ frameStream p → t.srec n = s.srec n) ∧ t.cells = s.cells ∧ t.mcs = s.mcs ∧
          Map.find t.replayStream (frameStream p) = some (windowMoves (Map.find s.replayStream (frameStream p)) (frameSeq p)))) ∧
  (∀ (s : State) (port : Nat),
    (port < 8 → ∃ t, exec (.ethernetPortDown port) s = .next t ∧ t = { s with portDown := t.portDown } ∧ t.portIsDown port = true ∧
      ∀ q, q ≠ port → t.portIsDown q = s.portIsDown q) ∧
    (∃ t, exec (.ethernetPortUp port) s = .next t ∧ t = { s with portDown := t.portDown } ∧ t.portIsDown port = false ∧
      ∀ q, q ≠ port → t.portIsDown q = s.portIsDown q))

/-- R412: a sequence number that a replay window has accepted is not accepted again, and one that lies more than 64 below the highest never
is. -/
def ReplayWindowClauses : Prop :=
  ∀ (w : Option Replay) (seq other : Nat), windowAccepts w seq = true →
    windowAccepts (some (windowMoves w seq)) seq = false ∧
    (windowAccepts w other = false → windowAccepts (some (windowMoves w seq)) other = false) ∧
    (∀ r, w = some r → r.high ≤ seq + 64) ∧
    (∀ r, w = some r → r.high < other → other ≠ seq → seq ≤ other + 64 → windowAccepts (some (windowMoves w seq)) other = true)

/-- R354, R355: a notify of a higher tail for a queue that is not mapped sets PEND; QUEUE_REMAP of the queue whose turn it is, with a slot
free, maps it, clears PEND and reads every entry up to the tail. -/
def QueueEventsClauses : Prop :=
  ∀ (s : State) (h : Nat), h < 4096 → (s.mc h).state ≠ .invalid → (s.mc h).state ≠ .drain →
    (∀ value, (s.mc h).mapped = false →
      ∃ t, exec (.queueNotify ((s.mc h).part + 1) (256 * h) value) s = .next t ∧ t = { s with mcs := t.mcs } ∧ (t.mc h).pend = true ∧
        (t.mc h).tail = max value (s.mc h).tail ∧ (t.mc h).head = (s.mc h).head ∧ (t.mc h).waiting = (s.mc h).waiting ∧
        ∀ n, n ≠ h → t.mc n = s.mc n) ∧
    ((s.mc h).pend = true → (s.mc h).qsrc ≠ 0 → s.queueHeld h = false → (s.mc h).mapped = false → s.remapsFirst h = true → (s.mcs.filter (fun e => e.2.mapped)).length < 512 →
      exec (.queueRemap h) s = .next ((s.withMc h (fun m => { m with pend := false, mapped := true })).readQueue h))

/-- R338: a request placed in slot k of the request ring, of a micro-context that has a job in progress, leaves its descriptor at the slot
and its payload from byte 64 on, and nothing else in memory; the slot is taken, and a job for LREC with the slot's address as PARAM waits. -/
def RequestPlacementClauses : Prop :=
  ∀ (s : State) (h port k seq : Nat) (payload : List Byte) (ks : List Nat),
    (s.mc h).job.isSome = true → payload.length < 2 ^ 32 → port < 8 → k < 16 → seq < 2 ^ 64 → s.cyc < 2 ^ 64 →
    let slot := (s.mc h).rqring + BitVec.ofNat 64 (8192 * k)
    let t := s.placeRequest h port k seq payload
    let bs := t.loadEach ks
    s.mcPlaces h .store slot (64 + payload.length) = .ok ks → LinkFlows s h → ks.Nodup → (∀ x ∈ ks, s.keyed x = true) →
    (∀ x, x ∉ ks → Memory.byte t.mem x = Memory.byte s.mem x) ∧
    natAt bs 0 8 = (slot + 64).toNat ∧ natAt bs 8 4 = payload.length ∧ natAt bs 12 4 = port ∧ natAt bs 16 8 = seq ∧ natAt bs 32 8 = s.cyc ∧
    natAt bs 40 8 = k ∧ natAt bs 48 16 = 0 ∧ bs.drop 64 = payload ∧
    (t.mc h).ring = k :: (s.mc h).ring ∧
    ∃ p ∈ (t.mc h).waiting, p.source = .request k ∧ p.lrec = (s.mc h).lrec ∧ p.param = slot ∧ p.seq = seq ∧ natAt bs 24 8 = p.route.toNat

/-- Frames that arrive, their places in the request ring, replay windows and queues, together. That AUTHFAIL stays at 2^32 − 1 is the
model's choice: log entry 89. Its other readings of what the rules leave open are the model's too: log entries 57, 58 and 59. -/
def Obligations.FramesAndQueues : Prop := FrameEventsClauses ∧ RequestPlacementClauses ∧ ReplayWindowClauses ∧ QueueEventsClauses

/-! ### The Ladles and the clocks (95) -/

/-- R341, R342, R151, R26, R42, R325: where no waiting job of the die begins, LADLE_BIND binds the first waiting launch of the order of
service that has a place, and then looks at cells of its die whose active slot is empty; a launch of one unit that takes an empty cell
starts there at its entry addresses, with zero registers, an empty mask stack and heap, at its level, and its bind clears the store after
another micro-context. A boundary request that is 25 µs old becomes a forced pre-emption, and a younger one does nothing. That the registers
are zero until S first issues, when the parameter block is read, is the model's choice: log entry 34. Its other readings of what the rules
leave open are log entries 48 and 51. -/
def Obligations.Binding : Prop :=
  (∀ (s : State) (die n b : Nat) (l : Launch) (rest : List Nat), (s.die die).up = true →
    (∀ e ∈ s.mcs, e.2.home = die → e.2.waiting = []) → (s.readyQueue die).flatMap s.waitingLaunches = n :: rest → Map.find s.launches n = some l →
    l.areasWanted ≤ (s.areasFree l.mc).length → s.placeFor n l = some b → s.bindHeld l b = false →
    ∃ cs : List Nat, (∀ c ∈ cs, dieOf c = die) ∧ exec (.ladleBind die) s = .next (cs.foldl (fun r c => r.wakeCell c) (s.bindLaunch n b))) ∧
  (∀ (s : State) (n b : Nat) (l : Launch) (x : UnitSt), Map.find s.launches n = some l → l.record.gsize = 0 → l.units = [x] → x.status = .waiting →
    (s.slot { cell := b, h1 := false }).bound = none → (s.slot { cell := b, h1 := true }).bound = none → s.forcing l.job = false → LinkFlows s l.mc →
    (l.record.sentry ≠ 0 ∨ l.record.ventry ≠ 0 ∨ l.record.mentry ≠ 0 ∨ l.record.xentry ≠ 0) →
    let t := (s.bindLaunch n b).slot { cell := b, h1 := false }
    t.bound.map (fun k => (k.unit, k.handle)) = some ({ launch := n, index := 0 }, l.mc) ∧ ((s.bindLaunch n b).cell b).active = false ∧
    (t.s.pc = l.record.sentry ∧ t.v.pc = l.record.ventry ∧ t.m.pc = l.record.mentry ∧ t.x.pc = l.record.xentry) ∧
    (t.s.halted = decide (l.record.sentry = 0) ∧ t.v.halted = decide (l.record.ventry = 0) ∧ t.m.halted = decide (l.record.mentry = 0) ∧
      t.x.halted = decide (l.record.xentry = 0)) ∧
    (∀ st, (t.stream st).g = [] ∧ (t.stream st).q = [] ∧ (t.stream st).vq = []) ∧ t.mstack = [] ∧ t.heap = [] ∧ t.fifo = [] ∧
    t.sr.level = min (s.mc l.mc).level (s.ceiling l.mc) ∧
    ((s.cell b).lastMc ≠ some l.mc → ∀ i, i < 2 ^ 20 → Memory.byte (s.bindUnit n b 0).mem (cellStoreAt b + i) = 0)) ∧
  (∀ (s : State) (n t : Nat) (l : Launch), Map.find s.launches n = some l → l.request = some t →
    exec (.boundaryTimeout n) s = .next (if t + 25000 ≤ s.cyc then s.forceOut n else s))

/-- R345, R346, R348: the two units of a cell at one level alternate when the slice has ended, and the running one yields when it has waited
for 2,000 c and the other does not wait in the same way; the level of a ready micro-context rises by one after a whole AGE, up to CEIL; a
job that passes its deadline is cancelled for it. Its readings of what the rules leave open are the model's: log entry 52. -/
def Obligations.SlicesAndAges : Prop :=
  (∀ (s : State) (c : Nat), let a := (s.cell c).active
    ((s.cell c).slot a).bound ≠ none → ((s.cell c).slot (!a)).bound ≠ none → ((s.cell c).slot a).handler = none → ((s.cell c).slot a).window = none →
    s.cellHeld c = false →
    let switched (o : Answer) : Prop := ∃ t, o = .next t ∧ (t.cell c).active = !a ∧ (t.cell c).activeSince = s.cyc ∧ (∀ k, k ≠ c → t.cell k = s.cell k) ∧
      t.launches = s.launches ∧ t.jobs = s.jobs ∧ t.mcs = s.mcs
    (∀ b, ((s.cell c).slot a).bound = some b → ((s.cell c).slot a).sr.level = ((s.cell c).slot (!a)).sr.level → (s.partition b.part).tslice ≠ 0 →
      ((s.cell c).activeSince + 1000 * (s.partition b.part).tslice ≤ s.cyc → switched (exec (.sliceExpiry c) s)) ∧
      (s.cyc < (s.cell c).activeSince + 1000 * (s.partition b.part).tslice → exec (.sliceExpiry c) s = .next s)) ∧
    (((s.cell c).slot a).sr.level < ((s.cell c).slot (!a)).sr.level → switched (exec (.sliceExpiry c) s)) ∧
    (((s.cell c).slot a).idles s.cyc = true → s.restIdles { cell := c, h1 := !a } = false → switched (exec (.yieldTimeout c) s)) ∧
    ((((s.cell c).slot a).idles s.cyc = false ∨ s.restIdles { cell := c, h1 := !a } = true) → exec (.yieldTimeout c) s = .next s)) ∧
  (∀ (s : State) (h : Nat), (s.mc h).state = .ready → let age := 1000 * (s.partition (s.mc h).part).age
    age ≠ 0 → (s.mc h).risenAt + age ≤ s.cyc →
    ((s.mc h).level < s.ceiling h → ∃ t, exec (.ageExpiry h) s = .next t ∧ t = { s with mcs := t.mcs } ∧
      t.mc h = { s.mc h with level := (s.mc h).level + 1, risenAt := (s.mc h).risenAt + age } ∧ ∀ k, k ≠ h → t.mc k = s.mc k) ∧
    (s.ceiling h ≤ (s.mc h).level → exec (.ageExpiry h) s = .next s)) ∧
  (∀ (s : State) (jn d : Nat) (j : Job), Map.find s.jobs jn = some j → j.deadline = some d →
    exec (.deadlineExpiry jn) s = .next (if d ≤ s.cyc then s.jobLate jn j else s))

/-- R350, R453, R454, R448, R446, R409: the activity of a window stays within STEP of the one before and within the cap as fast as falls
allow, and the effective cap falls and rises with the temperature, while one that the temperature has not lowered is CAP itself; a refresh
writes the telemetry block of each function that has a part of the die; a new Jalcen image runs once no handler of the old one does; a
recalibration ends when its stack passes; a link counts its groups and its failures in a row, and its epoch and key change after 2^36
groups. Its readings of what the rules leave open are the model's: log entries 79 and 80. -/
def Obligations.FleetEvents : Prop :=
  (∀ (s : State) (die demand temp : Nat), (s.die die).up = true →
    let d := s.die die
    ∃ t, exec (.rampWindow die demand temp) s = .next t ∧ t = { s with dies := t.dies } ∧ (∀ k, k ≠ die → t.die k = s.die k) ∧
      (let now := if d.throttled then min d.effCap d.cap else d.cap
       (d.tlim ≤ temp → (t.die die).effCap = max 8 (now - d.step)) ∧ (temp < d.tlim → d.tlim ≤ temp + 5 → (t.die die).effCap = max 8 now) ∧
       (temp + 5 < d.tlim → (t.die die).effCap = max 8 (min d.cap (now + d.step))) ∧
        ((t.die die).throttled = true ↔ d.tlim ≤ temp ∨ (d.throttled = true ∧ (t.die die).effCap < d.cap))) ∧
      (t.die die).effCap ≤ max 8 d.cap ∧
      (d.rampOff = false → (t.die die).activity ≤ d.activity + 2000 * d.step ∧ d.activity ≤ (t.die die).activity + 2000 * d.step ∧
        (t.die die).activity ≤ max (d.activity - 2000 * d.step) (2000 * min d.cap (t.die die).effCap)) ∧
      (d.rampOff = true → (t.die die).activity = min (min demand 128000) (2000 * min d.cap (t.die die).effCap))) ∧
  (∀ (s : State) (die temp power f : Nat), (s.die die).up = true → die < 4 →
    ∃ t, exec (.telemetryRefresh die temp power) s = .next t ∧ t = { s with telemetry := t.telemetry } ∧
      (f ≤ 16 → (f = 0 ∨ (s.partition (f - 1)).holdsDie die = true) → t.telemetryOf f die = s.telemetryNow f die temp power) ∧
      (∀ k, k < 4 → k ≠ die → t.telemetryOf f k = s.telemetryOf f k)) ∧
  (∀ (s : State) (die t0 : Nat), (s.die die).jalcenSwitch = some t0 →
    (t0 + 1000000 < s.cyc → ∃ t, exec (.jalcenSwitchPoint die) s = .next t ∧ t.cres = controlResult (natAt s.command 56 8) 4 0 ∧ t.cgo = false ∧
      t.firmware = s.firmware ∧ (t.die die).jalcenSwitch = none) ∧
    (s.cyc ≤ t0 + 1000000 → s.firmwareBusy die = true → exec (.jalcenSwitchPoint die) s = .next s) ∧
    (s.cyc ≤ t0 + 1000000 → s.firmwareBusy die = false → ∃ t, exec (.jalcenSwitchPoint die) s = .next t ∧ t.cgo = false ∧
      (t.firmwareOf die 0).selB = !(s.firmwareOf die 0).selB ∧
      (t.firmwareOf die 0).running = (if (s.die die).up then (s.firmwareOf die 0).other else (s.firmwareOf die 0).running) ∧
      t.cres = controlResult (natAt s.command 56 8) 0 (bit01 (!(s.firmwareOf die 0).selB)) ∧ (t.die die).jalcenSwitch = none)) ∧
  (∀ (s : State) (die : Nat) (r : Recal), (s.die die).recal = some r → (r.slices = 0 ∨ r.last + 100000 ≤ s.cyc) →
    (∃ t, exec (.recalSlice die true) s = .next t ∧ (t.die die).recal = none ∧ t.cres = controlResult (natAt s.command 56 8) 0 0 ∧ t.cgo = false) ∧
    (r.slices + 1 < 200 → ∃ t, exec (.recalSlice die false) s = .next t ∧ t = { s with dies := t.dies } ∧
      (t.die die).recal = some { r with slices := r.slices + 1, last := s.cyc })) ∧
  (∀ (s : State) (k : Nat), k < 8 → (s.link k).down = false →
    ((s.link k).counter < 2 ^ 36 → ∃ t, exec (.ucieGroupTagFail k) s = .next t ∧ (t.link k).counter = (s.link k).counter + 1 ∧
      (t.link k).failures = (s.link k).failures + 1 ∧ (t.link k).epoch = (s.link k).epoch ∧ (t.link k).key = (s.link k).key ∧
      ((t.link k).down = true ↔ 8 ≤ (s.link k).failures + 1) ∧ (∀ j, j ≠ k → t.link j = s.link j) ∧ t.mem = s.mem) ∧
    (2 ^ 36 ≤ (s.link k).counter → ∃ t, exec (.ucieEpochRollover k) s = .next t ∧ t = { s with links := t.links } ∧
      t.link k = { s.link k with epoch := (s.link k).epoch + 1, counter := 0
                                 key := shake256 ((s.link k).key ++ bytesOf 4 ((s.link k).epoch + 1)) 32 } ∧
      ∀ j, j ≠ k → t.link j = s.link j) ∧
    ((s.link k).counter < 2 ^ 36 → exec (.ucieEpochRollover k) s = .next s) ∧
    (∀ n, ∃ t, s.linkPasses k n = t ∧ t = { s with links := t.links } ∧ (t.link k).epoch = (s.link k).epoch ∧ (t.link k).key = (s.link k).key ∧
      ((s.link k).counter ≤ 2 ^ 36 → (t.link k).counter = min (2 ^ 36) ((s.link k).counter + n)) ∧
      (0 < n → (s.link k).counter < 2 ^ 36 → (t.link k).failures = 0)))

/-! ### The host (95) -/

/-- R395, R346, R423, R439, R9: ENABLE of a partition keeps the outcome of the checks, and sets ENABLE exactly where all of them hold;
clearing it needs every micro-context INVALID; SCHED lowers levels at once; a control command waits for its turn while CGO is 1; a record
goes to a ring that has room, and then its producer index. Without the host link no register is reached. Its readings of what the rules
leave open are the model's: log entries 61, 62, 63 and 66. -/
def Obligations.HostEvents : Prop :=
  (∀ (s : State) (p : Nat), s.serving = true → p < 16 →
    ((s.partition p).enable = false → ∃ t, exec (.partitionEnable p) s = .next t ∧ t = { s with partitions := t.partitions } ∧
      t.partition p = { s.partition p with enable := decide (s.enableError p = 0), err := s.enableError p } ∧ ∀ k, k ≠ p → t.partition k = s.partition k) ∧
    ((s.partition p).enable = true → ∃ t, exec (.partitionDisable p) s = .next t ∧ t = { s with partitions := t.partitions } ∧
      ((∀ e ∈ s.mcs, e.2.part = p → e.2.state = .invalid) → t.partition p = { s.partition p with enable := false, err := 0 }) ∧
      ((∃ e ∈ s.mcs, e.2.part = p ∧ e.2.state ≠ .invalid) → t.partition p = { s.partition p with err := 7 })) ∧
    (∀ v : Word, ∃ t, exec (.schedWrite p v) s = .next t ∧
      t.partition p = { s.partition p with tslice := v.toNat % 2 ^ 20, age := v.toNat / 2 ^ 20 % 2 ^ 20, ceil := v.toNat / 2 ^ 40 % 2 ^ 5 } ∧
      (∀ h, (t.mc h).level = if (s.mc h).part = p then min (s.mc h).level (v.toNat / 2 ^ 40 % 2 ^ 5) else (s.mc h).level) ∧
      ∀ u b, (s.slot u).bound = some b → (t.slot u).sr.level = if b.part = p then min (s.slot u).sr.level (v.toNat / 2 ^ 40 % 2 ^ 5) else (s.slot u).sr.level)) ∧
  (∀ (s : State) (off : Nat) (v : Word), s.serving = true →
    (off < 4 → ∃ t, exec (.registerWrite 0 0 (0x40 + 8 * off) v) s = .next t ∧ t = { s with dies := t.dies } ∧ (∀ k, k ≠ off → t.die k = s.die k) ∧
      (t.die off).cap = (let c := v.toNat % 128; if 1 ≤ c ∧ c ≤ 64 then c else (s.die off).cap) ∧
      (t.die off).tlim = (let c := v.toNat / 256 % 128; if 60 ≤ c ∧ c ≤ 110 then c else (s.die off).tlim)) ∧
    (off < 8 → s.cgo = true → exec (.registerWrite 0 0 (0x4000 + 8 * off) v) s = .next s) ∧
    (off < 8 → s.cgo = false → s.ccmd.length ≤ 64 → ∃ t, exec (.registerWrite 0 0 (0x4000 + 8 * off) v) s = .next t ∧ t = { s with ccmd := t.ccmd } ∧
      natAt t.ccmd (8 * off) 8 = v.toNat ∧ ∀ k, k < 8 → k ≠ off → natAt t.ccmd (8 * k) 8 = natAt s.command (8 * k) 8) ∧
    (s.cgo = false → v.getLsbD 0 = true → controlKnown s.command = true → ladderCommandOk s.command = true →
      exec (.registerWrite 0 0 0x4050 v) s = .next { s with cgo := true, ctlRuns := false }) ∧
    (s.cgo = false → v.getLsbD 0 = true → controlKnown s.command = false →
      exec (.registerWrite 0 0 0x4050 v) s = .next { s with cgo := false, ctlRuns := false, cres := controlResult (natAt s.command 56 8) 1 0 })) ∧
  (∀ (s : State) (die k : Nat) (r : Record) (rest : List Record) (ring : Ring), (s.die die).records = r :: rest → r.rings = [k] → s.ringRoom k = true →
    Map.find s.rings k = some ring → r.bytes.length = ringEntry k →
    ∃ t, exec (.ringWrite die) s = .next t ∧ (t.die die).records = rest ∧
      Memory.read t.mem (2 ^ 55 + ring.base + 64 + ringEntry k * (ring.produced % 2 ^ ring.log2n)) (ringEntry k) = r.bytes ∧
      Memory.read t.mem (2 ^ 55 + ring.base) 8 = bytesOf 8 (ring.produced + 1) ∧ Map.find t.rings k = some { ring with produced := ring.produced + 1 }) ∧
  (∀ s : State, exec .hostLinkDown s = .next { s with hostUp := false } ∧ exec .hostLinkUp s = .next { s with hostUp := true } ∧
    (s.hostUp = false → ∀ f b o v, exec (.registerWrite f b o v) s = .next s))

/-- A call has completed with a status and data, from a state that holds its effect: DATA, STATUS and LEN are written, and GO reads 0
(R400). -/
structure CallDone (o : Answer) (r : State) (func status : Nat) (data : List Byte) : Prop where
  done : ∃ t, o = .next t ∧ t = { r with mailboxes := t.mailboxes } ∧ (t.mailbox func).go = false ∧ (t.mailbox func).status = status ∧
    (t.mailbox func).len = min data.length 4080 ∧ (∀ i, i < min data.length 4080 → (t.mailbox func).bytes i 1 = [data.getD i 0]) ∧
    ∀ k, k ≠ func → t.mailbox k = r.mailbox k

/-- R400, R410: a CLASS 0 call goes to the PF driver and completes when that answers; thresholds within 16 to 40 are taken; a sub-stream
that reaches its threshold sets WANT, one that reaches twice that stops, and a refresh of one sub-stream touches no other; a refresh of P
makes the writes that have waited for it, log entry 103, which is the model's reading. Its other readings of what the rules leave open are
log entries 64 and 65. -/
def Obligations.MailboxesAndIde : Prop :=
  (∀ (s : State) (vf : Nat), (s.mailbox vf).go = true → (s.mailbox vf).cls = 0 →
    ((s.mailbox vf).delivered = false → (s.ideStream 0).stop.getD 0 false = false → ∃ t, exec (.mailboxPfMessage vf) s = .next t ∧ t = { s with mailboxes := t.mailboxes, out := t.out } ∧
      t.mailbox vf = { s.mailbox vf with delivered := true } ∧ t.out = s.out ++ [.message vf (s.mailbox vf).code ((s.mailbox vf).bytes 0 4080)]) ∧
    ((s.mailbox vf).delivered = true → ∀ status data, status < 256 → CallDone (exec (.mailboxPfResponse vf status data) s) s vf status (data.take 4080))) ∧
  (∀ (s : State) (f sub : Nat), f ≤ 16 → sub < 3 → (s.ideStream f).want.length = 3 → (s.ideStream f).stop.length = 3 → (s.ideStream f).refreshes.length = 3 →
    (s.ideStream f).thr.length = 3 → let i := s.ideStream f
    let onlyIde (t : State) : Prop := t = { s with ide := t.ide } ∧ ∀ k, k ≠ f → t.ideStream k = s.ideStream k
    (s.serving = true → ∀ v : Word, ∃ t, exec (.ideThresholdWrite f v) s = .next t ∧ onlyIde t ∧ ∀ k, k < 3 →
      let x := v.toNat / 2 ^ (18 - 6 * k) % 64
      (t.ideStream f).thr.getD k 0 = if 16 ≤ x ∧ x ≤ 40 then x else i.thr.getD k 0) ∧
    (i.want.getD sub true = false → ∃ t, exec (.ideThresholdReached f sub) s = .next t ∧ onlyIde t ∧ (t.ideStream f).want = i.want.set sub true ∧
      (t.ideStream f).stop = i.stop) ∧
    (i.want.getD sub false = true → ∃ t, exec (.ideSubstreamStop f sub) s = .next t ∧ onlyIde t ∧ (t.ideStream f).stop = i.stop.set sub true ∧
      (t.ideStream f).want = i.want) ∧
    ((sub = 0 → ∀ e ∈ s.posted, e.1 ≠ f) → ∃ t, exec (.ideKeyRefresh f sub) s = .next t ∧ onlyIde t) ∧
    (∀ es : List (Nat × Byte), sub = 0 → s.posted = [(f, es)] → (es.map (·.1)).Nodup → (∀ e ∈ es, s.keyed e.1 = true) →
      ∃ t, exec (.ideKeyRefresh f sub) s = .next t ∧ t.posted = [] ∧ (∀ e ∈ es, Memory.byte t.mem e.1 = e.2) ∧
        ∀ a, a ∉ es.map (·.1) → Memory.byte t.mem a = Memory.byte s.mem a) ∧
    (∃ t, exec (.ideKeyRefresh f sub) s = .next t ∧ (∀ k, k ≠ f → t.ideStream k = s.ideStream k) ∧ (t.ideStream f).want = i.want.set sub false ∧ (t.ideStream f).stop = i.stop.set sub false ∧
      (t.ideStream f).refreshes = i.refreshes.set sub (i.refreshes.getD sub 0 + 1) ∧ (t.ideStream f).thr = i.thr))

/-- R401, R402, R405 to R408, R420: the calls to Lid. Each completes with its status: the root of a new tree, an entry written into a table
of the tree, a key loaded where its check value holds and its slot is the caller's, a key cleared that nothing names, frames keyed and
zeroed, a sweep started, where no die of its range has 16 already, and its pointer; a sweep moves one line, and gives the frames their new
slot at its end; a report with its signature. That FIRST counts frames of 2 MiB is the model's choice: log entry 42. Its other readings of
what the rules leave open are log entries 67, 68 and 69. -/
def Obligations.LidCalls : Prop :=
  ∀ (s : State) (func : Nat) (a : List Byte),
    (s.lidCall func 1 = some a → natAt a 0 2 < 4096 → zeroAt a 2 6 = true → s.mayEdit func (natAt a 0 2) = true →
      let h := natAt a 0 2
      let die := s.homeOf h
      bitOf (s.partition (func - 1)).dies die = true → ∀ root, s.newTable die = some root →
      ∃ r : State, CallDone (exec (.ptroot func) s) r func 0 (bytesOf 8 root) ∧ (r.mc h).root = root ∧ (r.mc h).part = func - 1 ∧ (r.mc h).home = die ∧
        Map.get [] r.tables h = [root] ∧ (∀ i, i < 4096 → Memory.byte r.mem (root + i) = 0) ∧ (∀ k, k ≠ h → r.mc k = s.mc k)) ∧
    (s.lidCall func 2 = some a → natAt a 0 2 < 4096 → zeroAt a 2 6 = true → natAt a 16 2 < 512 → zeroAt a 18 6 = true →
      let h := natAt a 0 2
      let t := natAt a 8 8
      let e := natAt a 24 8
      (s.mayEdit func h = false → CallDone (exec (.ptwrite func) s) s func 2 []) ∧
      (s.mayEdit func h = true → (s.treeOf h).find? (fun x => decide (x.1 = t)) = none → CallDone (exec (.ptwrite func) s) s func 2 []) ∧
      (∀ va, s.mayEdit func h = true → (s.treeOf h).find? (fun x => decide (x.1 = t)) = some (t, 0, va) → s.entryFault 0 e = none →
        s.leafAllowed (func - 1) 0 e = true → bitOf e 0 = true →
        ∃ r : State, CallDone (exec (.ptwrite func) s) r func 0 (bytesOf 8 e) ∧ r.mem = (s.store (t + 8 * natAt a 16 2) (bytesOf 8 e)).mem ∧
          r.tables = s.tables ∧ ∀ k b, b ∈ Map.get [] r.buffers k → b ∈ Map.get [] s.buffers k ∧ b.overlaps h (va + natAt a 16 2 * 4096) 4096 = false)) ∧
    (s.lidCall func 3 = some a → 1 ≤ natAt a 0 2 → natAt a 0 2 < 1024 → zeroAt a 2 6 = true →
      let k := natAt a 0 2
      let key := slotKey (Config.kemDecapsulate ((a.drop 8).take 1568)) k
      (s.maySlot func k = false → CallDone (exec (.keyload func) s) s func 2 []) ∧
      (s.maySlot func k = true → (Map.find s.keys k = none ∨ (s.frameNames k = false ∧ s.blockNames k = false)) →
        (keyCheck key = (a.drop 1576).take 16 → CallDone (exec (.keyload func) s) { s with keys := Map.set s.keys k (natOf key) } func 0 []) ∧
        (keyCheck key ≠ (a.drop 1576).take 16 → CallDone (exec (.keyload func) s) s func 4 []))) ∧
    (s.lidCall func 4 = some a → 1 ≤ natAt a 0 2 → natAt a 0 2 < 1024 → s.maySlot func (natAt a 0 2) = true →
      let k := natAt a 0 2
      (s.frameNames k = true ∨ s.blockNames k = true → CallDone (exec (.keyclr func) s) s func 3 []) ∧
      (s.frameNames k = false → s.blockNames k = false → (∀ w ∈ s.sweeps, w.oldSlot ≠ k ∧ w.newSlot ≠ k) →
        CallDone (exec (.keyclr func) s) { s with keys := Map.drop s.keys k } func 0 [])) ∧
    (s.lidCall func 5 = some a → let first := natAt a 0 8
      let count := natAt a 8 8
      let k := natAt a 16 2
      s.framesExist first count = true → 1 ≤ k → k < 1024 → s.maySlot func k = true → (∀ f, first ≤ f → f < first + count → s.mayFrame func f = true ∧ s.foreignFrame func f = false) →
      s.sweeping first count = false →
      ∃ r : State, CallDone (exec (.framekey func) s) r func 0 [] ∧ (∀ f, first ≤ f → f < first + count → Map.get 0 r.frameKeys f = k) ∧
        (∀ f, f < first ∨ first + count ≤ f → Map.get 0 r.frameKeys f = Map.get 0 s.frameKeys f) ∧
        (∀ x, first * 2 ^ 21 ≤ x → x < (first + count) * 2 ^ 21 → Memory.byte r.mem x = 0) ∧
        (∀ x, x < first * 2 ^ 21 ∨ (first + count) * 2 ^ 21 ≤ x → Memory.byte r.mem x = Memory.byte s.mem x)) ∧
    (s.lidCall func 6 = some a → let first := natAt a 0 8
      let count := natAt a 8 8
      let k := natAt a 16 2
      let old := Map.get 0 s.frameKeys first
      (s.framesExist first count = true → 1 ≤ k → k < 1024 → s.maySlot func k = true → old ≠ 0 → count ≠ 0 →
        (∀ f, first ≤ f → f < first + count → s.mayFrame func f = true ∧ s.foreignFrame func f = false ∧ Map.get 0 s.frameKeys f = old) →
        s.sweeping first count = false → (∀ d ∈ framesDies first count, s.sweepsOn d < 16) → (Map.find s.keys old).isSome = true →
        ∃ r : State, CallDone (exec (.rekey func) s) r func 0 [] ∧ r = { s with sweeps := r.sweeps } ∧
          ({ die := homeDie (first * 2 ^ 21), first := first, count := count, oldSlot := old, newSlot := k, sp := first * 2 ^ 21 } : Sweep) ∈ r.sweeps) ∧
      (∀ w, count = 0 → s.sweeps.find? (fun w => decide (w.first ≤ first) && decide (first < w.first + w.count)) = some w → s.mayFrame func first = true →
        CallDone (exec (.rekeyStatus func) s) s func 0 (bytesOf 8 (w.sp + if w.sp < (w.first + w.count) * 2 ^ 21 then 0 else 1)))) ∧
    (s.lidCall func 7 = some a → ∃ n, CallDone (exec (.attest func) s) { s with fresh := s.fresh + 1 } func 0
      (s.report func (a.take 32) ++ (padTo 3309 (Config.sign n (s.report func (a.take 32)))).take 3309)) ∧
    (∀ (k : Nat) (w : Sweep), s.sweeps[k]? = some w → w.sp < (w.first + w.count) * 2 ^ 21 → w.oldSlot ≠ 0 → (Map.find s.keys w.oldSlot).isSome = true →
      ∃ t, exec (.sweepStep k) s = .next t ∧ t.mem = s.mem ∧ t.sweeps = s.sweeps.set k { w with sp := w.sp + 64 } ∧
        (w.sp + 64 < (w.first + w.count) * 2 ^ 21 → t.frameKeys = s.frameKeys) ∧
        ((w.first + w.count) * 2 ^ 21 ≤ w.sp + 64 → ∀ f, w.first ≤ f → f < w.first + w.count → Map.get 0 t.frameKeys f = w.newSlot))

/-! ### Control commands (95, 24) -/

/-- A command in CCMD that waits: its bytes, while the module serves (R423). -/
structure CommandIn (s : State) (op : Nat) (c : List Byte) : Prop where
  serving : s.serving = true
  given : s.cgo = true
  untaken : s.ctlRuns = false
  flows : s.controlHeld c = false
  bytes : s.command = c
  op : byteAt c 0 = op

/-- The command in CCMD has been answered: CRES holds its TAG, a status and a value, and CGO reads 0 (R423). -/
structure Replied (s t : State) (status value : Nat) : Prop where
  cres : t.cres = controlResult (natAt s.command 56 8) status value
  cgo : t.cgo = false
  idle : t.ctlRuns = false

/-- R427, R428, R429, R422, R439: CBWRITE fills the block of an INVALID or IDLE micro-context and leaves its state; CBSTATE takes it from
INVALID to IDLE and back; COPY moves whole lines; SRCFG sets a record's owner and geometry and leaves OSEQ; PORT, IDREAD and RINGS do as
their rows say. Its readings of what the rules leave open are the model's: log entries 71, 72 and 73. -/
def Obligations.ControlBlocks : Prop :=
  ∀ (s : State) (c : List Byte),
    (CommandIn s 1 c → natAt c 8 2 < 4096 → unused c [(1, 7), (10, 6), (24, 32)] = true → let h := natAt c 8 2
      let i := s.hostLoad (natAt c 16 8) 256
      ((s.mc h).state ≠ .invalid → (s.mc h).state ≠ .idle → ∃ t, exec .cbwrite s = .next t ∧ Replied s t 2 0 ∧ t.mcs = s.mcs) ∧
      ((s.mc h).state = .invalid ∨ (s.mc h).state = .idle →
        (s.imageBad i = true → ∃ t, exec .cbwrite s = .next t ∧ Replied s t 1 0 ∧ t.mcs = s.mcs) ∧
        (s.imageBad i = false → ∃ t lv, exec .cbwrite s = .next t ∧ Replied s t 0 0 ∧ lv ≤ byteAt i 4 ∧
          t.mc h = { (s.mc h).fromImage i (s.partition (byteAt i 3 % 16)).prot ((Map.get [] s.tables h).contains (s.mc h).root) with level := lv } ∧ (t.mc h).state = (s.mc h).state ∧
          (t.mc h).home = byteAt i 2 % 4 ∧ (t.mc h).keySlot = natAt i 24 2 ∧ ∀ k, k ≠ h → t.mc k = s.mc k))) ∧
    (CommandIn s 2 c → natAt c 8 2 < 4096 → unused c [(1, 7), (11, 45)] = true → let h := natAt c 8 2
      (byteAt c 10 = 1 → (s.mc h).state = .invalid → (s.mc h).written = true → s.bodyFits h = true →
        ∃ t, exec .cbstate s = .next t ∧ Replied s t 0 0 ∧ (t.mc h).state = .idle ∧ (t.mc h).parks = 0 ∧ (t.mc h).rqdrop = 0 ∧ (t.mc h).authfail = 0 ∧
          (t.mc h).dlmiss = 0 ∧ Map.find t.replay h = none ∧ ∀ k, k ≠ h → t.mc k = s.mc k) ∧
      (byteAt c 10 = 0 → (s.mc h).state = .idle → (s.mc h).ring = [] → (s.mc h).waiting = [] → (s.mc h).head = (s.mc h).tail → (s.mc h).pend = false →
        ∃ t, exec .cbstate s = .next t ∧ Replied s t 0 0 ∧ (t.mc h).state = .invalid ∧ ∀ k, k ≠ h → t.mc k = s.mc k) ∧
      (byteAt c 10 = 1 → (s.mc h).state = .invalid → (s.mc h).written = false ∨ s.bodyFits h = false →
        ∃ t, exec .cbstate s = .next t ∧ Replied s t 2 0 ∧ t.mcs = s.mcs) ∧
      ((s.mc h).state ≠ .invalid → (s.mc h).state ≠ .idle → byteAt c 10 ≤ 1 → ∃ t, exec .cbstate s = .next t ∧ Replied s t 2 0 ∧ t.mcs = s.mcs)) ∧
    (CommandIn s 3 c → unused c [(2, 6), (32, 24)] = true → let host := natAt c 8 8
      let pa := natAt c 16 8
      let len := natAt c 24 8
      64 ≤ len → len ≤ 2 ^ 24 → len % 64 = 0 → pa % 64 = 0 → pa + len ≤ 2 ^ 40 →
      (∀ i, i < len / 64 → s.reserved (pa + 64 * i) = false ∧ s.protector (homeDie (pa + 64 * i)) = none ∧ s.keyed (pa + 64 * i) = true) →
      (byteAt c 1 = 0 → ∃ t, exec .copy s = .next t ∧ Replied s t 0 0 ∧ (∀ i, i < len → Memory.byte t.mem (pa + i) = Memory.byte s.mem (2 ^ 55 + host + i)) ∧
        ∀ a, a < pa ∨ pa + len ≤ a → Memory.byte t.mem a = Memory.byte s.mem a) ∧
      (byteAt c 1 = 1 → ∃ t, exec .copy s = .next t ∧ Replied s t 0 0 ∧ (∀ i, i < len → Memory.byte t.mem (2 ^ 55 + host + i) = Memory.byte s.mem (pa + i)) ∧
        ∀ a, a < 2 ^ 55 + host ∨ 2 ^ 55 + host + len ≤ a → Memory.byte t.mem a = Memory.byte s.mem a)) ∧
    (CommandIn s 4 c → natAt c 8 2 < 4096 → unused c [(1, 7), (10, 6), (24, 32)] = true → let n := natAt c 8 2
      let b := s.hostLoad (natAt c 16 8) 128
      ∀ r, natAt b 0 2 ≠ 0xFFFF → s.dieServes (s.mc (natAt b 0 2)).part (n / 1024) = true → streamConfig b = some r → s.atRest (s.srec n).owner = true → s.atRest r.owner = true →
        ∃ t, exec .srcfg s = .next t ∧ Replied s t 0 0 ∧ t.srec n = { r with oseq := (s.srec n).oseq } ∧ Map.find t.replayStream n = none ∧
          ∀ k, k ≠ n → t.srec k = s.srec k) ∧
    (CommandIn s 8 c → byteAt c 1 < 8 → unused c [(4, 4), (14, 2), (32, 24)] = true →
      ∃ t, exec .port s = .next t ∧ Replied s t 0 0 ∧ Map.find t.ports (byteAt c 1) = some { udp := natAt c 2 2, mac := natAt c 8 6, ipv6 := natAt c 16 16 } ∧
        ∀ k, k ≠ byteAt c 1 → Map.find t.ports k = Map.find s.ports k) ∧
    (∀ (i : Instr) (bytes : List Byte), CommandIn s 0x0B c → (i = .idreadIdentityKey ∧ byteAt c 1 = 0 ∧ bytes = Config.identityKey) ∨
        (i = .idreadKemKey ∧ byteAt c 1 = 1 ∧ bytes = Config.kemKey) ∨ (i = .idreadCertChain ∧ byteAt c 1 = 2 ∧ bytes = Config.certChain) →
      unused c [(2, 6), (24, 32)] = true → let room := min (natAt c 16 8) bytes.length
      ∃ t, exec i s = .next t ∧ Replied s t 0 bytes.length ∧ Memory.read t.mem (2 ^ 55 + natAt c 8 8) room = bytes.take room ∧
        ∀ a, a < 2 ^ 55 + natAt c 8 8 ∨ 2 ^ 55 + natAt c 8 8 + room ≤ a → Memory.byte t.mem a = Memory.byte s.mem a) ∧
    (∀ (i : Instr) (k : Nat), CommandIn s 0x0C c → (i = .ringsCompletion ∧ k = 0) ∨ (i = .ringsError ∧ k = 1) → byteAt c 2 = k → byteAt c 1 ≤ 16 →
      4 ≤ byteAt c 16 → byteAt c 16 ≤ 16 → unused c [(3, 5), (17, 39)] = true →
      ∃ t, exec i s = .next t ∧ Replied s t 0 0 ∧ Map.find t.rings (ringNo (byteAt c 1) k) = some { base := natAt c 8 8, log2n := byteAt c 16, produced := 0 } ∧
        ∀ n, n ≠ ringNo (byteAt c 1) k → Map.find t.rings n = Map.find s.rings n)

/-- R430 to R432, R415, R445, R446, R448, R450, R451: a segment is registered at the end of its die's table with its frame zeroed, is
released with its frame absent, and is checked on request; the module's index and a peer entry are set; an image is staged, and selected,
where it verifies; recalibration and migration begin; forwarding ends. That FRAME counts frames of 2 MiB is the model's choice: log entry
42. Its other readings of what the rules leave open are the model's: log entries 72, 73 and 76. -/
def Obligations.ControlTables : Prop :=
  ∀ (s : State) (c : List Byte),
    (CommandIn s 5 c → byteAt c 1 < 4 → unused c [(2, 6), (16, 40)] = true → let die := byteAt c 1
      let d := s.hostLoad (natAt c 8 8) 64
      let f := natAt d 32 4
      f < 2 ^ 19 → homeDie (f * 2 ^ 21) = die → s.reserved (f * 2 ^ 21 + 2 ^ 21 - 1) = false → byteAt d 40 < 8 → byteAt d 41 < 2 → natAt d 42 2 < 64 →
      zeroAt d 44 4 = true → zeroAt d 56 8 = true → Map.find s.residency f = none →
      (∀ i, s.segmentIndex die (natAt d 0 32) = some i → ∃ t, exec .segreg s = .next t ∧ Replied s t 0 i ∧ t.segments = s.segments) ∧
      (s.segmentIndex die (natAt d 0 32) = none → (∀ e ∈ s.segmentsOn die, e.frame ≠ f) → s.frameTaken f = false → s.sweeping f 1 = false →
        (8192 ≤ (s.segmentsOn die).length → ∃ t, exec .segreg s = .next t ∧ Replied s t 5 0 ∧ t.segments = s.segments) ∧
        ((s.segmentsOn die).length < 8192 → ∃ t e, exec .segreg s = .next t ∧ Replied s t 0 (s.segmentsOn die).length ∧ t.segmentsOn die = s.segmentsOn die ++ [e] ∧
          e.hash = natAt d 0 32 ∧ e.frame = f ∧ e.order = natAt d 36 4 ∧ e.src = byteAt d 40 ∧ e.urgency = 0 ∧ e.reading = none ∧
          (∀ a, f * 2 ^ 21 ≤ a → a < (f + 1) * 2 ^ 21 → Memory.byte t.mem a = 0) ∧ (∀ k, k ≠ die → t.segmentsOn k = s.segmentsOn k) ∧
          t.residency = s.residency))) ∧
    (CommandIn s 6 c → byteAt c 1 < 4 → unused c [(2, 6), (16, 40)] = true → let die := byteAt c 1
      let f := natAt c 8 8
      (∃ e ∈ s.segmentsOn die, e.frame = f) →
      (s.parkedOn f = true → ∃ t, exec .segrel s = .next t ∧ Replied s t 4 0 ∧ t.segments = s.segments) ∧
      (s.parkedOn f = false → ∃ t, exec .segrel s = .next t ∧ Replied s t 0 0 ∧ Map.find t.residency f = none ∧
        (∀ e, e ∈ t.segmentsOn die ↔ e ∈ s.segmentsOn die ∧ e.frame ≠ f) ∧ (∀ k, k ≠ f → Map.find t.residency k = Map.find s.residency k) ∧
        ∀ k b, b ∈ Map.get [] t.buffers k ↔ b ∈ Map.get [] s.buffers k ∧ b.onFrame f = false)) ∧
    (CommandIn s 7 c → byteAt c 1 < 4 → unused c [(2, 6), (16, 40)] = true → let die := byteAt c 1
      let f := natAt c 8 8
      ∀ e, (s.segmentsOn die).find? (fun e => decide (e.frame = f)) = some e → Map.find s.residency f = none → bitOf e.src 0 = true → e.reading = none →
        ∃ t, exec .segchk s = .next t ∧ Replied s t 0 0 ∧ (t.segmentsOn die).find? (fun e => decide (e.frame = f)) =
          some { e with reading := some 0, since := s.cyc, asked := true, failed := e.failed.filter (· != 0) }) ∧
    (CommandIn s 0x12 c → byteAt c 1 = 0xFF → peercfgBad c = false →
      ((∃ e ∈ s.peers, e.2.enabled = true) → ∃ t, exec .peercfgLocal s = .next t ∧ Replied s t 2 0 ∧ t.localIndex = s.localIndex) ∧
      ((∀ e ∈ s.peers, e.2.enabled = false) → ∃ t, exec .peercfgLocal s = .next t ∧ Replied s t 0 0 ∧ t.localIndex = natAt c 2 2)) ∧
    (CommandIn s 0x12 c → byteAt c 1 < 64 → peercfgBad c = false → byteAt c 5 = 1 → let p := byteAt c 1
      let k := natAt c 6 2
      s.slotReserved k = true → (Map.find s.keys k).isSome = true → natAt c 2 2 ≠ s.localIndex → (∀ x ∈ s.peers, x.2.enabled = true → x.1 ≠ p → x.2.index ≠ natAt c 2 2) →
      (s.peer p).enabled = false → (s.peer p).keySlot = k → (s.peer p).epoch < 0xFFFF →
        ∃ t, exec .peercfgEntry s = .next t ∧ Replied s t 0 (1 + ((s.peer p).epoch + 1) * 2 ^ 16) ∧ (t.peer p).state = .hello ∧ (t.peer p).enabled = true ∧
          (t.peer p).epoch = (s.peer p).epoch + 1 ∧ (t.peer p).index = natAt c 2 2 ∧ (t.peer p).ports = byteAt c 4 ∧ ∀ n, n ≠ p → t.peer n = s.peer n) ∧
    (CommandIn s 0x0D c → byteAt c 1 < 4 → byteAt c 2 < 3 → unused c [(3, 5), (24, 32)] = true → let die := byteAt c 1
      let kind := byteAt c 2
      let len := natAt c 16 8
      let i := s.hostLoad (natAt c 8 8) len
      4096 ≤ len → len ≤ 2 ^ 24 →
      (Config.imageVerifies i = false → ∃ t, exec .fwstage s = .next t ∧ Replied s t 3 1 ∧ t.firmware = s.firmware) ∧
      (Config.imageVerifies i = true → Config.imageVersion i < Config.minimumVersion die → ∃ t, exec .fwstage s = .next t ∧ Replied s t 3 2 ∧ t.firmware = s.firmware) ∧
      (Config.imageVerifies i = true → Config.minimumVersion die ≤ Config.imageVersion i → s.dieInRung die = false → ∃ t, exec .fwstage s = .next t ∧ Replied s t 0 0 ∧
        (t.firmwareOf die kind).other = { hash := natOf (shake256 i 32), version := Config.imageVersion i, iface := Config.imageInterface i, good := true } ∧
        (t.firmwareOf die kind).selected = (s.firmwareOf die kind).selected ∧ (t.firmwareOf die kind).running = (s.firmwareOf die kind).running)) ∧
    (CommandIn s 0x0E c → s.switchStatus c = none → let die := byteAt c 1
      (byteAt c 2 = 0 → ∃ t, exec .fwswitchJalcen s = .next t ∧ (t.die die).jalcenSwitch = some s.cyc ∧ t.cgo = true ∧ t.ctlRuns = true ∧ t.firmware = s.firmware) ∧
      (byteAt c 2 = 1 → (s.die die).up = true →
        ((∀ d, d < 4 → d ≠ die → (s.die d).up = true → (s.firmwareOf d 1).running.iface = (s.firmwareOf die 1).other.iface) →
          ∃ t, exec .fwswitchLadle s = .next t ∧ Replied s t 0 (bit01 (!(s.firmwareOf die 1).selB)) ∧ (t.firmwareOf die 1).running = (s.firmwareOf die 1).other) ∧
        ((∃ d, d < 4 ∧ d ≠ die ∧ (s.die d).up = true ∧ (s.firmwareOf d 1).running.iface ≠ (s.firmwareOf die 1).other.iface) →
          ∃ t, exec .fwswitchLadle s = .next t ∧ Replied s t 2 0 ∧ t.firmware = s.firmware)) ∧
      (byteAt c 2 = 1 → (s.die die).up = false → ∃ t, exec .fwswitchLadle s = .next t ∧ Replied s t 0 (bit01 (!(s.firmwareOf die 1).selB)) ∧
        (t.firmwareOf die 1).selB = !(s.firmwareOf die 1).selB ∧ (t.firmwareOf die 1).running = (s.firmwareOf die 1).running) ∧
      (byteAt c 2 = 2 → ∃ t, exec .fwswitchLid s = .next t ∧ Replied s t 0 (bit01 (!(s.firmwareOf die 2).selB)) ∧
        (t.firmwareOf die 2).selB = !(s.firmwareOf die 2).selB ∧ (t.firmwareOf die 2).running = (s.firmwareOf die 2).running)) ∧
    (CommandIn s 0x0F c → byteAt c 1 < 4 → byteAt c 2 < 4 → unused c [(3, 53)] = true → let die := byteAt c 1
      (bitOf (s.die die).fencedStacks (byteAt c 2) = true → ∃ t, exec .recal s = .next t ∧ Replied s t 2 0) ∧
      (bitOf (s.die die).fencedStacks (byteAt c 2) = false → (s.die die).recal = none → s.dieInRung die = false →
        ∃ t, exec .recal s = .next t ∧ (t.die die).recal = some { stack := byteAt c 2, slices := 0, last := 0 } ∧ t.cgo = true ∧ t.ctlRuns = true)) ∧
    (CommandIn s 0x10 c → s.migration = none → natAt c 8 2 < 4096 → natAt c 10 2 < 64 → natAt c 12 2 < 4096 → natAt c 24 8 ≤ 4096 →
      unused c [(1, 7), (14, 2), (32, 24)] = true → let h := natAt c 8 2
      ((s.mc h).state = .invalid ∨ (s.mc h).state = .drain ∨ (s.peer (natAt c 10 2)).state ≠ .up → ∃ t, exec .migrate s = .next t ∧ Replied s t 2 0) ∧
      ((s.mc h).state ≠ .invalid → (s.mc h).state ≠ .drain → (s.peer (natAt c 10 2)).state = .up →
        (∃ jn j, (s.mc h).job = some jn ∧ Map.find s.jobs jn = some j ∧ j.everBound = true) →
        (∀ i, i < natAt c 24 8 → let e := s.hostLoad (natAt c 16 8 + 16 * i) 16
          natAt e 0 8 < 2 ^ 19 ∧ Map.get 0 s.frameKeys (natAt e 0 8) = (s.mc h).keySlot) →
        ∃ t g, exec .migrate s = .next t ∧ t.migration = some g ∧ g.handle = h ∧ g.peer = natAt c 10 2 ∧ g.step = 0 ∧ t.cgo = true ∧ t.ctlRuns = true)) ∧
    (CommandIn s 0x11 c → natAt c 8 2 < 4096 → unused c [(1, 7), (10, 46)] = true →
      ∃ t, exec .fwdend s = .next t ∧ Replied s t 0 0 ∧ Map.find t.forwards (natAt c 8 2) = none ∧
        ∀ k, k ≠ natAt c 8 2 → Map.find t.forwards k = Map.find s.forwards k)

/-! ### Peers (95) -/

/-- The oldest message on the channel of a type, and those after it (Table 21.15). -/
def messageWaits (s : State) (p mtype : Nat) (m : List Byte) (rest : List (List Byte)) : Prop :=
  ((s.peer p).chan (mtype / 256)).inbox = m :: rest ∧ natAt m 0 2 = mtype

/-- The state in which that message has been taken. -/
def messageTaken (s : State) (p mtype : Nat) (rest : List (List Byte)) : State :=
  s.withPeer p (fun e => e.withChan (mtype / 256) (fun c => { c with inbox := rest }))

/-- R415 to R418: a packet of a peer that comes in a datagram between the service addresses of a port and of its entry, and fails its tag or
its EPOCH, is refused; one that is accepted on a reliable channel makes an ACK due. A datagram that is no such one changes nothing. An entry
that has heard the peer and been heard is UP; a silent peer is LOST, its traffic discarded, and the handshake starts again after 1 ms under
the next EPOCH. ACK takes packets off; a packet not acknowledged in time is sent again identical, with its interval doubled. That packets
under a slot without a key open under a key of its own is the model's choice: log entry 70. Its other readings of what the rules leave open
are log entry 75. -/
def Obligations.PeerTransport : Prop :=
  (∀ (s : State) (port p : Nat) (headers body payload : List Byte), s.peerDatagram port (headers ++ body) = some (p, payload) → 32 ≤ payload.length →
    byteAt payload 0 = 1 → byteAt payload 1 = 0xF0 → zeroAt payload 12 4 = true → let chan := natAt payload 2 2 / 2 ^ 12
    let seq := natAt payload 4 8
    chan < 6 →
    let opened := gcmOpen (s.sealingKey (s.peer p).keySlot) (packetNonce chan (natAt payload 2 2 % 2 ^ 12) seq) (payload.take 16) (payload.drop 16)
    (opened = none → exec (.peerPacketReceive port headers body) s = .next (s.refuse 1)) ∧
    (∀ plain, opened = some plain →
      (seq / 2 ^ 48 ≠ (s.peer p).epoch → exec (.peerPacketReceive port headers body) s = .next (s.refuse 1)) ∧
      (seq / 2 ^ 48 = (s.peer p).epoch → 1 ≤ chan → (s.peer p).state = .up ∨ (s.peer p).state = .hello →
        ((s.peer p).chan chan).accepts (seq % 2 ^ 48) = true → ∃ t, exec (.peerPacketReceive port headers body) s = .next t ∧ (t.peer p).heardAt = s.cyc ∧ (t.peer p).ackDue ≠ none ∧
          (∀ k, k ≠ p → t.peer k = s.peer k) ∧ t.mem = s.mem ∧ ((t.peer p).chan chan).accepts (seq % 2 ^ 48) = false))) ∧
  (∀ (s : State) (port : Nat) (headers body : List Byte), s.peerDatagram port (headers ++ body) = none → exec (.peerPacketReceive port headers body) s = .next s) ∧
  (∀ (s : State) (p : Nat) (r : List Byte) (rest : List (List Byte)), (s.peer p).ctl = r :: rest →
    (byteAt r 0 = 1 → (s.peer p).state = .hello → ∃ t, exec (.hello p) s = .next t ∧ (t.peer p).state = (if (s.peer p).acked then .up else .hello) ∧
      (t.peer p).ctl = rest ∧ t.mem = s.mem) ∧
    (byteAt r 0 = 2 → (s.peer p).state = .hello → ∃ t, exec (.ack p) s = .next t ∧ (t.peer p).state = (if (s.peer p).heardHello then .up else .hello) ∧
      (t.peer p).ctl = rest ∧ t.mem = s.mem) ∧
    (byteAt r 0 = 2 → (s.peer p).state = .up → (∀ c, ((s.peer p).chan c).waiting = []) → ∃ t, exec (.ack p) s = .next t ∧ (t.peer p).ctl = rest ∧
      ∀ c, 1 ≤ c → c ≤ 5 → ((t.peer p).chan c).unacked =
        ((s.peer p).chan c).unacked.filter (fun k => decide (natAt r (16 * c) 8 < k.num) && !(decide (natAt r (16 * c) 8 + 2 ≤ k.num) &&
          bitOf (natAt r (16 * c + 8) 8) (k.num - natAt r (16 * c) 8 - 2))))) ∧
  (∀ (s : State) (p : Nat), ((s.peer p).state = .hello → exec (.helloTimer p) s = .next (s.sendControl p 1)) ∧
    ((s.peer p).state = .up → ∃ t, exec (.ackTimer p) s = .next t ∧ t = s.sendControl p 2 ∧ (t.peer p).ackDue = none) ∧
    ((s.peer p).state = .up → s.peerSilent p = true → ∃ t, exec (.peerLoss p) s = .next t ∧ (t.peer p).state = .lost ∧ (t.peer p).lostAt = s.cyc ∧
      (t.peer p).chans = [] ∧ (t.peer p).epoch = (s.peer p).epoch) ∧
    ((s.peer p).state = .up → s.peerSilent p = false → exec (.peerLoss p) s = .next s) ∧
    ((s.peer p).state = .lost → (s.peer p).enabled = true → s.cyc < (s.peer p).lostAt + 1000000 → exec (.peerRetryTimer p) s = .next s) ∧
    ((s.peer p).state = .lost → (s.peer p).enabled = true → (s.peer p).lostAt + 1000000 ≤ s.cyc → (s.peer p).epoch < 0xFFFF →
      ∃ t, exec (.peerRetryTimer p) s = .next t ∧ (t.peer p).state = .hello ∧ (t.peer p).epoch = (s.peer p).epoch + 1 ∧ (t.peer p).chans = []) ∧
    (∀ chan, (s.peer p).state = .up → 1 ≤ chan → chan ≤ 5 → ∃ t, exec (.retransmitTimeout p chan) s = .next t ∧
      ((t.peer p).chan chan).unacked = ((s.peer p).chan chan).unacked.map (fun k => if k.sentAt + k.interval ≤ s.cyc ∧ k.retries < 20 then
        { k with sentAt := s.cyc, retries := k.retries + 1, interval := min (2 * k.interval) 1000000 } else k) ∧
      (∀ port, s.peerPort p = some port → t.out = s.out ++
        (((s.peer p).chan chan).unacked.filter (fun k => decide (k.sentAt + k.interval ≤ s.cyc ∧ k.retries < 20))).map (fun k =>
          .peerPacket port (s.peerEnd p port) { udp := (s.peer p).udp, mac := (s.peer p).mac, ipv6 := (s.peer p).ipv6 } k.bytes))))

/-- What a migrated control block keeps (R450): where it lies, its levels, its addresses and windows, its counters, its ring and its queue,
and of each job that waits where it comes from and what it is to run. -/
def SameBlock (m n : MicroContext) : Prop :=
  n.home = m.home ∧ n.base = m.base ∧ n.savel = m.savel ∧ n.lrec = m.lrec ∧ n.root = m.root ∧ n.quota = m.quota ∧ n.dline = m.dline ∧
  n.tsave = m.tsave ∧ n.windows = m.windows ∧ n.rqring = m.rqring ∧ n.qbase = m.qbase ∧ n.qlog = m.qlog ∧ n.qsrc = m.qsrc ∧ n.wake = m.wake ∧
  n.parks = m.parks ∧ n.rqdrop = m.rqdrop ∧ n.authfail = m.authfail ∧ n.dlmiss = m.dlmiss ∧ n.head = m.head ∧ n.tail = m.tail ∧
  n.skipped = m.skipped ∧ n.pend = m.pend ∧ n.ring = m.ring ∧ n.waiting.length = m.waiting.length ∧
  ∀ (j : Nat) (x y : PendingJob), m.waiting[j]? = some x → n.waiting[j]? = some y →
    y.source = x.source ∧ y.lrec = x.lrec ∧ y.param = x.param ∧ y.route = x.route ∧ y.port = x.port ∧ y.seq = x.seq

/-- R450: what a migration brings to this module. MKEY loads the key into the slot it names and opens the copy, where the handle is INVALID,
the slot free and the records unowned; of an ordinary partition MCB gives the copy the source's control block, its replay window and the
bytes of its ring; MSTREAM gives the record of the same index what the source's held, with its queued frames, for the copy's handle, and no
tags; MDONE makes the block that of the handle, IDLE at its base level where nothing waits, with the replay window that came, under which a
forwarded frame of the source's handle is taken from then on. -/
def MigrationArrivesClauses : Prop :=
  ∀ (s : State) (p : Nat) (m : List Byte) (rest : List (List Byte)), let b := m.drop 16
    (messageWaits s p 0x0401 m rest → b ≠ [] → s.incomingFrom p = none → let h := natAt b 8 8
      let k := natAt b 16 8
      h < 4096 → (∀ i ∈ s.incoming, i.handle ≠ h) → (s.mc h).state = .invalid → (s.slotOwner k).isSome = true → Map.find s.keys k = none →
      s.blockNames k = false → s.frameNames k = false → (∀ n, (s.srec n).owner = 0xFFFF) →
      ∃ t, exec (.mkey p) s = .next t ∧ Map.find t.keys k = some (natAt b 32 32) ∧ t.incomingFrom p = some
        { peer := p, source := natAt b 0 8, handle := h, keySlot := k, frames := [], streams := [], block := none, window := none, ringBytes := [] }) ∧
    (∀ (i : Incoming) (q : State) (m0 : MicroContext) (w : Option Replay) (ring : List (Nat × List Byte)), s.incomingFrom p = some i →
      messageWaits s p 0x0402 m rest → (s.partition ((s.slotOwner i.keySlot).getD 0)).prot = false → m0.windows.length = 4 →
      (∀ e ∈ ring, e.2.length = 8192) →
      let ws := [(q.blockWords m0).length, 0, 0, ring.length] ++ replayWords w ++ q.blockWords m0 ++ ring.flatMap (fun e => e.1 :: bytesWords e.2)
      (∀ x ∈ ws, x < 2 ^ 64) → b = wordsBytes ws →
      ∃ t y n, exec (.mcb p) s = .next t ∧ t.incomingFrom p = some y ∧ y.source = i.source ∧ y.handle = i.handle ∧ y.keySlot = i.keySlot ∧ y.frames = i.frames ∧
        y.streams = i.streams ∧ y.window = w ∧ y.ringBytes = ring ∧ y.block = some n ∧ SameBlock m0 n ∧ n.keySlot = i.keySlot ∧
        n.part = (s.slotOwner i.keySlot).getD 0 ∧ n.written = true ∧ n.job = none) ∧
    (∀ (i : Incoming) (n : Nat) (r : StreamRec) (w : Option Replay), s.incomingFrom p = some i → messageWaits s p 0x0404 m rest → n < 4096 →
      (s.srec n).owner = 0xFFFF → r.regions.length = 4 → (∀ x ∈ n :: replayWords w ++ r.words, x < 2 ^ 64) →
      b = wordsBytes (n :: replayWords w ++ r.words) →
      ∃ t y, exec (.mstream p) s = .next t ∧ t.srec n = { r with owner := i.handle, delivery := r.delivery.map (fun e => { e with tag := none }) } ∧
        (∀ k, k ≠ n → t.srec k = s.srec k) ∧ Map.find t.replayStream n = w ∧ t.incomingFrom p = some y ∧ y.streams = i.streams ++ [n] ∧
        y.block = i.block ∧ y.window = i.window ∧ y.handle = i.handle) ∧
    (∀ (i : Incoming) (m1 : MicroContext), s.incomingFrom p = some i → i.block = some m1 → messageWaits s p 0x0405 m rest → b ≠ [] →
      i.handle < 4096 → (s.partition m1.part).prot = false →
      ∃ t, exec (.mdone p) s = .next t ∧ Map.find t.replay i.handle = i.window ∧ Map.find t.migrated (4096 * p + i.source) = some i.handle ∧
        t.incomingFrom p = none ∧
        (m1.waiting = [] → m1.job = none → (∀ e ∈ s.launches, e.2.mc ≠ i.handle) →
          t.mc i.handle = { m1 with state := .idle, level := min m1.base (s.partition m1.part).ceil }))

/-- R417, R285, R432, R354, R450, R451 and Table 21.15: each message takes its turn on its channel. A partial joins its group; a segment
asked for is sent or refused, and one that comes is checked; entries are written to a peer-fed queue and its tail applied; a migration is
agreed, filled part by part, ended or aborted; a forwarded frame is taken as one of the migrated micro-context. Its readings of what the
rules leave open are the model's: log entries 45 and 76. -/
def PeerMessagesClauses : Prop :=
  ∀ (s : State) (p : Nat) (m : List Byte) (rest : List (List Byte)), let b := m.drop 16
    let mtag := natAt m 8 8
    (messageWaits s p 0x0101 m rest → ∀ g, Map.find s.groups (byteAt b 0) = some g → (∃ x ∈ g.peers, x.peer = p ∧ x.rank = natAt b 20 4) →
      ∃ t, exec (.contrib p) s = .next t ∧ Map.find t.groups (byteAt b 0) =
          some { g with contribs := g.contribs ++ [{ ordinal := natAt b 8 8, rank := natAt b 20 4, op := byteAt b 1, type := byteAt b 2, count := natAt b 16 4, data := b.drop 24 }] } ∧
        ((t.peer p).chan 1).inbox = rest) ∧
    (messageWaits s p 0x0201 m rest → let r := messageTaken s p 0x0201 rest
      (s.residentSegment (natAt b 0 32) = none → exec (.segreq p) s = .next (r.sendMessage p 0x0203 mtag (b.take 32))) ∧
      (∀ f, s.residentSegment (natAt b 0 32) = some f → exec (.segreq p) s = .next (r.sendMessage p 0x0202 mtag (b.take 32 ++ Memory.read s.mem (f * 2 ^ 21) (2 ^ 21))))) ∧
    (messageWaits s p 0x0202 m rest → ∀ d e, s.asking p (natAt b 0 32) = some (d, e) → (b.drop 32).length = 2 ^ 21 → shake256 (b.drop 32) 32 = bytesOf 32 e.hash →
      ∃ t, exec (.segdata p) s = .next t ∧ Map.find t.residency e.frame = some .resident ∧ Memory.read t.mem (e.frame * 2 ^ 21) (2 ^ 21) = b.drop 32) ∧
    (messageWaits s p 0x0203 m rest → ∀ d e, s.asking p (natAt b 0 32) = some (d, e) → ∃ t, exec (.segnone p) s = .next t ∧ t.mem = s.mem ∧
      (∃ x ∈ t.segmentsOn d, x.frame = e.frame ∧ x.reading = none ∧ 2 ∈ x.failed) ∧
      Map.find t.residency e.frame = (if [0, 1, 2].all (fun k => !bitOf e.src k || decide (k = 2) || e.failed.contains k) then some .failed
        else Map.find s.residency e.frame)) ∧
    (messageWaits s p 0x0301 m rest → let h := natAt b 0 2
      let tail := (s.mc h).tail
      h < 4096 → s.closed h = false → (s.mc h).qsrc = 2 → exec (.qentry p) s = .next (((List.range (min (natAt b 8 8 - tail) ((b.length - 16) / 64))).foldl (fun r j =>
        r.mcStore h ((s.mc h).qbase + BitVec.ofNat 64 (64 * ((tail + j) % 2 ^ (s.mc h).qlog))) ((b.drop (16 + 64 * j)).take 64)) (messageTaken s p 0x0301 rest)).notify h
          (natAt b 8 8))) ∧
    (messageWaits s p 0x0401 m rest → let r := messageTaken s p 0x0401 rest
      (∀ g, b = [] → r.migrationAt p mtag 1 = some g → exec (.mkey p) s = .next (r.cutOver g)) ∧
      (∀ r1, b ≠ [] → r.takeMkey p b = some r1 → exec (.mkey p) s = .next (r1.sendMessage p 0x0401 mtag [])) ∧
      (b ≠ [] → r.takeMkey p b = none → exec (.mkey p) s = .next (r.sendMessage p 0x04FF mtag []))) ∧
    (∀ (i : Incoming), s.incomingFrom p = some i →
      (messageWaits s p 0x0402 m rest → ∀ r1, (messageTaken s p 0x0402 rest).takeMcb i b = some r1 → exec (.mcb p) s = .next r1) ∧
      (messageWaits s p 0x0403 m rest → let r := messageTaken s p 0x0403 rest
        (∀ r1, r.takeMframe i b = some r1 → exec (.mframe p) s = .next r1 ∧ Map.get 0 r1.frameKeys (natAt b 8 8) = i.keySlot ∧
          Memory.read r1.mem (natAt b 8 8 * 2 ^ 21) (2 ^ 21) = b.drop 16) ∧
        (r.takeMframe i b = none → exec (.mframe p) s = .next ((r.discardIncoming p).sendMessage p 0x04FF mtag []))) ∧
      (messageWaits s p 0x0404 m rest → ∀ r1, (messageTaken s p 0x0404 rest).takeMstream i b = some r1 → exec (.mstream p) s = .next r1) ∧
      (messageWaits s p 0x0405 m rest → b ≠ [] → ∀ r1, (messageTaken s p 0x0405 rest).takeMdone i = some r1 →
        exec (.mdone p) s = .next (r1.sendMessage p 0x0405 mtag []))) ∧
    (messageWaits s p 0x0405 m rest → b = [] → ∀ g, s.migrationAt p mtag 2 = some g → ∃ t, exec (.mdone p) s = .next t ∧ Replied s t 0 0 ∧ t.migration = none ∧
      Map.find t.keys (s.mc g.handle).keySlot = none) ∧
    (messageWaits s p 0x04FF m rest → (∀ g, s.migrationAt p mtag 1 = some g → exec (.mabort p) s = .next ((messageTaken s p 0x04FF rest).giveUpMigration 5 0)) ∧
      (s.migrationAt p mtag 1 = none → s.migrationAt p mtag 2 = none → ∀ i, s.incomingFrom p = some i →
        ∃ t, exec (.mabort p) s = .next t ∧ t.incomingFrom p = none ∧ Map.find t.keys i.keySlot = none ∧ ∀ n ∈ i.streams, (t.srec n).owner = 0xFFFF)) ∧
    (messageWaits s p 0x0501 m rest → let d := b.drop 24
      ∀ h, Map.find s.migrated (4096 * p + frameHandle d) = some h → (s.mc h).state ≠ .invalid → let r := messageTaken s p 0x0501 rest
      (frameType d = 1 → exec (.fwd p) s = .next (r.takeRequest h ((s.peerPort p).getD 0) d)) ∧ (frameType d = 3 → exec (.fwd p) s = .next (r.takeStreamFrame h d)))

/-- The messages of peers, and what a migration brings.
Their readings of what the rules leave open are the model's: log entries 45 and 76. -/
def Obligations.PeerMessages : Prop := PeerMessagesClauses ∧ MigrationArrivesClauses

/-! ### Starts, resets and fences (95) -/

/-- A start with no failure. -/
def noFaults : StartFaults := { dies := [], links := [], badStacks := [] }

/-- R424, R425, R10: COLD_START from power off, and WARM_START of a module that has power, begin a start: PHASE is 1 and no die
runs. Of a cold start no work is left, every byte of the module's stores reads 0, and host memory is as it was; a warm start also sets CYC
to 0. Power loss leaves PHASE 0 and nothing of these but the firmware banks and the start count. -/
def StartsBeginClauses : Prop :=
  let idle (t : State) : Prop := t.mcs = [] ∧ t.partitions = [] ∧ t.keys = [] ∧ t.cells = [] ∧ t.launches = [] ∧ t.jobs = [] ∧
    ∀ d, d < 4 → (t.die d).up = false
  (∀ (s : State) (f : StartFaults), s.phase = 0 → ∃ t, exec (.coldStart f) s = .next t ∧ t.phase = 1 ∧ t.warm = false ∧ idle t ∧
    t.starting = some f ∧ t.firmware = s.firmware ∧ t.starts = s.starts ∧
    (∀ d, d < 4 → (t.die d).bad = false ∧ (t.die d).fencedClusters = 0 ∧ (t.die d).fencedStacks = 0) ∧
    (∀ a, a < 2 ^ 55 → Memory.byte t.mem a = 0) ∧ (∀ a, 2 ^ 55 ≤ a → Memory.byte t.mem a = Memory.byte s.mem a)) ∧
  (∀ (s : State) (f : StartFaults), s.phase ≠ 0 → exec (.coldStart f) s = .next s) ∧
  (∀ (s : State) (f : StartFaults), s.phase ≠ 0 → ∃ t, exec (.warmStart f) s = .next t ∧ t.phase = 1 ∧ t.warm = true ∧ t.cyc = 0 ∧
    idle t ∧ t.starting = some f ∧ t.firmware = s.firmware) ∧
  (∀ s : State, exec .powerLoss s = .next s.cleared ∧ s.cleared.phase = 0 ∧ s.cleared.cells = [] ∧ s.cleared.mcs = [] ∧ s.cleared.keys = [] ∧
    s.cleared.firmware = s.firmware ∧ s.cleared.starts = s.starts)

/-- R313, R419, R424 to R426, Table 22.4: a start ends where the agenda says so. Where nothing fails and the selected images of every die
verify, PHASE is 2, every die runs, STARTS has risen by one and the drives are ready. A die whose images do not verify is held in reset with
every cluster and stack fenced; without D0 PHASE is 3 and no die runs. A unit of the firmware stands in supervisor mode. -/
def StartsEndClauses : Prop :=
  (∀ (s : State) (f : StartFaults) (us : List FwUnit) (rest : List Act), s.agenda = .startEnds f us :: rest →
    step s = .next (({ s with agenda := rest }).endStart f us)) ∧
  (∀ (s : State), s.starting = some noFaults → (∀ d, d < 4 → s.imagesGood d = true ∧ (s.die d).bad = false) →
    let t := s.endStart noFaults []
    t.phase = 2 ∧ t.starts = s.starts + 1 ∧ t.starting = none ∧ t.mem = s.mem ∧ t.cells = s.cells ∧ t.mcs = s.mcs ∧
    (∀ d, d < 4 → (t.die d).up = true ∧ (t.die d).bad = false ∧ (t.die d).fencedClusters = (s.die d).fencedClusters ∧
      (t.die d).fencedStacks = (s.die d).fencedStacks) ∧
    (∀ d k, d < 4 → k < 3 → (t.firmwareOf d k).running = (s.firmwareOf d k).selected) ∧
    (∀ d v, Map.find s.drives d = some v → Map.find t.drives d = some { v with ready := true })) ∧
  (∀ (s : State) (f g : StartFaults) (us : List FwUnit), s.starting = some f → (0 ∈ f.dies ∨ 0 ∈ g.dies ∨ s.imagesGood 0 = false ∨ (s.die 0).bad = true) →
    (s.endStart g us).phase = 3 ∧ ∀ d, d < 4 → ((s.endStart g us).die d).up = false) ∧
  (∀ (s : State) (f g : StartFaults) (d : Nat), s.starting = some f → 0 ∉ f.dies → 0 ∉ g.dies → s.imagesGood 0 = true → (s.die 0).bad = false → d < 4 →
    (d ∈ f.dies ∨ d ∈ g.dies ∨ s.imagesGood d = false ∨ (s.die d).bad = true) →
    let t := s.endStart g []
    t.phase = 2 ∧ (t.die d).up = false ∧ (t.die d).bad = true ∧ (t.die d).fencedClusters = 0xFFFF ∧ (t.die d).fencedStacks = 0xF) ∧
  (∀ (s : State) (f : FwUnit), s.phase = 2 → 512 ≤ f.place.cell → f.place.cell < 544 → (s.die (dieOf f.place.cell)).up = true →
    (s.slot f.place).bound = none → let l := (s.placeFirmware f).slot f.place
    l.bound.isSome = true ∧ l.s.sup = true ∧ l.v.sup = true ∧ l.s.pc = f.sentry ∧ l.v.pc = f.ventry)

/-- How a start begins, and how it ends.
Its readings of what the rules leave open are the model's: log entries 55, 74, 77 and 83. -/
def Obligations.Starts : Prop := StartsBeginClauses ∧ StartsEndClauses

/-- The command in CCMD asks for no reset. -/
def noResetAsked (s : State) : Prop := ∀ rung target, s.resetAsked rung target = false

/-- R435 to R437, R441, R442: where no rung runs, each reset event starts its rung over its scope: a queue rung and a micro-context rung one
handle, an engine rung none, a partition rung its handles, a device rung the module; a queue rung of an idle handle ends at once with the
queue unmapped. A rung whose jobs have not ended by its timeout, 100 µs, 1 ms, 10 ms or 100 ms (Table 22.5), escalates to the next, whose
timeout begins then, or is absorbed by a running partition rung of that scope, whose timeout goes on; before that nothing happens. A
cluster's fence marks the cluster and leaves cells and memory; a stack's fence, where no micro-context is private to the die and no sweep
runs, marks the stack and drops the die's contents and residency alone. That a die's memory reads 0 after a stack's fence is the model's
choice: log entry 88. Its other readings of what the rules leave open are log entries 72 and 78. -/
def Obligations.ResetsAndFences : Prop :=
  (∀ (s : State), s.phase = 2 → s.rungs = [] → noResetAsked s →
    let first (rung target : Nat) (handles invalid : List Nat) : State := s.startRung
      { rung := rung, target := target, since := s.cyc, jobs := [], handles := handles, invalid := invalid, lost := [], reply := false }
    (∀ h, h < 4096 → exec (.resetQueue h) s = .next (first 0 h [h] []) ∧
      ((s.mc h).job = none → (s.mc h).state ≠ .invalid → (s.mc h).waiting = [] → (s.mc h).head = (s.mc h).tail → s.migration = none →
        (∀ e ∈ s.launches, e.2.mc ≠ h) → ∃ t, exec (.resetQueue h) s = .next t ∧
        (t.mc h).mapped = false ∧ (t.mc h).pend = false ∧ (t.mc h).state = .idle ∧ t.rungs = [])) ∧
    (∀ h, h < 4096 → exec (.resetMicrocontext h) s = .next (first 1 h [h] []) ∧
      exec (.resetMicrocontext (2 ^ 16 + h)) s = .next (first 1 (2 ^ 16 + h) [h] [h])) ∧
    (∀ e d, e < 8 → d < 4 → exec (.resetEngine (16 * e + d)) s = .next (first 2 (16 * e + d) [] [])) ∧
    (∀ q, q < 16 → exec (.resetPartition q) s = .next (first 3 q (s.partHandles q) [])) ∧
    (exec .resetDevice s = .next (first 4 0 ((s.mcs.filter (fun e => decide (e.2.state ≠ .invalid))).map (·.1)) []))) ∧
  (∀ (s : State) (k : Nat) (r : Rung), s.rungs[k]? = some r → r.rung < 4 → (∃ j ∈ r.jobs, Map.find s.jobs j ≠ none) →
    let limit := [100000, 1000000, 10000000, 100000000].getD r.rung 0
    (r.since + limit ≤ s.cyc → exec (.rungTimeout k) s = .next (s.escalate k r) ∧ (s.nextRung r).rung = r.rung + 1) ∧
    (s.cyc < r.since + limit → exec (.rungTimeout k) s = .next s)) ∧
  (∀ (s : State) (r : Rung), s.rungs = [r] → r.rung < 4 → (∃ j ∈ r.jobs, Map.find s.jobs j ≠ none) →
    r.since + [100000, 1000000, 10000000, 100000000].getD r.rung 0 ≤ s.cyc →
    exec (.rungTimeout 0) s = .next (({ s with rungs := [] } : State).startRung (s.nextRung r)) ∧ (s.nextRung r).since = s.cyc ∧ (s.nextRung r).jobs = r.jobs) ∧
  (∀ (s : State) (r x : Rung), s.rungs = [r, x] → r.rung = 2 → x.rung = 3 → x.target = (s.nextRung r).target → (∃ j ∈ r.jobs, Map.find s.jobs j ≠ none) →
    r.since + 10000000 ≤ s.cyc → ∃ t, exec (.rungTimeout 0) s = .next t ∧ ∀ y ∈ t.rungs, y.rung = 3 ∧ y.target = x.target ∧ y.since = x.since) ∧
  (∀ (s : State) (d c : Nat), s.phase = 2 → d < 4 → c < 16 → bitOf (s.die d).fencedClusters c = false → s.fenceAsked 0 d c = false →
    ∃ t, exec (.fenceCluster d c) s = .next t ∧ exec (.fatalError d c) s = .next t ∧ bitOf (t.die d).fencedClusters c = true ∧
      (∀ k, k ≠ c → bitOf (t.die d).fencedClusters k = bitOf (s.die d).fencedClusters k) ∧ t.cells = s.cells ∧ t.mem = s.mem) ∧
  (∀ (s : State) (d k : Nat), s.phase = 2 → d < 4 → k < 4 → bitOf (s.die d).fencedStacks k = false → s.fenceAsked 1 d k = false →
    (∀ e ∈ s.mcs, s.privateOn e.1 d = false) → s.sweeps = [] →
    ∃ t, exec (.fenceStack d k) s = .next t ∧ bitOf (t.die d).fencedStacks k = true ∧ t.mcs = s.mcs ∧ t.rungs = s.rungs ∧
      (∀ a, d * 2 ^ 38 ≤ a → a < (d + 1) * 2 ^ 38 → Memory.byte t.mem a = 0) ∧
      (∀ a, a < d * 2 ^ 38 ∨ (d + 1) * 2 ^ 38 ≤ a → Memory.byte t.mem a = Memory.byte s.mem a) ∧
      (∀ f, homeDie (f * 2 ^ 21) = d → Map.find t.residency f = none) ∧ (∀ f, homeDie (f * 2 ^ 21) ≠ d → Map.find t.residency f = Map.find s.residency f))

/-! ### The whole machine -/

/-- Table 22.4, R10, R265, R394: right after reset the module is off: every byte reads 0 and the memory is in its canonical form, no slot
holds a unit, every register of every stream reads 0, no micro-context is valid, no partition is enabled, no stream record has an owner, no
key is held, no frame is resident, and a step finds nothing to do. (That every register of a slot without a unit is 0 is the model's choice,
log entry 2, and so are the host's memory, entry 3, and the links, entry 84.) -/
def Obligations.ResetState : Prop :=
  Memory.wf State.reset.mem = true ∧ State.reset.phase = 0 ∧ (∀ a, Memory.byte State.reset.mem a = 0) ∧
  (∀ u, (State.reset.slot u).bound = none ∧ (State.reset.slot u).window = none ∧ (State.reset.slot u).attached = none) ∧
  (∀ u st n, ((State.reset.slot u).stream st).gReg n = 0 ∧ ((State.reset.slot u).stream st).lReg n = 0 ∧ ((State.reset.slot u).stream st).eReg n = 0) ∧
  (∀ h, (State.reset.mc h).state = .invalid) ∧ (∀ p, (State.reset.partition p).enable = false) ∧ (∀ n, (State.reset.srec n).owner = 0xFFFF) ∧
  (∀ k, Map.find State.reset.keys k = none) ∧ (∀ f, Map.find State.reset.residency f = none) ∧ (∀ p, (State.reset.peer p).state = .down) ∧
  step State.reset = .next State.reset

/-- R16, R31, R103, R110, R120: with nothing else to do, a stream that may move executes what its words in use decode to, from its line
where it stands in one, and where it starts or resumes from the 64 bytes that a fetch of the line of its program counter reads; an encoding
that decode rejects is its trap. The state in which it executes differs in one thing: accesses of S in flight that the instruction waits for
have ended (log entry 101). CANCEL or DEADLINE that is due comes first (R311). A move of another stream, and an event, come from the
agenda. A stream that may not move stays. Its other readings of what the rules leave open are the model's: log entry 4. -/
def Obligations.StepRunsTheDecodedInstruction : Prop :=
  (∀ (s : State), s.agenda = [] → s.mayMove s.cur = true → s.asyncDue s.cur.slot = false → s.here.needsParams = false → s.here.window = none →
    (s.me.entry = .inLine →
      (∀ i, decode (s.ctx s.cur) (s.me.line.wordsFrom (wordIndex s.me.pc)) = .ok i → step s = exec i (s.interlocked i)) ∧
      (∀ e, decode (s.ctx s.cur) (s.me.line.wordsFrom (wordIndex s.me.pc)) = .error e → step s = exec (.encodingTrap e) (s.interlocked (.encodingTrap e)))) ∧
    (∀ k, s.me.entry = .fresh ∨ s.me.entry = .start → s.me.pc / 2 ^ 61 % 8 = 0 → s.me.pc % 4 = 0 → 4 ≤ s.me.pc % 64 → s.me.pc / 64 * 64 + 63 < 2 ^ 57 →
      s.virtual s.cur (s.binding s.cur.slot) .fetch (s.me.pc / 64 * 64) (BitVec.ofNat 64 (s.me.pc / 64 * 64)) = .ok k →
      let line : Line := { va := s.me.pc / 64 * 64, data := BitVec.ofNat 512 (natOf (s.load k 64)) }
      let s1 := s.withMe (fun x => { x with entry := .inLine, line := line, ahead := [] })
      line.owner = s.cur.stream.code → wordIndex s.me.pc < line.count →
      (∀ i, decode (s.ctx s.cur) (line.wordsFrom (wordIndex s.me.pc)) = .ok i → step s = exec i (s1.interlocked i)) ∧
      (∀ e, decode (s.ctx s.cur) (line.wordsFrom (wordIndex s.me.pc)) = .error e → step s = exec (.encodingTrap e) (s1.interlocked (.encodingTrap e))))) ∧
  (∀ (s : State) (i : Instr), (s.cur.stream ≠ .s ∨ s.here.sspans = [] → s.interlocked i = s) ∧ (s.interlocked i).mem = s.mem ∧
    Registers s.me (s.interlocked i).me noReg noReg noReg noReg ∧ (s.interlocked i).me.pc = s.me.pc ∧ (∀ f ∈ (s.interlocked i).here.sspans, f ∈ s.here.sspans) ∧
    (∀ u, u ≠ s.cur.slot → (s.interlocked i).slot u = s.slot u)) ∧
  (∀ (s : State) (c : Cursor), s.agenda = [.issue c] → step s = step { s with agenda := [], cur := c }) ∧
  (∀ (s : State), s.agenda = [] → s.mayMove s.cur = true → s.asyncDue s.cur.slot = true → step s = .next (s.takeAsync s.cur.slot)) ∧
  (∀ (s : State) (i : Instr) (rest : List Act), s.agenda = .event i :: rest → i.hdr = none →
    (∀ u, eventSlot i = some u → ({ s with agenda := rest } : State).asyncDue u = false) → step s = exec i { s with agenda := rest }) ∧
  (∀ (s : State), s.agenda = [] → s.mayMove s.cur = false → step s = .next s)

/-- Chapter 7's and chapter 11's worked encodings, and one word of each family, decode to the instructions they stand for. -/
def Obligations.WordsDecode : Prop :=
  let c : DecodeCtx := { stream := .s, pantry := false, user := true }
  let h : Hdr := { len := .w1, guard := 0, sense := false, wait := none, post := none }
  let h2 : Hdr := { h with len := .w2 }
  decode c [0x09C20000] = .ok (.li h 2 0) ∧ decode c [0x09810403] = .ok (.mov h 1 1 .lg) ∧ decode c [0x00420810] = .ok (.add h 2 2 1) ∧
  decode c [0x008107FF] = .ok (.addi h 1 1 (-1)) ∧ decode c [0x8C810000, 0x00000002] = .ok (.loop h2 1 { line := 0, word := 2 }) ∧
  decode c [0x0DC00000] = .ok (.halt h) ∧ decode c [0x878518C1, 0x00000014] = .ok (.bfx h2 5 6 (.imm 12 20)) ∧
  decode c [0x300A1030] = .ok (.sframe h 10 4 3) ∧ decode c [0x31401464] = .ok (.specb h 5 6 4) ∧ decode c [0x33C01001] = .ok (.cred h 4 1) ∧
  decode { c with stream := .v } [0x18010830] = .ok (.vadd h 1 2 3 .f32 (.round .rne)) ∧
  decode { c with stream := .m } [0x28000810] = .ok (.mma h 0 2 1) ∧ decode { c with stream := .x } [0x2C010800] = .ok (.xmov h 1 2) ∧
  decode c [0x17000000] = .error .priv ∧ decode c [0x40000000] = .error .len ∧ decode c [0x80000000] = .error .spill ∧
  decode c [0x00400000, 0x00000000] = .ok (.add h 0 0 0)

/-- R112 to R124: the words of a well-formed instruction, at every value that its encoding admits, decode to that instruction, whatever
words follow. -/
def Obligations.EncodeThenDecode : Prop :=
  ∀ (c : DecodeCtx) (i : Instr) (rest : List Nat), WellFormed c i = true → i.hdr ≠ none → decode c (encode c.stream i ++ rest) = .ok i

/-- The canonical form of memory, which makes equal memories equal data, is kept by every step. -/
def Obligations.MemoryStaysCanonical : Prop :=
  ∀ (s t : State), Memory.wf s.mem = true → step s = .next t → Memory.wf t.mem = true

end Claims
end

