-- ==== Sys2Proof/Laws/PerInstr.lean ====
section
/-! SUPPORT. The encoding, instruction by instruction: the fields that an instruction gives read back as that instruction. Events have no
fields, so for them there is nothing to show. -/

namespace Sys2Proof

/-! ### Codes read back -/

@[simp] theorem Stream.ofCode_code (y : Stream) : Stream.ofCode y.code = y := by cases y <;> rfl
@[simp] theorem Cond.ofCode_code (x : Cond) : Cond.ofCode x.code = x := by cases x <;> rfl
@[simp] theorem VCond.ofCode_code (x : VCond) : VCond.ofCode x.code = x := by cases x <;> rfl
@[simp] theorem MovKind.ofCode_code (x : MovKind) : MovKind.ofCode x.code = x := by cases x <;> rfl
@[simp] theorem LoadSize.ofCode_code (x : LoadSize) : LoadSize.ofCode x.code = x := by cases x <;> rfl
@[simp] theorem StoreSize.ofCode_code (x : StoreSize) : StoreSize.ofCode x.code = x := by cases x <;> rfl
@[simp] theorem AtomicSize.ofCode_code (x : AtomicSize) : AtomicSize.ofCode x.code = x := by cases x <;> rfl
@[simp] theorem MinMaxSize.ofCode_code (x : MinMaxSize) : MinMaxSize.ofCode x.code = x := by cases x <;> rfl
@[simp] theorem ElemType.ofCode_code (x : ElemType) : ElemType.ofCode x.code = x := by cases x <;> rfl
@[simp] theorem Rounding.ofCode_code (x : Rounding) : Rounding.ofCode x.code = x := by cases x <;> rfl
@[simp] theorem RedOp.ofCode_code (x : RedOp) : RedOp.ofCode x.code = x := by cases x <;> rfl
@[simp] theorem CvtSource.ofCode_code (x : CvtSource) : CvtSource.ofCode x.code = x := by cases x <;> rfl
@[simp] theorem Engine.ofCode_code (x : Engine) : Engine.ofCode x.code = x := by cases x <;> rfl
@[simp] theorem Format.ofCode_code (x : Format) : Format.ofCode x.code = x := by cases x <;> rfl
@[simp] theorem BarScope.ofCode_code (x : BarScope) : BarScope.ofCode x.code = x := by cases x <;> rfl

@[simp] theorem order_code (o : MemOrder) (c : Scope) : MemOrder.ofCode ((5 * o.code + c.code) / 5) = o := by cases o <;> cases c <;> rfl
@[simp] theorem scope_code (o : MemOrder) (c : Scope) : Scope.ofCode ((5 * o.code + c.code) % 5) = c := by cases o <;> cases c <;> rfl
@[simp] theorem red_code (o : RedOp) (x : Rounding) : RedOp.ofCode ((8 * o.code + x.code) / 8) = o := by cases o <;> cases x <;> rfl
@[simp] theorem rnd_code (o : RedOp) (x : Rounding) : Rounding.ofCode ((8 * o.code + x.code) % 8) = x := by cases o <;> cases x <;> rfl
@[simp] theorem src_code (o : CvtSource) (x : Format) : CvtSource.ofCode ((o.code * 32 + x.code) / 32) = o := by cases o <;> cases x <;> rfl
@[simp] theorem format_code (o : CvtSource) (x : Format) : Format.ofCode ((o.code * 32 + x.code) % 32) = x := by cases o <;> cases x <;> rfl

@[simp] theorem scope_mod (c : Scope) : Scope.ofCode (c.code % 5) = c := by cases c <;> rfl
@[simp] theorem rnd_mod (x : Rounding) : Rounding.ofCode (x.code % 8) = x := by cases x <;> rfl
@[simp] theorem format_mod (x : Format) : Format.ofCode (x.code % 32) = x := by cases x <;> rfl

theorem ArithMode.ofCode_code {ty : ElemType} {m : ArithMode} (h : m.suits ty = true) : ArithMode.ofCode ty m.code = m := by
  cases ty <;> cases m <;> simp_all [ArithMode.suits, ElemType.isFloat, ArithMode.ofCode, ArithMode.code, Rounding.ofCode_code]

namespace Laws.Codec

/-- The fields of an instruction in a stream read back as the instruction. -/
def Statement (i : Instr) : Prop :=
  ∀ (st : Stream) (r : Raw), (∀ h, i.hdr = some h → h.foreign st = true) → toRaw st i = some r → ofRaw st r = some i

/-! ### Headers -/

theorem tok_code {st : Stream} {o : Option Stream} (h : o ≠ some st) :
    (if (o.getD st).code = st.code then none else some (Stream.ofCode (o.getD st).code)) = o := by
  cases o with
  | none => simp
  | some y => cases st <;> cases y <;> simp_all [Stream.code, Stream.ofCode]

/-- A header reads back from fields that hold it. -/
theorem hdr_mk {st : Stream} {h : Hdr} (hf : h.foreign st = true) (op d a b fn mod c ext lit : Nat) :
    Raw.hdr st { len := h.len, op := op, d := d, a := a, b := b, fn := fn, guard := h.guard, sense := h.sense, wait := (h.wait.getD st).code,
                 post := (h.post.getD st).code, mod := mod, c := c, ext := ext, lit := lit } = h := by
  simp only [Hdr.foreign, Bool.and_eq_true, decide_eq_true_eq] at hf
  simp only [Raw.hdr, tok_code hf.1, tok_code hf.2]

/-- An option that answers under a condition. -/
theorem ofIf {p : Prop} [Decidable p] {x r : Raw} (h : (if p then some x else none) = some r) : p ∧ x = r := by
  by_cases hp : p <;> simp_all

theorem ofIfOpt {p : Prop} [Decidable p] {x : Option Raw} {r : Raw} (h : (if p then x else none) = some r) : p ∧ x = some r := by
  by_cases hp : p <;> simp_all

/-! ### Immediates, targets and displacements -/

/-- A field that holds an integer reads back as it. -/
theorem signedOf_fieldOf {w : Nat} (hw : 0 < w) {i : Int} {v : Nat} (h : fieldOf w i = some v) : signedOf w v = i ∧ v < 2 ^ w := by
  unfold fieldOf at h
  split at h
  · rename_i hi
    cases h
    obtain ⟨k, rfl⟩ : ∃ k, w = k + 1 := ⟨w - 1, by omega⟩
    simp only [Nat.add_sub_cancel] at hi
    have hp : (2 ^ (k + 1) : Int) = 2 * 2 ^ k := by ring
    have hpos : (0 : Int) < 2 ^ k := by positivity
    have hc : (((i % 2 ^ (k + 1)).toNat : Nat) : Int) = i % 2 ^ (k + 1) := Int.toNat_of_nonneg (Int.emod_nonneg _ (by positivity))
    have hlt : i % 2 ^ (k + 1) < 2 ^ (k + 1) := Int.emod_lt_of_pos _ (by positivity)
    refine ⟨?_, by zify; rw [hc]; exact_mod_cast hlt⟩
    have hcond : ((i % 2 ^ (k + 1)).toNat < 2 ^ k) ↔ i % 2 ^ (k + 1) < (2 ^ k : Int) := by
      rw [← hc]; norm_cast
    unfold signedOf
    simp only [Nat.add_sub_cancel, hcond, hc]
    rcases lt_or_ge i 0 with hn | hn
    · have e : i % 2 ^ (k + 1) = i + 2 ^ (k + 1) := by
        rw [← Int.add_emod_right, Int.emod_eq_of_lt] <;> omega
      rw [e, if_neg (by omega)]
      omega
    · have e : i % 2 ^ (k + 1) = i := Int.emod_eq_of_lt hn (by omega)
      rw [e, if_pos hi.2]
  · cases h

/-- What a sign-extended immediate leaves and reads back as. -/
theorem withImm_reads {r0 r : Raw} {i : Int} {st : Stream} (h : Raw.withImm r0 i = some r) :
    r.op = r0.op ∧ r.d = r0.d ∧ r.a = r0.a ∧ r.mod = r0.mod ∧ r.hdr st = r0.hdr st ∧ signedOf r.imm.1 r.imm.2 = i := by
  obtain ⟨v, hv, rfl⟩ := Option.map_eq_some_iff.mp h
  cases hl : r0.len <;> simp only [hl, Len.immBits] at hv <;> obtain ⟨h1, h2⟩ := signedOf_fieldOf (by decide) hv <;>
    simp only [Raw.setImm, hl, Raw.imm, Raw.hdr] <;> refine ⟨trivial, trivial, trivial, trivial, trivial, ?_⟩ <;> rw [← h1] <;> congr 1 <;> omega

/-- What a zero-extended immediate leaves and reads back as. -/
theorem withImmZ_reads {r0 r : Raw} {n : Nat} {st : Stream} (h : Raw.withImmZ r0 n = some r) :
    r.op = r0.op ∧ r.d = r0.d ∧ r.a = r0.a ∧ r.mod = r0.mod ∧ r.hdr st = r0.hdr st ∧ r.imm.2 = n := by
  obtain ⟨hn, rfl⟩ := ofIf h
  cases hl : r0.len <;> simp only [hl, Len.immBits] at hn <;> simp [Raw.setImm, hl, Raw.imm, Raw.hdr] <;> omega

/-- What a target leaves and reads back as. -/
theorem withTarget_reads {r0 r : Raw} {t : Target} {st : Stream} (h : Raw.withTarget r0 t = some r) :
    r.op = r0.op ∧ r.d = r0.d ∧ r.a = r0.a ∧ r.hdr st = r0.hdr st ∧ r.target = t := by
  obtain ⟨line, word⟩ := t
  obtain ⟨hw, h⟩ := ofIfOpt h
  cases hl : r0.len <;> simp only [hl] at h hw
  · cases h
  all_goals
    obtain ⟨l, hv, rfl⟩ := Option.map_eq_some_iff.mp h
    obtain ⟨h1, h2⟩ := signedOf_fieldOf (by decide) hv
    simp only [Raw.target, Raw.targetField, hl, Raw.hdr]
    refine ⟨trivial, trivial, trivial, trivial, ?_⟩
    congr 1
    · rw [← h1]; congr 1; omega
    · omega

/-- What a displacement leaves and reads back as. -/
theorem withDisp_reads {r0 r : Raw} {i : Int} {st : Stream} (h : Raw.withDisp r0 i = some r) :
    r.op = r0.op ∧ r.d = r0.d ∧ r.a = r0.a ∧ r.b = r0.b ∧ r.fn = r0.fn ∧ r.mod = r0.mod ∧ r.hdr st = r0.hdr st ∧ r.dispOf = i := by
  unfold Raw.withDisp at h
  cases hl : r0.len <;> simp only [hl] at h
  · obtain ⟨hi, rfl⟩ := ofIf h
    simp [Raw.dispOf, hl, hi]
  all_goals
    obtain ⟨v, hv, rfl⟩ := Option.map_eq_some_iff.mp h
    simp [Raw.dispOf, hl, Raw.hdr, (signedOf_fieldOf (by decide) hv).1]

/-! ### One lemma per instruction -/

theorem nop (h : Hdr) : Statement (.nop h) := by
  intro st r hf hr
  have hh := hf h rfl
  cases hr
  simp [ofRaw, ofRaw0, hdr_mk hh, Hdr.raw]
theorem add (h : Hdr) (d : Nat) (a : Nat) (b : Nat) : Statement (.add h d a b) := by
  intro st r hf hr
  have hh := hf h rfl
  cases hr
  simp [ofRaw, ofRaw0, hdr_mk hh, Hdr.raw]
theorem addi (h : Hdr) (d : Nat) (a : Nat) (imm : Int) : Statement (.addi h d a imm) := by
  intro st r hf hr
  have hh := hf h rfl
  obtain ⟨ho, hd, ha, hm, hH, hi⟩ := withImm_reads (st := st) hr
  simp only [Hdr.raw] at ho hd ha hm hH
  simp [ofRaw, ofRaw0, ho, hd, ha, hH, hi, hdr_mk hh]
theorem sub (h : Hdr) (d : Nat) (a : Nat) (b : Nat) : Statement (.sub h d a b) := by
  intro st r hf hr
  have hh := hf h rfl
  cases hr
  simp [ofRaw, ofRaw0, hdr_mk hh, Hdr.raw]
theorem mul (h : Hdr) (d : Nat) (a : Nat) (b : Nat) : Statement (.mul h d a b) := by
  intro st r hf hr
  have hh := hf h rfl
  cases hr
  simp [ofRaw, ofRaw0, hdr_mk hh, Hdr.raw]
theorem mulhs (h : Hdr) (d : Nat) (a : Nat) (b : Nat) : Statement (.mulhs h d a b) := by
  intro st r hf hr
  have hh := hf h rfl
  cases hr
  simp [ofRaw, ofRaw0, hdr_mk hh, Hdr.raw]
theorem mulhu (h : Hdr) (d : Nat) (a : Nat) (b : Nat) : Statement (.mulhu h d a b) := by
  intro st r hf hr
  have hh := hf h rfl
  cases hr
  simp [ofRaw, ofRaw0, hdr_mk hh, Hdr.raw]
theorem divs (h : Hdr) (d : Nat) (a : Nat) (b : Nat) : Statement (.divs h d a b) := by
  intro st r hf hr
  have hh := hf h rfl
  cases hr
  simp [ofRaw, ofRaw0, hdr_mk hh, Hdr.raw]
theorem divu (h : Hdr) (d : Nat) (a : Nat) (b : Nat) : Statement (.divu h d a b) := by
  intro st r hf hr
  have hh := hf h rfl
  cases hr
  simp [ofRaw, ofRaw0, hdr_mk hh, Hdr.raw]
theorem rems (h : Hdr) (d : Nat) (a : Nat) (b : Nat) : Statement (.rems h d a b) := by
  intro st r hf hr
  have hh := hf h rfl
  cases hr
  simp [ofRaw, ofRaw0, hdr_mk hh, Hdr.raw]
theorem remu (h : Hdr) (d : Nat) (a : Nat) (b : Nat) : Statement (.remu h d a b) := by
  intro st r hf hr
  have hh := hf h rfl
  cases hr
  simp [ofRaw, ofRaw0, hdr_mk hh, Hdr.raw]
theorem and_ (h : Hdr) (d : Nat) (a : Nat) (b : Nat) : Statement (.and_ h d a b) := by
  intro st r hf hr
  have hh := hf h rfl
  cases hr
  simp [ofRaw, ofRaw0, hdr_mk hh, Hdr.raw]
theorem andi (h : Hdr) (d : Nat) (a : Nat) (imm : Int) : Statement (.andi h d a imm) := by
  intro st r hf hr
  have hh := hf h rfl
  obtain ⟨ho, hd, ha, hm, hH, hi⟩ := withImm_reads (st := st) hr
  simp only [Hdr.raw] at ho hd ha hm hH
  simp [ofRaw, ofRaw0, ho, hd, ha, hH, hi, hdr_mk hh]
theorem or_ (h : Hdr) (d : Nat) (a : Nat) (b : Nat) : Statement (.or_ h d a b) := by
  intro st r hf hr
  have hh := hf h rfl
  cases hr
  simp [ofRaw, ofRaw0, hdr_mk hh, Hdr.raw]
theorem ori (h : Hdr) (d : Nat) (a : Nat) (imm : Int) : Statement (.ori h d a imm) := by
  intro st r hf hr
  have hh := hf h rfl
  obtain ⟨ho, hd, ha, hm, hH, hi⟩ := withImm_reads (st := st) hr
  simp only [Hdr.raw] at ho hd ha hm hH
  simp [ofRaw, ofRaw0, ho, hd, ha, hH, hi, hdr_mk hh]
theorem xor_ (h : Hdr) (d : Nat) (a : Nat) (b : Nat) : Statement (.xor_ h d a b) := by
  intro st r hf hr
  have hh := hf h rfl
  cases hr
  simp [ofRaw, ofRaw0, hdr_mk hh, Hdr.raw]
theorem xori (h : Hdr) (d : Nat) (a : Nat) (imm : Int) : Statement (.xori h d a imm) := by
  intro st r hf hr
  have hh := hf h rfl
  obtain ⟨ho, hd, ha, hm, hH, hi⟩ := withImm_reads (st := st) hr
  simp only [Hdr.raw] at ho hd ha hm hH
  simp [ofRaw, ofRaw1, ho, hd, ha, hH, hi, hdr_mk hh]
theorem andn (h : Hdr) (d : Nat) (a : Nat) (b : Nat) : Statement (.andn h d a b) := by
  intro st r hf hr
  have hh := hf h rfl
  cases hr
  simp [ofRaw, ofRaw1, hdr_mk hh, Hdr.raw]
theorem shl (h : Hdr) (d : Nat) (a : Nat) (b : Nat) : Statement (.shl h d a b) := by
  intro st r hf hr
  have hh := hf h rfl
  cases hr
  simp [ofRaw, ofRaw1, hdr_mk hh, Hdr.raw]
theorem shli (h : Hdr) (d : Nat) (a : Nat) (imm : Nat) : Statement (.shli h d a imm) := by
  intro st r hf hr
  have hh := hf h rfl
  obtain ⟨ho, hd, ha, hm, hH, hi⟩ := withImmZ_reads (st := st) hr
  simp only [Hdr.raw] at ho hd ha hm hH
  simp [ofRaw, ofRaw1, ho, hd, ha, hH, hi, hdr_mk hh]
theorem shr (h : Hdr) (d : Nat) (a : Nat) (b : Nat) : Statement (.shr h d a b) := by
  intro st r hf hr
  have hh := hf h rfl
  cases hr
  simp [ofRaw, ofRaw1, hdr_mk hh, Hdr.raw]
theorem shri (h : Hdr) (d : Nat) (a : Nat) (imm : Nat) : Statement (.shri h d a imm) := by
  intro st r hf hr
  have hh := hf h rfl
  obtain ⟨ho, hd, ha, hm, hH, hi⟩ := withImmZ_reads (st := st) hr
  simp only [Hdr.raw] at ho hd ha hm hH
  simp [ofRaw, ofRaw1, ho, hd, ha, hH, hi, hdr_mk hh]
theorem sar (h : Hdr) (d : Nat) (a : Nat) (b : Nat) : Statement (.sar h d a b) := by
  intro st r hf hr
  have hh := hf h rfl
  cases hr
  simp [ofRaw, ofRaw1, hdr_mk hh, Hdr.raw]
theorem sari (h : Hdr) (d : Nat) (a : Nat) (imm : Nat) : Statement (.sari h d a imm) := by
  intro st r hf hr
  have hh := hf h rfl
  obtain ⟨ho, hd, ha, hm, hH, hi⟩ := withImmZ_reads (st := st) hr
  simp only [Hdr.raw] at ho hd ha hm hH
  simp [ofRaw, ofRaw1, ho, hd, ha, hH, hi, hdr_mk hh]
theorem rol (h : Hdr) (d : Nat) (a : Nat) (b : Nat) : Statement (.rol h d a b) := by
  intro st r hf hr
  have hh := hf h rfl
  cases hr
  simp [ofRaw, ofRaw1, hdr_mk hh, Hdr.raw]
theorem ror (h : Hdr) (d : Nat) (a : Nat) (b : Nat) : Statement (.ror h d a b) := by
  intro st r hf hr
  have hh := hf h rfl
  cases hr
  simp [ofRaw, ofRaw1, hdr_mk hh, Hdr.raw]
theorem clz (h : Hdr) (d : Nat) (a : Nat) : Statement (.clz h d a) := by
  intro st r hf hr
  have hh := hf h rfl
  cases hr
  simp [ofRaw, ofRaw1, hdr_mk hh, Hdr.raw]
theorem ctz (h : Hdr) (d : Nat) (a : Nat) : Statement (.ctz h d a) := by
  intro st r hf hr
  have hh := hf h rfl
  cases hr
  simp [ofRaw, ofRaw1, hdr_mk hh, Hdr.raw]
theorem popc (h : Hdr) (d : Nat) (a : Nat) : Statement (.popc h d a) := by
  intro st r hf hr
  have hh := hf h rfl
  cases hr
  simp [ofRaw, ofRaw1, hdr_mk hh, Hdr.raw]
theorem brev (h : Hdr) (d : Nat) (a : Nat) : Statement (.brev h d a) := by
  intro st r hf hr
  have hh := hf h rfl
  cases hr
  simp [ofRaw, ofRaw1, hdr_mk hh, Hdr.raw]
theorem bfx (h : Hdr) (d : Nat) (a : Nat) (src : FieldSrc) : Statement (.bfx h d a src) := by
  intro st r hf hr
  have hh := hf h rfl
  cases src <;> cases hr <;>
  simp [ofRaw, ofRaw1, hdr_mk hh, Hdr.raw]
theorem bfxs (h : Hdr) (d : Nat) (a : Nat) (src : FieldSrc) : Statement (.bfxs h d a src) := by
  intro st r hf hr
  have hh := hf h rfl
  cases src <;> cases hr <;>
  simp [ofRaw, ofRaw1, hdr_mk hh, Hdr.raw]
theorem bfi (h : Hdr) (d : Nat) (a : Nat) (src : FieldSrc) : Statement (.bfi h d a src) := by
  intro st r hf hr
  have hh := hf h rfl
  cases src <;> cases hr <;>
  simp [ofRaw, ofRaw2, hdr_mk hh, Hdr.raw]
theorem mins (h : Hdr) (d : Nat) (a : Nat) (b : Nat) : Statement (.mins h d a b) := by
  intro st r hf hr
  have hh := hf h rfl
  cases hr
  simp [ofRaw, ofRaw2, hdr_mk hh, Hdr.raw]
theorem minu (h : Hdr) (d : Nat) (a : Nat) (b : Nat) : Statement (.minu h d a b) := by
  intro st r hf hr
  have hh := hf h rfl
  cases hr
  simp [ofRaw, ofRaw2, hdr_mk hh, Hdr.raw]
theorem maxs (h : Hdr) (d : Nat) (a : Nat) (b : Nat) : Statement (.maxs h d a b) := by
  intro st r hf hr
  have hh := hf h rfl
  cases hr
  simp [ofRaw, ofRaw2, hdr_mk hh, Hdr.raw]
theorem maxu (h : Hdr) (d : Nat) (a : Nat) (b : Nat) : Statement (.maxu h d a b) := by
  intro st r hf hr
  have hh := hf h rfl
  cases hr
  simp [ofRaw, ofRaw2, hdr_mk hh, Hdr.raw]
theorem sel (h : Hdr) (d : Nat) (a : Nat) (b : Nat) (c : Nat) : Statement (.sel h d a b c) := by
  intro st r hf hr
  have hh := hf h rfl
  cases hr
  simp [ofRaw, ofRaw2, hdr_mk hh, Hdr.raw]
theorem mov (h : Hdr) (d : Nat) (a : Nat) (k : MovKind) : Statement (.mov h d a k) := by
  intro st r hf hr
  have hh := hf h rfl
  cases hr
  simp [ofRaw, ofRaw2, hdr_mk hh, Hdr.raw]
theorem li (h : Hdr) (d : Nat) (imm : Int) : Statement (.li h d imm) := by
  intro st r hf hr
  have hh := hf h rfl
  obtain ⟨ho, hd, ha, hm, hH, hi⟩ := withImm_reads (st := st) hr
  simp only [Hdr.raw] at ho hd ha hm hH
  simp [ofRaw, ofRaw2, ho, hd, hH, hi, hdr_mk hh]
theorem lih (h : Hdr) (d : Nat) (imm : Int) : Statement (.lih h d imm) := by
  intro st r hf hr
  have hh := hf h rfl
  obtain ⟨ho, hd, ha, hm, hH, hi⟩ := withImm_reads (st := st) hr
  simp only [Hdr.raw] at ho hd ha hm hH
  simp [ofRaw, ofRaw2, ho, hd, hH, hi, hdr_mk hh]
theorem lea (h : Hdr) (d : Nat) (a : Nat) (b : Nat) (fn : Nat) : Statement (.lea h d a b fn) := by
  intro st r hf hr
  have hh := hf h rfl
  cases hr
  simp [ofRaw, ofRaw2, hdr_mk hh, Hdr.raw]
theorem cmp (h : Hdr) (d : Nat) (a : Nat) (b : Nat) (cond : Cond) : Statement (.cmp h d a b cond) := by
  intro st r hf hr
  have hh := hf h rfl
  cases hr
  simp [ofRaw, ofRaw2, hdr_mk hh, Hdr.raw]
theorem cmpi (h : Hdr) (d : Nat) (a : Nat) (imm : Int) (cond : Cond) : Statement (.cmpi h d a imm cond) := by
  intro st r hf hr
  have hh := hf h rfl
  obtain ⟨ho, hd, ha, hm, hH, hi⟩ := withImm_reads (st := st) hr
  simp only [Hdr.raw] at ho hd ha hm hH
  simp [ofRaw, ofRaw2, ho, hd, ha, hm, hH, hi, hdr_mk hh]
theorem plog (h : Hdr) (d : Nat) (a : Nat) (b : Nat) (fn : Nat) : Statement (.plog h d a b fn) := by
  intro st r hf hr
  have hh := hf h rfl
  cases hr
  simp [ofRaw, ofRaw2, hdr_mk hh, Hdr.raw]
theorem br (h : Hdr) (tgt : Target) : Statement (.br h tgt) := by
  intro st r hf hr
  have hh := hf h rfl
  obtain ⟨ho, hd, ha, hH, hi⟩ := withTarget_reads (st := st) hr
  simp only [Hdr.raw] at ho hd ha hH
  simp [ofRaw, ofRaw2, ho, hH, hi, hdr_mk hh]
theorem jmpr (h : Hdr) (a : Nat) : Statement (.jmpr h a) := by
  intro st r hf hr
  have hh := hf h rfl
  cases hr
  simp [ofRaw, ofRaw2, hdr_mk hh, Hdr.raw]
theorem call (h : Hdr) (tgt : Target) : Statement (.call h tgt) := by
  intro st r hf hr
  have hh := hf h rfl
  obtain ⟨ho, hd, ha, hH, hi⟩ := withTarget_reads (st := st) hr
  simp only [Hdr.raw] at ho hd ha hH
  simp [ofRaw, ofRaw2, ho, hH, hi, hdr_mk hh]
theorem callr (h : Hdr) (a : Nat) : Statement (.callr h a) := by
  intro st r hf hr
  have hh := hf h rfl
  cases hr
  simp [ofRaw, ofRaw3, hdr_mk hh, Hdr.raw]
theorem ret (h : Hdr) (a : Nat) : Statement (.ret h a) := by
  intro st r hf hr
  have hh := hf h rfl
  cases hr
  simp [ofRaw, ofRaw3, hdr_mk hh, Hdr.raw]
theorem loop (h : Hdr) (d : Nat) (tgt : Target) : Statement (.loop h d tgt) := by
  intro st r hf hr
  have hh := hf h rfl
  obtain ⟨ho, hd, ha, hH, hi⟩ := withTarget_reads (st := st) hr
  simp only [Hdr.raw] at ho hd ha hH
  simp [ofRaw, ofRaw3, ho, hd, hH, hi, hdr_mk hh]
theorem cvta (h : Hdr) (d : Nat) (a : Nat) (fn : Nat) : Statement (.cvta h d a fn) := by
  intro st r hf hr
  have hh := hf h rfl
  cases hr
  simp [ofRaw, ofRaw3, hdr_mk hh, Hdr.raw]
theorem tspc (h : Hdr) (d : Nat) (a : Nat) (fn : Nat) : Statement (.tspc h d a fn) := by
  intro st r hf hr
  have hh := hf h rfl
  cases hr
  simp [ofRaw, ofRaw3, hdr_mk hh, Hdr.raw]
theorem mfs (h : Hdr) (d : Nat) (a : Nat) : Statement (.mfs h d a) := by
  intro st r hf hr
  have hh := hf h rfl
  cases hr
  simp [ofRaw, ofRaw3, hdr_mk hh, Hdr.raw]
theorem mts (h : Hdr) (d : Nat) (a : Nat) : Statement (.mts h d a) := by
  intro st r hf hr
  have hh := hf h rfl
  cases hr
  simp [ofRaw, ofRaw3, hdr_mk hh, Hdr.raw]
theorem halt (h : Hdr) : Statement (.halt h) := by
  intro st r hf hr
  have hh := hf h rfl
  cases hr
  simp [ofRaw, ofRaw3, hdr_mk hh, Hdr.raw]
theorem ld (h : Hdr) (d : Nat) (a : Nat) (b : Nat) (sz : LoadSize) (disp : Int) : Statement (.ld h d a b sz disp) := by
  intro st r hf hr
  have hh := hf h rfl
  obtain ⟨ho, hd, ha, hb, hfn, hm, hH, hi⟩ := withDisp_reads (st := st) hr
  simp only [Hdr.raw] at ho hd ha hb hfn hm hH
  simp [ofRaw, ofRaw4, ho, hd, ha, hb, hfn, hH, hi, hdr_mk hh]
theorem st (h : Hdr) (d : Nat) (a : Nat) (b : Nat) (sz : StoreSize) (disp : Int) : Statement (.st h d a b sz disp) := by
  intro st r hf hr
  have hh := hf h rfl
  obtain ⟨ho, hd, ha, hb, hfn, hm, hH, hi⟩ := withDisp_reads (st := st) hr
  simp only [Hdr.raw] at ho hd ha hb hfn hm hH
  simp [ofRaw, ofRaw4, ho, hd, ha, hb, hfn, hH, hi, hdr_mk hh]
theorem lda (h : Hdr) (d : Nat) (a : Nat) (b : Nat) (sz : LoadSize) (disp : Int) (ord : MemOrder) (scope : Scope) : Statement (.lda h d a b sz disp ord scope) := by
  intro st r hf hr
  have hh := hf h rfl
  obtain ⟨ho, hd, ha, hb, hfn, hm, hH, hi⟩ := withDisp_reads (st := st) hr
  simp only [Hdr.raw] at ho hd ha hb hfn hm hH
  simp [ofRaw, ofRaw4, ho, hd, ha, hb, hfn, hm, hH, hi, hdr_mk hh]
theorem str (h : Hdr) (d : Nat) (a : Nat) (b : Nat) (sz : StoreSize) (disp : Int) (ord : MemOrder) (scope : Scope) : Statement (.str h d a b sz disp ord scope) := by
  intro st r hf hr
  have hh := hf h rfl
  obtain ⟨ho, hd, ha, hb, hfn, hm, hH, hi⟩ := withDisp_reads (st := st) hr
  simp only [Hdr.raw] at ho hd ha hb hfn hm hH
  simp [ofRaw, ofRaw4, ho, hd, ha, hb, hfn, hm, hH, hi, hdr_mk hh]
theorem aadd (h : Hdr) (d : Nat) (a : Nat) (b : Nat) (sz : AtomicSize) (ord : MemOrder) (scope : Scope) : Statement (.aadd h d a b sz ord scope) := by
  intro st r hf hr
  have hh := hf h rfl
  cases hr
  simp [ofRaw, ofRaw4, hdr_mk hh, Hdr.raw]
theorem amin (h : Hdr) (d : Nat) (a : Nat) (b : Nat) (sz : MinMaxSize) (ord : MemOrder) (scope : Scope) : Statement (.amin h d a b sz ord scope) := by
  intro st r hf hr
  have hh := hf h rfl
  cases hr
  simp [ofRaw, ofRaw4, hdr_mk hh, Hdr.raw]
theorem amax (h : Hdr) (d : Nat) (a : Nat) (b : Nat) (sz : MinMaxSize) (ord : MemOrder) (scope : Scope) : Statement (.amax h d a b sz ord scope) := by
  intro st r hf hr
  have hh := hf h rfl
  cases hr
  simp [ofRaw, ofRaw4, hdr_mk hh, Hdr.raw]
theorem aand (h : Hdr) (d : Nat) (a : Nat) (b : Nat) (sz : AtomicSize) (ord : MemOrder) (scope : Scope) : Statement (.aand h d a b sz ord scope) := by
  intro st r hf hr
  have hh := hf h rfl
  cases hr
  simp [ofRaw, ofRaw4, hdr_mk hh, Hdr.raw]
theorem aor (h : Hdr) (d : Nat) (a : Nat) (b : Nat) (sz : AtomicSize) (ord : MemOrder) (scope : Scope) : Statement (.aor h d a b sz ord scope) := by
  intro st r hf hr
  have hh := hf h rfl
  cases hr
  simp [ofRaw, ofRaw4, hdr_mk hh, Hdr.raw]
theorem axor (h : Hdr) (d : Nat) (a : Nat) (b : Nat) (sz : AtomicSize) (ord : MemOrder) (scope : Scope) : Statement (.axor h d a b sz ord scope) := by
  intro st r hf hr
  have hh := hf h rfl
  cases hr
  simp [ofRaw, ofRaw4, hdr_mk hh, Hdr.raw]
theorem axchg (h : Hdr) (d : Nat) (a : Nat) (b : Nat) (sz : AtomicSize) (ord : MemOrder) (scope : Scope) : Statement (.axchg h d a b sz ord scope) := by
  intro st r hf hr
  have hh := hf h rfl
  cases hr
  simp [ofRaw, ofRaw4, hdr_mk hh, Hdr.raw]
theorem acas (h : Hdr) (d : Nat) (a : Nat) (b : Nat) (c : Nat) (sz : AtomicSize) (ord : MemOrder) (scope : Scope) : Statement (.acas h d a b c sz ord scope) := by
  intro st r hf hr
  have hh := hf h rfl
  cases hr
  simp [ofRaw, ofRaw4, hdr_mk hh, Hdr.raw]
theorem fence (h : Hdr) (ord : MemOrder) (scope : Scope) : Statement (.fence h ord scope) := by
  intro st r hf hr
  have hh := hf h rfl
  cases hr
  simp [ofRaw, ofRaw4, hdr_mk hh, Hdr.raw]
theorem rfence (h : Hdr) : Statement (.rfence h) := by
  intro st r hf hr
  have hh := hf h rfl
  cases hr
  simp [ofRaw, ofRaw4, hdr_mk hh, Hdr.raw]
theorem tksend (h : Hdr) (dst : Stream) : Statement (.tksend h dst) := by
  intro st r hf hr
  have hh := hf h rfl
  cases hr
  simp [ofRaw, ofRaw4, hdr_mk hh, Hdr.raw]
theorem tkwait (h : Hdr) (dst : Stream) : Statement (.tkwait h dst) := by
  intro st r hf hr
  have hh := hf h rfl
  cases hr
  simp [ofRaw, ofRaw4, hdr_mk hh, Hdr.raw]
theorem bara (h : Hdr) (n : Nat) (scope : BarScope) : Statement (.bara h n scope) := by
  intro st r hf hr
  have hh := hf h rfl
  obtain ⟨hn, hr⟩ := ofIfOpt hr
  obtain ⟨ho, hd, ha, hm, hH, hi⟩ := withImmZ_reads (st := st) hr
  simp only [Hdr.raw] at ho hd ha hm hH
  have : scope.code < 16 := by cases scope <;> decide
  simp [ofRaw, ofRaw5, ho, hH, hi, hdr_mk hh, Nat.mod_eq_of_lt hn, show (n + 16 * scope.code) / 16 = scope.code by omega]
theorem barw (h : Hdr) (n : Nat) (scope : BarScope) : Statement (.barw h n scope) := by
  intro st r hf hr
  have hh := hf h rfl
  obtain ⟨hn, hr⟩ := ofIfOpt hr
  obtain ⟨ho, hd, ha, hm, hH, hi⟩ := withImmZ_reads (st := st) hr
  simp only [Hdr.raw] at ho hd ha hm hH
  have : scope.code < 16 := by cases scope <;> decide
  simp [ofRaw, ofRaw5, ho, hH, hi, hdr_mk hh, Nat.mod_eq_of_lt hn, show (n + 16 * scope.code) / 16 = scope.code by omega]
theorem launch (h : Hdr) (d : Nat) (a : Nat) (b : Nat) : Statement (.launch h d a b) := by
  intro st r hf hr
  have hh := hf h rfl
  cases hr
  simp [ofRaw, ofRaw5, hdr_mk hh, Hdr.raw]
theorem launchCont (h : Hdr) (d : Nat) (a : Nat) (b : Nat) : Statement (.launchCont h d a b) := by
  intro st r hf hr
  have hh := hf h rfl
  cases hr
  simp [ofRaw, ofRaw5, hdr_mk hh, Hdr.raw]
theorem join (h : Hdr) (a : Nat) : Statement (.join h a) := by
  intro st r hf hr
  have hh := hf h rfl
  cases hr
  simp [ofRaw, ofRaw5, hdr_mk hh, Hdr.raw]
theorem cancel (h : Hdr) (d : Nat) (a : Nat) (child : Bool) (level : Nat) : Statement (.cancel h d a child level) := by
  intro st r hf hr
  have hh := hf h rfl
  obtain ⟨hl, rfl⟩ := ofIf hr
  cases child <;> simp [ofRaw, ofRaw5, hdr_mk hh, Hdr.raw, Nat.mod_eq_of_lt hl, Nat.div_eq_of_lt hl]
theorem cntrd (h : Hdr) (d : Nat) (a : Nat) (child : Bool) (level : Nat) : Statement (.cntrd h d a child level) := by
  intro st r hf hr
  have hh := hf h rfl
  obtain ⟨hl, rfl⟩ := ofIf hr
  cases child <;> simp [ofRaw, ofRaw5, hdr_mk hh, Hdr.raw, Nat.mod_eq_of_lt hl, Nat.div_eq_of_lt hl]
theorem enq (h : Hdr) (a : Nat) (eng : Engine) : Statement (.enq h a eng) := by
  intro st r hf hr
  have hh := hf h rfl
  cases hr
  simp [ofRaw, ofRaw5, hdr_mk hh, Hdr.raw]
theorem deq (h : Hdr) (a : Nat) (eng : Engine) : Statement (.deq h a eng) := by
  intro st r hf hr
  have hh := hf h rfl
  cases hr
  simp [ofRaw, ofRaw5, hdr_mk hh, Hdr.raw]
theorem waitev (h : Hdr) (d : Nat) (a : Nat) (b : Nat) (child : Bool) (level : Nat) : Statement (.waitev h d a b child level) := by
  intro st r hf hr
  have hh := hf h rfl
  obtain ⟨hl, rfl⟩ := ofIf hr
  cases child <;> simp [ofRaw, ofRaw5, hdr_mk hh, Hdr.raw, Nat.mod_eq_of_lt hl, Nat.div_eq_of_lt hl]
theorem gpos (h : Hdr) (a : Nat) : Statement (.gpos h a) := by
  intro st r hf hr
  have hh := hf h rfl
  cases hr
  simp [ofRaw, ofRaw5, hdr_mk hh, Hdr.raw]
theorem cslive (h : Hdr) (a : Nat) (b : Nat) : Statement (.cslive h a b) := by
  intro st r hf hr
  have hh := hf h rfl
  cases hr
  simp [ofRaw, ofRaw5, hdr_mk hh, Hdr.raw]
theorem trap (h : Hdr) (imm : Nat) : Statement (.trap h imm) := by
  intro st r hf hr
  have hh := hf h rfl
  obtain ⟨ho, hd, ha, hm, hH, hi⟩ := withImmZ_reads (st := st) hr
  simp only [Hdr.raw] at ho hd ha hm hH
  simp [ofRaw, ofRaw5, ho, hH, hi, hdr_mk hh]
theorem eret (h : Hdr) : Statement (.eret h) := by
  intro st r hf hr
  have hh := hf h rfl
  cases hr
  simp [ofRaw, ofRaw5, hdr_mk hh, Hdr.raw]
theorem bkpt (h : Hdr) (imm : Nat) : Statement (.bkpt h imm) := by
  intro st r hf hr
  have hh := hf h rfl
  obtain ⟨ho, hd, ha, hm, hH, hi⟩ := withImmZ_reads (st := st) hr
  simp only [Hdr.raw] at ho hd ha hm hH
  simp [ofRaw, ofRaw5, ho, hH, hi, hdr_mk hh]
theorem vadd (h : Hdr) (d : Nat) (a : Nat) (b : Nat) (ty : ElemType) (mode : ArithMode) : Statement (.vadd h d a b ty mode) := by
  intro st r hf hr
  have hh := hf h rfl
  obtain ⟨hm, rfl⟩ := ofIf hr
  simp [ofRaw, ofRaw6, hdr_mk hh, Hdr.raw, ArithMode.ofCode_code hm]
theorem vsub (h : Hdr) (d : Nat) (a : Nat) (b : Nat) (ty : ElemType) (mode : ArithMode) : Statement (.vsub h d a b ty mode) := by
  intro st r hf hr
  have hh := hf h rfl
  obtain ⟨hm, rfl⟩ := ofIf hr
  simp [ofRaw, ofRaw6, hdr_mk hh, Hdr.raw, ArithMode.ofCode_code hm]
theorem vmul (h : Hdr) (d : Nat) (a : Nat) (b : Nat) (ty : ElemType) (mode : ArithMode) : Statement (.vmul h d a b ty mode) := by
  intro st r hf hr
  have hh := hf h rfl
  obtain ⟨hm, rfl⟩ := ofIf hr
  simp [ofRaw, ofRaw6, hdr_mk hh, Hdr.raw, ArithMode.ofCode_code hm]
theorem vfma (h : Hdr) (d : Nat) (a : Nat) (b : Nat) (ty : ElemType) (rnd : Rounding) : Statement (.vfma h d a b ty rnd) := by
  intro st r hf hr
  have hh := hf h rfl
  cases hr
  simp [ofRaw, ofRaw6, hdr_mk hh, Hdr.raw]
theorem vfms (h : Hdr) (d : Nat) (a : Nat) (b : Nat) (ty : ElemType) (rnd : Rounding) : Statement (.vfms h d a b ty rnd) := by
  intro st r hf hr
  have hh := hf h rfl
  cases hr
  simp [ofRaw, ofRaw6, hdr_mk hh, Hdr.raw]
theorem vmin (h : Hdr) (d : Nat) (a : Nat) (b : Nat) (ty : ElemType) : Statement (.vmin h d a b ty) := by
  intro st r hf hr
  have hh := hf h rfl
  cases hr
  simp [ofRaw, ofRaw6, hdr_mk hh, Hdr.raw]
theorem vmax (h : Hdr) (d : Nat) (a : Nat) (b : Nat) (ty : ElemType) : Statement (.vmax h d a b ty) := by
  intro st r hf hr
  have hh := hf h rfl
  cases hr
  simp [ofRaw, ofRaw6, hdr_mk hh, Hdr.raw]
theorem vabs (h : Hdr) (d : Nat) (a : Nat) (ty : ElemType) : Statement (.vabs h d a ty) := by
  intro st r hf hr
  have hh := hf h rfl
  cases hr
  simp [ofRaw, ofRaw6, hdr_mk hh, Hdr.raw]
theorem vneg (h : Hdr) (d : Nat) (a : Nat) (ty : ElemType) : Statement (.vneg h d a ty) := by
  intro st r hf hr
  have hh := hf h rfl
  cases hr
  simp [ofRaw, ofRaw6, hdr_mk hh, Hdr.raw]
theorem vcmp (h : Hdr) (d : Nat) (a : Nat) (b : Nat) (ty : ElemType) (cond : VCond) : Statement (.vcmp h d a b ty cond) := by
  intro st r hf hr
  have hh := hf h rfl
  cases hr
  simp [ofRaw, ofRaw6, hdr_mk hh, Hdr.raw]
theorem vsel (h : Hdr) (d : Nat) (a : Nat) (b : Nat) (c : Nat) (ty : ElemType) : Statement (.vsel h d a b c ty) := by
  intro st r hf hr
  have hh := hf h rfl
  cases hr
  simp [ofRaw, ofRaw6, hdr_mk hh, Hdr.raw]
theorem vand (h : Hdr) (d : Nat) (a : Nat) (b : Nat) (ty : ElemType) : Statement (.vand h d a b ty) := by
  intro st r hf hr
  have hh := hf h rfl
  cases hr
  simp [ofRaw, ofRaw6, hdr_mk hh, Hdr.raw]
theorem vor (h : Hdr) (d : Nat) (a : Nat) (b : Nat) (ty : ElemType) : Statement (.vor h d a b ty) := by
  intro st r hf hr
  have hh := hf h rfl
  cases hr
  simp [ofRaw, ofRaw6, hdr_mk hh, Hdr.raw]
theorem vxor (h : Hdr) (d : Nat) (a : Nat) (b : Nat) (ty : ElemType) : Statement (.vxor h d a b ty) := by
  intro st r hf hr
  have hh := hf h rfl
  cases hr
  simp [ofRaw, ofRaw6, hdr_mk hh, Hdr.raw]
theorem vnot (h : Hdr) (d : Nat) (a : Nat) (ty : ElemType) : Statement (.vnot h d a ty) := by
  intro st r hf hr
  have hh := hf h rfl
  cases hr
  simp [ofRaw, ofRaw6, hdr_mk hh, Hdr.raw]
theorem vshl (h : Hdr) (d : Nat) (a : Nat) (b : Nat) (ty : ElemType) : Statement (.vshl h d a b ty) := by
  intro st r hf hr
  have hh := hf h rfl
  cases hr
  simp [ofRaw, ofRaw6, hdr_mk hh, Hdr.raw]
theorem vshr (h : Hdr) (d : Nat) (a : Nat) (b : Nat) (ty : ElemType) : Statement (.vshr h d a b ty) := by
  intro st r hf hr
  have hh := hf h rfl
  cases hr
  simp [ofRaw, ofRaw7, hdr_mk hh, Hdr.raw]
theorem vsar (h : Hdr) (d : Nat) (a : Nat) (b : Nat) (ty : ElemType) : Statement (.vsar h d a b ty) := by
  intro st r hf hr
  have hh := hf h rfl
  cases hr
  simp [ofRaw, ofRaw7, hdr_mk hh, Hdr.raw]
theorem vcvt (h : Hdr) (d : Nat) (a : Nat) (ty : ElemType) (src : CvtSource) (target : Format) (rnd : Rounding) : Statement (.vcvt h d a ty src target rnd) := by
  intro st r hf hr
  have hh := hf h rfl
  cases hr
  simp [ofRaw, ofRaw7, hdr_mk hh, Hdr.raw]
theorem vrcp (h : Hdr) (d : Nat) (a : Nat) : Statement (.vrcp h d a) := by
  intro st r hf hr
  have hh := hf h rfl
  cases hr
  simp [ofRaw, ofRaw7, hdr_mk hh, Hdr.raw]
theorem vrsq (h : Hdr) (d : Nat) (a : Nat) : Statement (.vrsq h d a) := by
  intro st r hf hr
  have hh := hf h rfl
  cases hr
  simp [ofRaw, ofRaw7, hdr_mk hh, Hdr.raw]
theorem vsqrt (h : Hdr) (d : Nat) (a : Nat) : Statement (.vsqrt h d a) := by
  intro st r hf hr
  have hh := hf h rfl
  cases hr
  simp [ofRaw, ofRaw7, hdr_mk hh, Hdr.raw]
theorem vdiv (h : Hdr) (d : Nat) (a : Nat) (b : Nat) : Statement (.vdiv h d a b) := by
  intro st r hf hr
  have hh := hf h rfl
  cases hr
  simp [ofRaw, ofRaw7, hdr_mk hh, Hdr.raw]
theorem vexp2 (h : Hdr) (d : Nat) (a : Nat) : Statement (.vexp2 h d a) := by
  intro st r hf hr
  have hh := hf h rfl
  cases hr
  simp [ofRaw, ofRaw7, hdr_mk hh, Hdr.raw]
theorem vlog2 (h : Hdr) (d : Nat) (a : Nat) : Statement (.vlog2 h d a) := by
  intro st r hf hr
  have hh := hf h rfl
  cases hr
  simp [ofRaw, ofRaw7, hdr_mk hh, Hdr.raw]
theorem vsin (h : Hdr) (d : Nat) (a : Nat) : Statement (.vsin h d a) := by
  intro st r hf hr
  have hh := hf h rfl
  cases hr
  simp [ofRaw, ofRaw7, hdr_mk hh, Hdr.raw]
theorem vcos (h : Hdr) (d : Nat) (a : Nat) : Statement (.vcos h d a) := by
  intro st r hf hr
  have hh := hf h rfl
  cases hr
  simp [ofRaw, ofRaw7, hdr_mk hh, Hdr.raw]
theorem vtanh (h : Hdr) (d : Nat) (a : Nat) : Statement (.vtanh h d a) := by
  intro st r hf hr
  have hh := hf h rfl
  cases hr
  simp [ofRaw, ofRaw7, hdr_mk hh, Hdr.raw]
theorem vred (h : Hdr) (d : Nat) (a : Nat) (ty : ElemType) (op : RedOp) (rnd : Rounding) : Statement (.vred h d a ty op rnd) := by
  intro st r hf hr
  have hh := hf h rfl
  cases hr
  simp [ofRaw, ofRaw7, hdr_mk hh, Hdr.raw]
theorem vmaxi (h : Hdr) (d : Nat) (a : Nat) (b : Nat) (ty : ElemType) : Statement (.vmaxi h d a b ty) := by
  intro st r hf hr
  have hh := hf h rfl
  cases hr
  simp [ofRaw, ofRaw7, hdr_mk hh, Hdr.raw]
theorem vscan (h : Hdr) (d : Nat) (a : Nat) (ty : ElemType) (op : RedOp) (rnd : Rounding) : Statement (.vscan h d a ty op rnd) := by
  intro st r hf hr
  have hh := hf h rfl
  cases hr
  simp [ofRaw, ofRaw7, hdr_mk hh, Hdr.raw]
theorem vperm (h : Hdr) (d : Nat) (a : Nat) (b : Nat) (ty : ElemType) : Statement (.vperm h d a b ty) := by
  intro st r hf hr
  have hh := hf h rfl
  cases hr
  simp [ofRaw, ofRaw7, hdr_mk hh, Hdr.raw]
theorem vbcast (h : Hdr) (d : Nat) (a : Nat) (ty : ElemType) : Statement (.vbcast h d a ty) := by
  intro st r hf hr
  have hh := hf h rfl
  cases hr
  simp [ofRaw, ofRaw8, hdr_mk hh, Hdr.raw]
theorem vrot (h : Hdr) (d : Nat) (a : Nat) (b : Nat) (ty : ElemType) : Statement (.vrot h d a b ty) := by
  intro st r hf hr
  have hh := hf h rfl
  cases hr
  simp [ofRaw, ofRaw8, hdr_mk hh, Hdr.raw]
theorem vld (h : Hdr) (d : Nat) (a : Nat) (b : Nat) (ty : ElemType) (disp : Int) : Statement (.vld h d a b ty disp) := by
  intro st r hf hr
  have hh := hf h rfl
  obtain ⟨ho, hd, ha, hb, hfn, hm, hH, hi⟩ := withDisp_reads (st := st) hr
  simp only [Hdr.raw] at ho hd ha hb hfn hm hH
  simp [ofRaw, ofRaw8, ho, hd, ha, hb, hfn, hH, hi, hdr_mk hh]
theorem vst (h : Hdr) (d : Nat) (a : Nat) (b : Nat) (ty : ElemType) (disp : Int) : Statement (.vst h d a b ty disp) := by
  intro st r hf hr
  have hh := hf h rfl
  obtain ⟨ho, hd, ha, hb, hfn, hm, hH, hi⟩ := withDisp_reads (st := st) hr
  simp only [Hdr.raw] at ho hd ha hb hfn hm hH
  simp [ofRaw, ofRaw8, ho, hd, ha, hb, hfn, hH, hi, hdr_mk hh]
theorem vlds (h : Hdr) (d : Nat) (a : Nat) (b : Nat) (ty : ElemType) : Statement (.vlds h d a b ty) := by
  intro st r hf hr
  have hh := hf h rfl
  cases hr
  simp [ofRaw, ofRaw8, hdr_mk hh, Hdr.raw]
theorem vsts (h : Hdr) (d : Nat) (a : Nat) (b : Nat) (ty : ElemType) : Statement (.vsts h d a b ty) := by
  intro st r hf hr
  have hh := hf h rfl
  cases hr
  simp [ofRaw, ofRaw8, hdr_mk hh, Hdr.raw]
theorem vins (h : Hdr) (d : Nat) (a : Nat) (b : Nat) (ty : ElemType) : Statement (.vins h d a b ty) := by
  intro st r hf hr
  have hh := hf h rfl
  cases hr
  simp [ofRaw, ofRaw8, hdr_mk hh, Hdr.raw]
theorem vext (h : Hdr) (d : Nat) (a : Nat) (b : Nat) (ty : ElemType) : Statement (.vext h d a b ty) := by
  intro st r hf hr
  have hh := hf h rfl
  cases hr
  simp [ofRaw, ofRaw8, hdr_mk hh, Hdr.raw]
theorem viota (h : Hdr) (d : Nat) (ty : ElemType) : Statement (.viota h d ty) := by
  intro st r hf hr
  have hh := hf h rfl
  cases hr
  simp [ofRaw, ofRaw8, hdr_mk hh, Hdr.raw]
theorem vrngF32 (h : Hdr) (d : Nat) (a : Nat) (b : Nat) : Statement (.vrngF32 h d a b) := by
  intro st r hf hr
  have hh := hf h rfl
  cases hr
  simp [ofRaw, ofRaw8, hdr_mk hh, Hdr.raw]
theorem vrngU32 (h : Hdr) (d : Nat) (a : Nat) (b : Nat) : Statement (.vrngU32 h d a b) := by
  intro st r hf hr
  have hh := hf h rfl
  cases hr
  simp [ofRaw, ofRaw8, hdr_mk hh, Hdr.raw]
theorem mpush (h : Hdr) (a : Nat) : Statement (.mpush h a) := by
  intro st r hf hr
  have hh := hf h rfl
  cases hr
  simp [ofRaw, ofRaw8, hdr_mk hh, Hdr.raw]
theorem minv (h : Hdr) : Statement (.minv h) := by
  intro st r hf hr
  have hh := hf h rfl
  cases hr
  simp [ofRaw, ofRaw8, hdr_mk hh, Hdr.raw]
theorem mpop (h : Hdr) : Statement (.mpop h) := by
  intro st r hf hr
  have hh := hf h rfl
  cases hr
  simp [ofRaw, ofRaw8, hdr_mk hh, Hdr.raw]
theorem vbrz (h : Hdr) (a : Nat) (tgt : Target) : Statement (.vbrz h a tgt) := by
  intro st r hf hr
  have hh := hf h rfl
  obtain ⟨ho, hd, ha, hH, hi⟩ := withTarget_reads (st := st) hr
  simp only [Hdr.raw] at ho hd ha hH
  simp [ofRaw, ofRaw8, ho, ha, hH, hi, hdr_mk hh]
theorem vheap (h : Hdr) (a : Nat) (b : Nat) : Statement (.vheap h a b) := by
  intro st r hf hr
  have hh := hf h rfl
  cases hr
  simp [ofRaw, ofRaw8, hdr_mk hh, Hdr.raw]
theorem vheapr (h : Hdr) (d : Nat) (a : Nat) : Statement (.vheapr h d a) := by
  intro st r hf hr
  have hh := hf h rfl
  cases hr
  simp [ofRaw, ofRaw8, hdr_mk hh, Hdr.raw]
theorem vheapc (h : Hdr) : Statement (.vheapc h) := by
  intro st r hf hr
  have hh := hf h rfl
  cases hr
  simp [ofRaw, ofRaw9, hdr_mk hh, Hdr.raw]
theorem vpopc (h : Hdr) (d : Nat) (a : Nat) (ty : ElemType) : Statement (.vpopc h d a ty) := by
  intro st r hf hr
  have hh := hf h rfl
  cases hr
  simp [ofRaw, ofRaw9, hdr_mk hh, Hdr.raw]
theorem vmovm (h : Hdr) (d : Nat) (a : Nat) (ty : ElemType) (exp : Bool) : Statement (.vmovm h d a ty exp) := by
  intro st r hf hr
  have hh := hf h rfl
  cases hr
  simp [ofRaw, ofRaw9, hdr_mk hh, Hdr.raw]
theorem mma (h : Hdr) (d : Nat) (a : Nat) (b : Nat) : Statement (.mma h d a b) := by
  intro st r hf hr
  have hh := hf h rfl
  cases hr
  simp [ofRaw, ofRawA, hdr_mk hh, Hdr.raw]
theorem mmas (h : Hdr) (d : Nat) (a : Nat) (b : Nat) : Statement (.mmas h d a b) := by
  intro st r hf hr
  have hh := hf h rfl
  cases hr
  simp [ofRaw, ofRawA, hdr_mk hh, Hdr.raw]
theorem mzero (h : Hdr) (d : Nat) : Statement (.mzero h d) := by
  intro st r hf hr
  have hh := hf h rfl
  cases hr
  simp [ofRaw, ofRawA, hdr_mk hh, Hdr.raw]
theorem mlda (h : Hdr) (d : Nat) (a : Nat) : Statement (.mlda h d a) := by
  intro st r hf hr
  have hh := hf h rfl
  cases hr
  simp [ofRaw, ofRawA, hdr_mk hh, Hdr.raw]
theorem msta (h : Hdr) (d : Nat) (a : Nat) : Statement (.msta h d a) := by
  intro st r hf hr
  have hh := hf h rfl
  cases hr
  simp [ofRaw, ofRawA, hdr_mk hh, Hdr.raw]
theorem mcvt (h : Hdr) (d : Nat) (a : Nat) (i32 : Bool) (target : Format) (rnd : Rounding) : Statement (.mcvt h d a i32 target rnd) := by
  intro st r hf hr
  have hh := hf h rfl
  cases hr
  simp [ofRaw, ofRawA, hdr_mk hh, Hdr.raw]
theorem mbias (h : Hdr) (d : Nat) (a : Nat) : Statement (.mbias h d a) := by
  intro st r hf hr
  have hh := hf h rfl
  cases hr
  simp [ofRaw, ofRawA, hdr_mk hh, Hdr.raw]
theorem mprg (h : Hdr) (d : Nat) (fn : Nat) : Statement (.mprg h d fn) := by
  intro st r hf hr
  have hh := hf h rfl
  cases hr
  simp [ofRaw, ofRawA, hdr_mk hh, Hdr.raw]
theorem xmov (h : Hdr) (d : Nat) (a : Nat) : Statement (.xmov h d a) := by
  intro st r hf hr
  have hh := hf h rfl
  cases hr
  simp [ofRaw, ofRawB, hdr_mk hh, Hdr.raw]
theorem xmovs (h : Hdr) (d : Nat) (a : Nat) (rnd : Rounding) : Statement (.xmovs h d a rnd) := by
  intro st r hf hr
  have hh := hf h rfl
  cases hr
  simp [ofRaw, ofRawB, hdr_mk hh, Hdr.raw]
theorem xgath (h : Hdr) (d : Nat) (a : Nat) (b : Nat) : Statement (.xgath h d a b) := by
  intro st r hf hr
  have hh := hf h rfl
  cases hr
  simp [ofRaw, ofRawB, hdr_mk hh, Hdr.raw]
theorem xscat (h : Hdr) (d : Nat) (a : Nat) (b : Nat) : Statement (.xscat h d a b) := by
  intro st r hf hr
  have hh := hf h rfl
  cases hr
  simp [ofRaw, ofRawB, hdr_mk hh, Hdr.raw]
theorem xunpk (h : Hdr) (d : Nat) (a : Nat) : Statement (.xunpk h d a) := by
  intro st r hf hr
  have hh := hf h rfl
  cases hr
  simp [ofRaw, ofRawB, hdr_mk hh, Hdr.raw]
theorem xfill (h : Hdr) (d : Nat) (a : Nat) : Statement (.xfill h d a) := by
  intro st r hf hr
  have hh := hf h rfl
  cases hr
  simp [ofRaw, ofRawB, hdr_mk hh, Hdr.raw]
theorem xhash (h : Hdr) (d : Nat) (a : Nat) (b : Nat) : Statement (.xhash h d a b) := by
  intro st r hf hr
  have hh := hf h rfl
  cases hr
  simp [ofRaw, ofRawB, hdr_mk hh, Hdr.raw]
theorem xapp (h : Hdr) (a : Nat) (b : Nat) : Statement (.xapp h a b) := by
  intro st r hf hr
  have hh := hf h rfl
  cases hr
  simp [ofRaw, ofRawB, hdr_mk hh, Hdr.raw]
theorem xqry (h : Hdr) (d : Nat) (fn : Nat) : Statement (.xqry h d fn) := by
  intro st r hf hr
  have hh := hf h rfl
  cases hr
  simp [ofRaw, ofRawB, hdr_mk hh, Hdr.raw]
theorem sframe (h : Hdr) (d : Nat) (a : Nat) (b : Nat) : Statement (.sframe h d a b) := by
  intro st r hf hr
  have hh := hf h rfl
  cases hr
  simp [ofRaw, ofRawC, hdr_mk hh, Hdr.raw]
theorem scommit (h : Hdr) (d : Nat) (a : Nat) (b : Nat) : Statement (.scommit h d a b) := by
  intro st r hf hr
  have hh := hf h rfl
  cases hr
  simp [ofRaw, ofRawC, hdr_mk hh, Hdr.raw]
theorem strunc (h : Hdr) (a : Nat) (b : Nat) : Statement (.strunc h a b) := by
  intro st r hf hr
  have hh := hf h rfl
  cases hr
  simp [ofRaw, ofRawC, hdr_mk hh, Hdr.raw]
theorem scur (h : Hdr) (d : Nat) (a : Nat) (fn : Nat) : Statement (.scur h d a fn) := by
  intro st r hf hr
  have hh := hf h rfl
  cases hr
  simp [ofRaw, ofRawC, hdr_mk hh, Hdr.raw]
theorem sckpt (h : Hdr) (a : Nat) (b : Nat) : Statement (.sckpt h a b) := by
  intro st r hf hr
  have hh := hf h rfl
  cases hr
  simp [ofRaw, ofRawC, hdr_mk hh, Hdr.raw]
theorem specb (h : Hdr) (a : Nat) (b : Nat) (fn : Nat) : Statement (.specb h a b fn) := by
  intro st r hf hr
  have hh := hf h rfl
  cases hr
  simp [ofRaw, ofRawC, hdr_mk hh, Hdr.raw]
theorem acmp (h : Hdr) (d : Nat) : Statement (.acmp h d) := by
  intro st r hf hr
  have hh := hf h rfl
  cases hr
  simp [ofRaw, ofRawC, hdr_mk hh, Hdr.raw]
theorem spece (h : Hdr) : Statement (.spece h) := by
  intro st r hf hr
  have hh := hf h rfl
  cases hr
  simp [ofRaw, ofRawC, hdr_mk hh, Hdr.raw]
theorem specx (h : Hdr) : Statement (.specx h) := by
  intro st r hf hr
  have hh := hf h rfl
  cases hr
  simp [ofRaw, ofRawC, hdr_mk hh, Hdr.raw]
theorem pfxq (h : Hdr) (d : Nat) (a : Nat) (b : Nat) : Statement (.pfxq h d a b) := by
  intro st r hf hr
  have hh := hf h rfl
  cases hr
  simp [ofRaw, ofRawC, hdr_mk hh, Hdr.raw]
theorem pfxi (h : Hdr) (a : Nat) : Statement (.pfxi h a) := by
  intro st r hf hr
  have hh := hf h rfl
  cases hr
  simp [ofRaw, ofRawC, hdr_mk hh, Hdr.raw]
theorem pfxpin (h : Hdr) (a : Nat) : Statement (.pfxpin h a) := by
  intro st r hf hr
  have hh := hf h rfl
  cases hr
  simp [ofRaw, ofRawC, hdr_mk hh, Hdr.raw]
theorem pfxrel (h : Hdr) (a : Nat) : Statement (.pfxrel h a) := by
  intro st r hf hr
  have hh := hf h rfl
  cases hr
  simp [ofRaw, ofRawC, hdr_mk hh, Hdr.raw]
theorem dqsend (h : Hdr) (a : Nat) (b : Nat) : Statement (.dqsend h a b) := by
  intro st r hf hr
  have hh := hf h rfl
  cases hr
  simp [ofRaw, ofRawC, hdr_mk hh, Hdr.raw]
theorem dqrecv (h : Hdr) (d : Nat) (a : Nat) (b : Nat) : Statement (.dqrecv h d a b) := by
  intro st r hf hr
  have hh := hf h rfl
  cases hr
  simp [ofRaw, ofRawC, hdr_mk hh, Hdr.raw]
theorem cred (h : Hdr) (a : Nat) (fn : Nat) : Statement (.cred h a fn) := by
  intro st r hf hr
  have hh := hf h rfl
  cases hr
  simp [ofRaw, ofRawC, hdr_mk hh, Hdr.raw]
theorem cbcst (h : Hdr) (a : Nat) : Statement (.cbcst h a) := by
  intro st r hf hr
  have hh := hf h rfl
  cases hr
  simp [ofRaw, ofRawD, hdr_mk hh, Hdr.raw]
theorem cgath (h : Hdr) (a : Nat) : Statement (.cgath h a) := by
  intro st r hf hr
  have hh := hf h rfl
  cases hr
  simp [ofRaw, ofRawD, hdr_mk hh, Hdr.raw]
theorem siphq (h : Hdr) (a : Nat) (b : Nat) : Statement (.siphq h a b) := by
  intro st r hf hr
  have hh := hf h rfl
  cases hr
  simp [ofRaw, ofRawD, hdr_mk hh, Hdr.raw]
theorem segwt (h : Hdr) (a : Nat) : Statement (.segwt h a) := by
  intro st r hf hr
  have hh := hf h rfl
  cases hr
  simp [ofRaw, ofRawD, hdr_mk hh, Hdr.raw]
theorem maskw (h : Hdr) (a : Nat) (b : Nat) : Statement (.maskw h a b) := by
  intro st r hf hr
  have hh := hf h rfl
  cases hr
  simp [ofRaw, ofRawD, hdr_mk hh, Hdr.raw]
theorem encodingTrap (t : DecodeTrap) : Statement (.encodingTrap t) := by
  intro st r hf hr; cases hr
theorem vResultLand (u : SlotId) : Statement (.vResultLand u) := by
  intro st r hf hr; cases hr
theorem mRetire (u : SlotId) : Statement (.mRetire u) := by
  intro st r hf hr; cases hr
theorem xCommandRetire (u : SlotId) : Statement (.xCommandRetire u) := by
  intro st r hf hr; cases hr
theorem asyncTrapTake (u : SlotId) : Statement (.asyncTrapTake u) := by
  intro st r hf hr; cases hr
theorem parkRetry (u : SlotId) (stream : Stream) (k : Nat) : Statement (.parkRetry u stream k) := by
  intro st r hf hr; cases hr
theorem pageWalk (u : SlotId) (stream : Stream) (va : Word) (fill : BufferLevel) : Statement (.pageWalk u stream va fill) := by
  intro st r hf hr; cases hr
theorem walkerInvalidateRange (die : Nat) (k : Nat) : Statement (.walkerInvalidateRange die k) := by
  intro st r hf hr; cases hr
theorem walkerInvalidateHandle (die : Nat) (k : Nat) : Statement (.walkerInvalidateHandle die k) := by
  intro st r hf hr; cases hr
theorem walkerInvalidateAll (die : Nat) (k : Nat) : Statement (.walkerInvalidateAll die k) := by
  intro st r hf hr; cases hr
theorem egressReply (die : Nat) (k : Nat) : Statement (.egressReply die k) := by
  intro st r hf hr; cases hr
theorem egressStreamSend (rec : Nat) (n : Nat) : Statement (.egressStreamSend rec n) := by
  intro st r hf hr; cases hr
theorem collectiveReduce (die : Nat) (k : Nat) : Statement (.collectiveReduce die k) := by
  intro st r hf hr; cases hr
theorem collectiveBroadcast (die : Nat) (k : Nat) : Statement (.collectiveBroadcast die k) := by
  intro st r hf hr; cases hr
theorem collectiveGather (die : Nat) (k : Nat) : Statement (.collectiveGather die k) := by
  intro st r hf hr; cases hr
theorem collectiveComplete (group : Nat) (ordinal : Nat) : Statement (.collectiveComplete group ordinal) := by
  intro st r hf hr; cases hr
theorem siphonQuery (die : Nat) (k : Nat) : Statement (.siphonQuery die k) := by
  intro st r hf hr; cases hr
theorem siphonUrge (die : Nat) (k : Nat) : Statement (.siphonUrge die k) := by
  intro st r hf hr; cases hr
theorem siphonFetch (die : Nat) (frame : Nat) : Statement (.siphonFetch die frame) := by
  intro st r hf hr; cases hr
theorem segmentCheck (die : Nat) (frame : Nat) (data : List Byte) : Statement (.segmentCheck die frame data) := by
  intro st r hf hr; cases hr
theorem siphonSourceTimeout (die : Nat) (frame : Nat) : Statement (.siphonSourceTimeout die frame) := by
  intro st r hf hr; cases hr
theorem serviceRequestFrame (port : Nat) (frame : List Byte) : Statement (.serviceRequestFrame port frame) := by
  intro st r hf hr; cases hr
theorem streamInputFrame (port : Nat) (frame : List Byte) : Statement (.streamInputFrame port frame) := by
  intro st r hf hr; cases hr
theorem ladleBind (die : Nat) : Statement (.ladleBind die) := by
  intro st r hf hr; cases hr
theorem boundaryTimeout (launch : Nat) : Statement (.boundaryTimeout launch) := by
  intro st r hf hr; cases hr
theorem sliceExpiry (cell : Nat) : Statement (.sliceExpiry cell) := by
  intro st r hf hr; cases hr
theorem yieldTimeout (cell : Nat) : Statement (.yieldTimeout cell) := by
  intro st r hf hr; cases hr
theorem ageExpiry (handle : Nat) : Statement (.ageExpiry handle) := by
  intro st r hf hr; cases hr
theorem deadlineExpiry (job : Nat) : Statement (.deadlineExpiry job) := by
  intro st r hf hr; cases hr
theorem rampWindow (die : Nat) (demand : Nat) (temp : Nat) : Statement (.rampWindow die demand temp) := by
  intro st r hf hr; cases hr
theorem maskwDeadline (u : SlotId) : Statement (.maskwDeadline u) := by
  intro st r hf hr; cases hr
theorem queueNotify (vf : Nat) (offset : Nat) (value : Nat) : Statement (.queueNotify vf offset value) := by
  intro st r hf hr; cases hr
theorem queueRemap (handle : Nat) : Statement (.queueRemap handle) := by
  intro st r hf hr; cases hr
theorem ringWrite (die : Nat) : Statement (.ringWrite die) := by
  intro st r hf hr; cases hr
theorem coldStart (faults : StartFaults) : Statement (.coldStart faults) := by
  intro st r hf hr; cases hr
theorem warmStart (faults : StartFaults) : Statement (.warmStart faults) := by
  intro st r hf hr; cases hr
theorem partitionEnable (p : Nat) : Statement (.partitionEnable p) := by
  intro st r hf hr; cases hr
theorem partitionDisable (p : Nat) : Statement (.partitionDisable p) := by
  intro st r hf hr; cases hr
theorem schedWrite (p : Nat) (value : Word) : Statement (.schedWrite p value) := by
  intro st r hf hr; cases hr
theorem registerWrite (func : Nat) (bar : Nat) (offset : Nat) (value : Word) : Statement (.registerWrite func bar offset value) := by
  intro st r hf hr; cases hr
theorem walkerHostSubmit (vf : Nat) : Statement (.walkerHostSubmit vf) := by
  intro st r hf hr; cases hr
theorem mailboxPfMessage (vf : Nat) : Statement (.mailboxPfMessage vf) := by
  intro st r hf hr; cases hr
theorem mailboxPfResponse (vf : Nat) (status : Nat) (data : List Byte) : Statement (.mailboxPfResponse vf status data) := by
  intro st r hf hr; cases hr
theorem ptroot (func : Nat) : Statement (.ptroot func) := by
  intro st r hf hr; cases hr
theorem ptwrite (func : Nat) : Statement (.ptwrite func) := by
  intro st r hf hr; cases hr
theorem keyload (func : Nat) : Statement (.keyload func) := by
  intro st r hf hr; cases hr
theorem keyclr (func : Nat) : Statement (.keyclr func) := by
  intro st r hf hr; cases hr
theorem framekey (func : Nat) : Statement (.framekey func) := by
  intro st r hf hr; cases hr
theorem rekey (func : Nat) : Statement (.rekey func) := by
  intro st r hf hr; cases hr
theorem rekeyStatus (func : Nat) : Statement (.rekeyStatus func) := by
  intro st r hf hr; cases hr
theorem attest (func : Nat) : Statement (.attest func) := by
  intro st r hf hr; cases hr
theorem sweepStep (k : Nat) : Statement (.sweepStep k) := by
  intro st r hf hr; cases hr
theorem ideThresholdWrite (func : Nat) (value : Word) : Statement (.ideThresholdWrite func value) := by
  intro st r hf hr; cases hr
theorem ideThresholdReached (func : Nat) (sub : Nat) : Statement (.ideThresholdReached func sub) := by
  intro st r hf hr; cases hr
theorem ideSubstreamStop (func : Nat) (sub : Nat) : Statement (.ideSubstreamStop func sub) := by
  intro st r hf hr; cases hr
theorem ideKeyRefresh (func : Nat) (sub : Nat) : Statement (.ideKeyRefresh func sub) := by
  intro st r hf hr; cases hr
theorem resetQueue (handle : Nat) : Statement (.resetQueue handle) := by
  intro st r hf hr; cases hr
theorem resetMicrocontext (target : Nat) : Statement (.resetMicrocontext target) := by
  intro st r hf hr; cases hr
theorem resetEngine (target : Nat) : Statement (.resetEngine target) := by
  intro st r hf hr; cases hr
theorem resetPartition (p : Nat) : Statement (.resetPartition p) := by
  intro st r hf hr; cases hr
theorem rungTimeout (k : Nat) : Statement (.rungTimeout k) := by
  intro st r hf hr; cases hr
theorem fenceCluster (die : Nat) (cluster : Nat) : Statement (.fenceCluster die cluster) := by
  intro st r hf hr; cases hr
theorem fenceStack (die : Nat) (stack : Nat) : Statement (.fenceStack die stack) := by
  intro st r hf hr; cases hr
theorem jalcenSwitchPoint (die : Nat) : Statement (.jalcenSwitchPoint die) := by
  intro st r hf hr; cases hr
theorem recalSlice (die : Nat) (passes : Bool) : Statement (.recalSlice die passes) := by
  intro st r hf hr; cases hr
theorem telemetryRefresh (die : Nat) (temp : Nat) (power : Nat) : Statement (.telemetryRefresh die temp power) := by
  intro st r hf hr; cases hr
theorem peerPacketReceive (port : Nat) (headers : List Byte) (body : List Byte) : Statement (.peerPacketReceive port headers body) := by
  intro st r hf hr; cases hr
theorem hello (peer : Nat) : Statement (.hello peer) := by
  intro st r hf hr; cases hr
theorem ack (peer : Nat) : Statement (.ack peer) := by
  intro st r hf hr; cases hr
theorem contrib (peer : Nat) : Statement (.contrib peer) := by
  intro st r hf hr; cases hr
theorem segreq (peer : Nat) : Statement (.segreq peer) := by
  intro st r hf hr; cases hr
theorem segdata (peer : Nat) : Statement (.segdata peer) := by
  intro st r hf hr; cases hr
theorem segnone (peer : Nat) : Statement (.segnone peer) := by
  intro st r hf hr; cases hr
theorem qentry (peer : Nat) : Statement (.qentry peer) := by
  intro st r hf hr; cases hr
theorem mkey (peer : Nat) : Statement (.mkey peer) := by
  intro st r hf hr; cases hr
theorem mcb (peer : Nat) : Statement (.mcb peer) := by
  intro st r hf hr; cases hr
theorem mframe (peer : Nat) : Statement (.mframe peer) := by
  intro st r hf hr; cases hr
theorem mstream (peer : Nat) : Statement (.mstream peer) := by
  intro st r hf hr; cases hr
theorem mdone (peer : Nat) : Statement (.mdone peer) := by
  intro st r hf hr; cases hr
theorem mabort (peer : Nat) : Statement (.mabort peer) := by
  intro st r hf hr; cases hr
theorem fwd (peer : Nat) : Statement (.fwd peer) := by
  intro st r hf hr; cases hr
theorem ackTimer (peer : Nat) : Statement (.ackTimer peer) := by
  intro st r hf hr; cases hr
theorem retransmitTimeout (peer : Nat) (chan : Nat) : Statement (.retransmitTimeout peer chan) := by
  intro st r hf hr; cases hr
theorem helloTimer (peer : Nat) : Statement (.helloTimer peer) := by
  intro st r hf hr; cases hr
theorem peerLoss (peer : Nat) : Statement (.peerLoss peer) := by
  intro st r hf hr; cases hr
theorem peerRetryTimer (peer : Nat) : Statement (.peerRetryTimer peer) := by
  intro st r hf hr; cases hr
theorem ucieGroupTagFail (link : Nat) : Statement (.ucieGroupTagFail link) := by
  intro st r hf hr; cases hr
theorem ucieEpochRollover (link : Nat) : Statement (.ucieEpochRollover link) := by
  intro st r hf hr; cases hr
theorem ethernetPortDown (port : Nat) : Statement (.ethernetPortDown port) := by
  intro st r hf hr; cases hr
theorem ethernetPortUp (port : Nat) : Statement (.ethernetPortUp port) := by
  intro st r hf hr; cases hr
theorem fatalError (die : Nat) (cluster : Nat) : Statement (.fatalError die cluster) := by
  intro st r hf hr; cases hr
theorem hostLinkDown : Statement (.hostLinkDown) := by
  intro st r hf hr; cases hr
theorem hostLinkUp : Statement (.hostLinkUp) := by
  intro st r hf hr; cases hr
theorem powerLoss : Statement (.powerLoss) := by
  intro st r hf hr; cases hr
theorem cbwrite : Statement (.cbwrite) := by
  intro st r hf hr; cases hr
theorem cbstate : Statement (.cbstate) := by
  intro st r hf hr; cases hr
theorem copy : Statement (.copy) := by
  intro st r hf hr; cases hr
theorem srcfg : Statement (.srcfg) := by
  intro st r hf hr; cases hr
theorem segreg : Statement (.segreg) := by
  intro st r hf hr; cases hr
theorem segrel : Statement (.segrel) := by
  intro st r hf hr; cases hr
theorem segchk : Statement (.segchk) := by
  intro st r hf hr; cases hr
theorem port : Statement (.port) := by
  intro st r hf hr; cases hr
theorem resetDevice : Statement (.resetDevice) := by
  intro st r hf hr; cases hr
theorem idreadIdentityKey : Statement (.idreadIdentityKey) := by
  intro st r hf hr; cases hr
theorem idreadKemKey : Statement (.idreadKemKey) := by
  intro st r hf hr; cases hr
theorem idreadCertChain : Statement (.idreadCertChain) := by
  intro st r hf hr; cases hr
theorem ringsCompletion : Statement (.ringsCompletion) := by
  intro st r hf hr; cases hr
theorem ringsError : Statement (.ringsError) := by
  intro st r hf hr; cases hr
theorem peercfgLocal : Statement (.peercfgLocal) := by
  intro st r hf hr; cases hr
theorem peercfgEntry : Statement (.peercfgEntry) := by
  intro st r hf hr; cases hr
theorem fwstage : Statement (.fwstage) := by
  intro st r hf hr; cases hr
theorem fwswitchJalcen : Statement (.fwswitchJalcen) := by
  intro st r hf hr; cases hr
theorem fwswitchLadle : Statement (.fwswitchLadle) := by
  intro st r hf hr; cases hr
theorem fwswitchLid : Statement (.fwswitchLid) := by
  intro st r hf hr; cases hr
theorem recal : Statement (.recal) := by
  intro st r hf hr; cases hr
theorem migrate : Statement (.migrate) := by
  intro st r hf hr; cases hr
theorem fwdend : Statement (.fwdend) := by
  intro st r hf hr; cases hr

end Laws.Codec

end Sys2Proof
end

