-- ==== Sys2Proof/Laws/Codec.lean ====
section
/-! SUPPORT. Packing the fields of an instruction into its words loses none of them. -/

namespace Sys2Proof

theorem Len.ofCode_code (l : Len) : Len.ofCode l.code = some l := by cases l <;> rfl

/-- Word 0 gives its fields back. -/
theorem word0_fields (k op d a b fn : Nat) (hk : k < 4) (ho : op < 256) (hd : d < 64) (ha : a < 64) (hb : b < 64) (hf : fn < 16) :
    let w := k * 2 ^ 30 + op * 2 ^ 22 + d * 2 ^ 16 + a * 2 ^ 10 + b * 2 ^ 4 + fn
    bitsOf w 30 2 = k ∧ bitsOf w 22 8 = op ∧ bitsOf w 16 6 = d ∧ bitsOf w 10 6 = a ∧ bitsOf w 4 6 = b ∧ bitsOf w 0 4 = fn := by
  simp only [bitsOf]
  refine ⟨?_, ?_, ?_, ?_, ?_, ?_⟩ <;> omega

/-- Word 1 gives its fields back. -/
theorem word1_fields (g s w p m c e : Nat) (hg : g < 64) (hs : s < 2) (hw : w < 4) (hp : p < 4) (hm : m < 32) (hc : c < 64) (he : e < 1024) :
    let x := g * 2 ^ 26 + s * 2 ^ 25 + w * 2 ^ 23 + p * 2 ^ 21 + m * 2 ^ 16 + c * 2 ^ 10 + e
    bitsOf x 26 6 = g ∧ bitsOf x 25 1 = s ∧ bitsOf x 23 2 = w ∧ bitsOf x 21 2 = p ∧ bitsOf x 16 5 = m ∧ bitsOf x 10 6 = c ∧ bitsOf x 0 10 = e := by
  simp only [bitsOf]
  refine ⟨?_, ?_, ?_, ?_, ?_, ?_, ?_⟩ <;> omega

/-- The default word 1 waits for nothing, posts nothing, and has no guard. -/
theorem defaultWord1_fields (st : Stream) :
    let x := st.defaultWord1
    bitsOf x 26 6 = 0 ∧ bitsOf x 25 1 = 0 ∧ bitsOf x 23 2 = st.code ∧ bitsOf x 21 2 = st.code ∧ bitsOf x 16 5 = 0 ∧ bitsOf x 10 6 = 0 ∧
    bitsOf x 0 10 = 0 := by
  cases st <;> decide

/-- A bit as a field of one bit. -/
theorem bitOf_field (n i : Nat) : bitOf n i = decide (bitsOf n i 1 = 1) := rfl

/-- A 32-bit instruction is read from one word. -/
theorem fetchRaw_one (st : Stream) (w0 : Nat) (rest : List Nat) (h : Len.ofCode (bitsOf w0 30 2) = some .w1) :
    fetchRaw st (w0 :: rest) = .ok (unpack .w1 w0 st.defaultWord1 0) := by
  simp [fetchRaw, h, Len.words]

/-- A 64-bit instruction is read from two words. -/
theorem fetchRaw_two (st : Stream) (w0 w1 : Nat) (rest : List Nat) (h : Len.ofCode (bitsOf w0 30 2) = some .w2) :
    fetchRaw st (w0 :: w1 :: rest) = .ok (unpack .w2 w0 w1 0) := by
  simp [fetchRaw, h, Len.words]

/-- A 96-bit instruction is read from three words. -/
theorem fetchRaw_three (st : Stream) (w0 w1 w2 : Nat) (rest : List Nat) (h : Len.ofCode (bitsOf w0 30 2) = some .w3) :
    fetchRaw st (w0 :: w1 :: w2 :: rest) = .ok (unpack .w3 w0 w1 w2) := by
  simp [fetchRaw, h, Len.words]

/-- Words whose fields are known unpack to those fields. -/
theorem unpack_fields {len : Len} {w0 w1 lit op d a b fn g s w p m c e : Nat} (h0 : bitsOf w0 22 8 = op ∧ bitsOf w0 16 6 = d ∧ bitsOf w0 10 6 = a ∧
      bitsOf w0 4 6 = b ∧ bitsOf w0 0 4 = fn)
    (h1 : bitsOf w1 26 6 = g ∧ bitsOf w1 25 1 = s ∧ bitsOf w1 23 2 = w ∧ bitsOf w1 21 2 = p ∧ bitsOf w1 16 5 = m ∧ bitsOf w1 10 6 = c ∧ bitsOf w1 0 10 = e) :
    unpack len w0 w1 lit = { len := len, op := op, d := d, a := a, b := b, fn := fn, guard := g, sense := decide (s = 1), wait := w, post := p, mod := m,
                             c := c, ext := e, lit := lit } := by
  obtain ⟨rfl, rfl, rfl, rfl, rfl⟩ := h0
  obtain ⟨rfl, rfl, rfl, rfl, rfl, rfl, rfl⟩ := h1
  rfl

/-- The words that hold some fields read as those fields, whatever words follow. -/
theorem fetchRaw_pack {c : DecodeCtx} {r : Raw} (h : r.fits c = true) (rest : List Nat) : fetchRaw c.stream (pack r ++ rest) = .ok r := by
  obtain ⟨len, op, d, a, b, fn, g, s, w, p, m, cc, e, lit⟩ := r
  simp only [Raw.fits, Bool.and_eq_true, Bool.or_eq_true, decide_eq_true_eq, Bool.not_eq_true'] at h
  obtain ⟨⟨⟨⟨⟨⟨⟨⟨⟨⟨⟨⟨⟨ho, hd⟩, ha⟩, hb⟩, hf⟩, hg⟩, hw⟩, hp⟩, hm⟩, hc⟩, he⟩, hl⟩, h1⟩, h3⟩ := h
  have hs : bit01 s < 2 := by cases s <;> decide
  have hk : len.code < 4 := by cases len <;> decide
  have hbs : decide (bit01 s = 1) = s := by cases s <;> rfl
  obtain ⟨z1, z⟩ := word0_fields len.code op d a b fn hk ho hd ha hb hf
  have y := word1_fields g (bit01 s) w p m cc e hg hs hw hp hm hc he
  have hc0 := (congrArg Len.ofCode z1).trans (Len.ofCode_code len)
  cases len with
  | w1 =>
    obtain ⟨⟨⟨⟨⟨⟨rfl, rfl⟩, rfl⟩, rfl⟩, rfl⟩, rfl⟩, rfl⟩ := h1.resolve_left (by simp)
    obtain rfl : lit = 0 := h3.resolve_left (by simp)
    exact (fetchRaw_one _ _ _ hc0).trans (congrArg Except.ok (unpack_fields z (defaultWord1_fields c.stream)))
  | w2 =>
    obtain rfl : lit = 0 := h3.resolve_left (by simp)
    refine (fetchRaw_two _ _ _ _ hc0).trans (congrArg Except.ok ((unpack_fields z y).trans ?_))
    rw [hbs]
  | w3 =>
    refine (fetchRaw_three _ _ _ _ _ hc0).trans (congrArg Except.ok ((unpack_fields z y).trans ?_))
    rw [hbs]

end Sys2Proof
end

