-- ==== Sys2Proof/Laws/Memory.lean ====
section
/-! SUPPORT. Laws of memory: what a byte reads after a write or a clear, inside and outside the bytes written, and that every memory
operation keeps the canonical form. -/

namespace Sys2Proof.Machine

theorem Memory.byte_append_right (l r : List Host.Cell) (j : Nat) (h : ∀ c ∈ l, c.1 ≠ j) : Memory.byte (l ++ r) j = Memory.byte r j := by
  induction l with
  | nil => rfl
  | cons e t ih =>
    obtain ⟨k, b⟩ := e
    have hk : k ≠ j := h (k, b) (List.mem_cons_self ..)
    simp only [List.cons_append, Memory.byte, hk, if_false]
    exact ih (fun c hc => h c (List.mem_cons_of_mem _ hc))

theorem Memory.byte_unlisted (l : List Host.Cell) (j : Nat) (h : ∀ c ∈ l, c.1 ≠ j) : Memory.byte l j = 0 := by
  have e := Memory.byte_append_right l [] j h
  rw [List.append_nil] at e
  exact e

theorem Memory.byte_append_left (l r : List Host.Cell) (j : Nat) (h : ∀ c ∈ r, c.1 ≠ j) : Memory.byte (l ++ r) j = Memory.byte l j := by
  induction l with
  | nil => simpa [Memory.byte] using Memory.byte_unlisted r j h
  | cons e t ih =>
    obtain ⟨k, b⟩ := e
    simp only [List.cons_append, Memory.byte, ih]

theorem Memory.byte_filter (p : Nat → Bool) (l : List Host.Cell) (j : Nat) (h : p j = true) :
    Memory.byte (l.filter (fun c => p c.1)) j = Memory.byte l j := by
  induction l with
  | nil => rfl
  | cons e t ih =>
    obtain ⟨k, b⟩ := e
    by_cases hk : k = j
    · subst hk; simp [h, Memory.byte]
    · by_cases hp : p k = true
      · simp [hp, Memory.byte, hk, ih]
      · simp [hp, Memory.byte, hk, ih]

theorem Memory.cellsAt_addr (a : Nat) (bs : List Byte) : ∀ c ∈ Memory.cellsAt a bs, a ≤ c.1 ∧ c.1 < a + bs.length := by
  induction bs generalizing a with
  | nil => simp [Memory.cellsAt]
  | cons b t ih =>
    intro c hc
    simp only [Memory.cellsAt] at hc
    split_ifs at hc with hb
    · have := ih (a + 1) c hc; simp; omega
    · rcases List.mem_cons.mp hc with rfl | hc
      · simp
      · have := ih (a + 1) c hc; simp; omega

theorem Memory.byte_cellsAt (a : Nat) (bs : List Byte) (i : Nat) (h : i < bs.length) :
    Memory.byte (Memory.cellsAt a bs) (a + i) = bs[i] := by
  induction bs generalizing a i with
  | nil => simp at h
  | cons b t ih =>
    simp only [Memory.cellsAt]
    cases i with
    | zero =>
      split_ifs with hb
      · simp only [Nat.add_zero, List.getElem_cons_zero, hb]
        refine Memory.byte_unlisted _ _ (fun c hc => ?_)
        have := Memory.cellsAt_addr _ _ c hc; omega
      · simp [Memory.byte]
    | succ i =>
      have e : a + (i + 1) = a + 1 + i := by omega
      have hi : i < t.length := by simpa using h
      split_ifs with hb
      · rw [e, ih (a + 1) i hi]; rfl
      · have : a ≠ a + (i + 1) := by omega
        simp only [Memory.byte, this, if_false]
        rw [e, ih (a + 1) i hi]; rfl

/-- A byte inside the bytes written reads what was written. -/
theorem Memory.byte_write_in (m : List Host.Cell) (a : Nat) (bs : List Byte) (i : Nat) (h : i < bs.length) :
    Memory.byte (Memory.write m a bs) (a + i) = bs[i] := by
  unfold Memory.write
  rw [Memory.byte_append_left, Memory.byte_append_right, Memory.byte_cellsAt a bs i h]
  · intro c hc; have := (List.mem_filter.mp hc).2; simp at this; omega
  · intro c hc; have := (List.mem_filter.mp hc).2; simp at this; omega

/-- A byte outside the bytes written reads as before. -/
theorem Memory.byte_write_out (m : List Host.Cell) (a : Nat) (bs : List Byte) (j : Nat) (h : j < a ∨ a + bs.length ≤ j) :
    Memory.byte (Memory.write m a bs) j = Memory.byte m j := by
  unfold Memory.write
  have hc : ∀ c ∈ Memory.cellsAt a bs, c.1 ≠ j := fun c hc => by have := Memory.cellsAt_addr a bs c hc; omega
  rcases h with h | h
  · rw [Memory.byte_append_left, Memory.byte_append_left _ _ _ hc]
    · exact Memory.byte_filter (fun k => decide (k < a)) m j (by simpa using h)
    · intro c hc; have := (List.mem_filter.mp hc).2; simp at this; omega
  · rw [Memory.byte_append_right]
    · exact Memory.byte_filter (fun k => decide (a + bs.length ≤ k)) m j (by simpa using h)
    · intro c hm
      rcases List.mem_append.mp hm with hm | hm
      · have := (List.mem_filter.mp hm).2; simp at this; omega
      · exact hc c hm

@[simp] theorem Memory.write_nil (m : List Host.Cell) (a j : Nat) : Memory.byte (Memory.write m a []) j = Memory.byte m j :=
  Memory.byte_write_out m a [] j (by simp; omega)

/-- A cleared byte reads 0, and every other byte as before. -/
theorem Memory.byte_clear (m : List Host.Cell) (a n j : Nat) :
    Memory.byte (Memory.clear m a n) j = if a ≤ j ∧ j < a + n then 0 else Memory.byte m j := by
  unfold Memory.clear
  split_ifs with h
  · refine Memory.byte_unlisted _ _ (fun c hc => ?_)
    have := (List.mem_filter.mp hc).2; simp at this; omega
  · exact Memory.byte_filter (fun k => decide (k < a) || decide (a + n ≤ k)) m j (by simp; omega)

theorem Memory.length_read (m : List Host.Cell) (a n : Nat) : (Memory.read m a n).length = n := by
  induction n generalizing a with
  | zero => rfl
  | succ k ih => simp [Memory.read, ih]

theorem Memory.getElem_read (m : List Host.Cell) (a n i : Nat) (h : i < (Memory.read m a n).length) :
    (Memory.read m a n)[i] = Memory.byte m (a + i) := by
  induction n generalizing a i with
  | zero => simp [Memory.read] at h
  | succ k ih =>
    cases i with
    | zero => simp [Memory.read]
    | succ i =>
      simp only [Memory.read, List.getElem_cons_succ]
      rw [ih]; congr 1; omega

/-- Reading back the bytes just written gives them. -/
theorem Memory.read_write_same (m : List Host.Cell) (a : Nat) (bs : List Byte) : Memory.read (Memory.write m a bs) a bs.length = bs := by
  apply List.ext_getElem
  · simp [Memory.length_read]
  · intro i h1 h2
    rw [Memory.getElem_read, Memory.byte_write_in _ _ _ _ h2]

/-! ### The canonical form -/

theorem Memory.wfFrom_mono {lo lo' : Nat} (h : lo ≤ lo') (m : List Host.Cell) (hm : Memory.wfFrom lo' m = true) : Memory.wfFrom lo m = true := by
  cases m with
  | nil => rfl
  | cons e t =>
    simp only [Memory.wfFrom, Bool.and_eq_true, decide_eq_true_eq] at hm ⊢
    exact ⟨⟨by omega, hm.1.2⟩, hm.2⟩

theorem Memory.wfFrom_filter (p : Host.Cell → Bool) (m : List Host.Cell) {lo : Nat} (hm : Memory.wfFrom lo m = true) :
    Memory.wfFrom lo (m.filter p) = true := by
  induction m generalizing lo with
  | nil => rfl
  | cons e t ih =>
    simp only [Memory.wfFrom, Bool.and_eq_true, decide_eq_true_eq] at hm
    simp only [List.filter_cons]
    split_ifs
    · simp only [Memory.wfFrom, Bool.and_eq_true, decide_eq_true_eq]; exact ⟨hm.1, ih hm.2⟩
    · exact Memory.wfFrom_mono (by omega) _ (ih hm.2)

theorem Memory.wfFrom_restart (m : List Host.Cell) {lo lo' : Nat} (hm : Memory.wfFrom lo m = true) (h : ∀ c ∈ m, lo' ≤ c.1) :
    Memory.wfFrom lo' m = true := by
  cases m with
  | nil => rfl
  | cons e t =>
    simp only [Memory.wfFrom, Bool.and_eq_true, decide_eq_true_eq] at hm ⊢
    exact ⟨⟨h e (List.mem_cons_self ..), hm.1.2⟩, hm.2⟩

theorem Memory.wfFrom_append (l r : List Host.Cell) {lo mid : Nat} (hlo : lo ≤ mid) (hl : Memory.wfFrom lo l = true)
    (hm : ∀ c ∈ l, c.1 < mid) (hr : Memory.wfFrom mid r = true) : Memory.wfFrom lo (l ++ r) = true := by
  induction l generalizing lo with
  | nil => exact Memory.wfFrom_mono hlo r hr
  | cons e t ih =>
    simp only [Memory.wfFrom, Bool.and_eq_true, decide_eq_true_eq] at hl
    simp only [List.cons_append, Memory.wfFrom, Bool.and_eq_true, decide_eq_true_eq]
    exact ⟨hl.1, ih (hm e (List.mem_cons_self ..)) hl.2 (fun c hc => hm c (List.mem_cons_of_mem _ hc))⟩

theorem Memory.wfFrom_cellsAt (a : Nat) (bs : List Byte) : Memory.wfFrom a (Memory.cellsAt a bs) = true := by
  induction bs generalizing a with
  | nil => rfl
  | cons b t ih =>
    simp only [Memory.cellsAt]
    split_ifs with hb
    · exact Memory.wfFrom_mono (by omega) _ (ih (a + 1))
    · simp only [Memory.wfFrom, ih (a + 1), Bool.and_true, Bool.and_eq_true, decide_eq_true_eq]; exact ⟨le_refl a, hb⟩

/-- A write keeps the canonical form. -/
theorem Memory.wf_write (m : List Host.Cell) (a : Nat) (bs : List Byte) (hm : Memory.wf m = true) : Memory.wf (Memory.write m a bs) = true := by
  unfold Memory.wf Memory.write at *
  rw [List.append_assoc]
  refine Memory.wfFrom_append _ _ (Nat.zero_le a) (Memory.wfFrom_filter _ m hm) (fun c hc => by simpa using (List.mem_filter.mp hc).2) ?_
  refine Memory.wfFrom_append _ _ (mid := a + bs.length) (by omega) (Memory.wfFrom_cellsAt a bs) (fun c hc => (Memory.cellsAt_addr a bs c hc).2) ?_
  exact Memory.wfFrom_restart _ (Memory.wfFrom_filter _ m hm) (fun c hc => by simpa using (List.mem_filter.mp hc).2)

/-- A clear keeps the canonical form. -/
theorem Memory.wf_clear (m : List Host.Cell) (a n : Nat) (hm : Memory.wf m = true) : Memory.wf (Memory.clear m a n) = true :=
  Memory.wfFrom_filter _ m hm

/-- A store keeps the canonical form of memory. -/
theorem State.wf_store (s : State) (a : Nat) (bs : List Byte) (hs : Memory.wf s.mem = true) : Memory.wf (s.store a bs).mem = true := by
  unfold State.store State.refuse
  split_ifs
  · exact Memory.wf_write _ _ _ hs
  · exact hs

/-- A wipe keeps the canonical form of memory. -/
theorem State.wf_wipe (s : State) (a n : Nat) (hs : Memory.wf s.mem = true) : Memory.wf (s.wipe a n).mem = true :=
  Memory.wf_clear _ _ _ hs

@[simp] theorem State.refuse_mem (s : State) (n : Nat) : (s.refuse n).mem = s.mem := rfl

/-- Counting refused accesses leaves memory as it was. -/
@[simp] theorem State.countEach_mem (s : State) (ks : List Nat) : (s.countEach ks).mem = s.mem := by
  unfold State.countEach
  split <;> rfl

/-- Stores of single bytes keep the canonical form of memory. -/
theorem State.wf_putEach (bs : List (Nat × Byte)) (s : State) (hs : Memory.wf s.mem = true) : Memory.wf (s.putEach bs).mem = true := by
  induction bs generalizing s with
  | nil => exact hs
  | cons e t ih =>
    unfold State.putEach
    split_ifs
    · exact ih _ (State.wf_store s _ _ hs)
    · exact ih _ hs

theorem State.wf_storeEach (bs : List (Nat × Byte)) (s : State) (hs : Memory.wf s.mem = true) :
    Memory.wf (s.storeEach bs).mem = true := by
  simpa only [State.storeEach, State.countEach_mem] using State.wf_putEach bs s hs

/-- The memory of the machine after reset is canonical. -/
theorem State.wf_reset : Memory.wf State.reset.mem = true := rfl

/-- A store under a key writes its bytes. -/
theorem State.byte_store_in (s : State) (a : Nat) (bs : List Byte) (i : Nat) (h : i < bs.length) (hk : s.keyed a = true) :
    Memory.byte (s.store a bs).mem (a + i) = bs[i] := by
  simp [State.store, hk, Memory.byte_write_in _ _ _ _ h]

/-- A store leaves every byte outside its own as it was. -/
theorem State.byte_store_out (s : State) (a : Nat) (bs : List Byte) (j : Nat) (h : j < a ∨ a + bs.length ≤ j) :
    Memory.byte (s.store a bs).mem j = Memory.byte s.mem j := by
  unfold State.store State.refuse
  split_ifs
  · exact Memory.byte_write_out _ _ _ _ h
  · rfl

end Sys2Proof.Machine
end

