-- ==== Sys2Proof/Laws/Maps.lean ====
section
/-! SUPPORT. Laws of maps from numbers: reading after setting and removing, for every list, and the canonical form. -/

namespace Sys2Proof

variable {α : Type}

@[simp] theorem Map.find_nil (k : Nat) : Map.find ([] : Map α) k = none := rfl

@[simp] theorem Map.find_cons (j k : Nat) (v : α) (t : Map α) : Map.find ((j, v) :: t) k = if j = k then some v else Map.find t k := rfl

@[simp] theorem Map.find_set_same (m : Map α) (k : Nat) (v : α) : Map.find (Map.set m k v) k = some v := by
  induction m with
  | nil => simp [Map.set]
  | cons e t ih =>
    obtain ⟨j, w⟩ := e
    simp only [Map.set]
    split_ifs with h1 h2
    · simp
    · simp
    · simp [ih, Ne.symm h2]

theorem Map.find_set_other (m : Map α) {k j : Nat} (v : α) (h : j ≠ k) : Map.find (Map.set m k v) j = Map.find m j := by
  induction m with
  | nil => simp [Map.set, Ne.symm h]
  | cons e t ih =>
    obtain ⟨i, w⟩ := e
    simp only [Map.set]
    split_ifs with h1 h2
    · simp [Ne.symm h]
    · subst h2; simp [Ne.symm h]
    · simp [ih]

theorem Map.find_set (m : Map α) (k j : Nat) (v : α) : Map.find (Map.set m k v) j = if j = k then some v else Map.find m j := by
  split_ifs with h
  · subst h; simp
  · exact Map.find_set_other m v h

theorem Map.find_drop (m : Map α) (k j : Nat) : Map.find (Map.drop m k) j = if j = k then none else Map.find m j := by
  induction m with
  | nil => simp [Map.drop]
  | cons e t ih =>
    obtain ⟨i, w⟩ := e
    simp only [Map.drop, List.filter_cons] at ih ⊢
    by_cases hi : i = k
    · subst hi
      by_cases hj : j = i
      · simp [hj] at ih ⊢; exact ih
      · simp [hj, Ne.symm hj] at ih ⊢; exact ih
    · by_cases hj : i = j
      · subst hj; simp [hi]
      · simp [hi, hj] at ih ⊢; exact ih

/-- Reading a key of a map with a default after setting one. -/
theorem Map.get_put [DecidableEq α] (d : α) (m : Map α) (k j : Nat) (v : α) :
    Map.get d (Map.put d m k v) j = if j = k then v else Map.get d m j := by
  unfold Map.put Map.get
  split_ifs with hv hj hj
  · simp [Map.find_drop, hj, hv]
  · simp [Map.find_drop, hj]
  · simp [hj]
  · simp [Map.find_set, hj]

@[simp] theorem Map.get_put_same [DecidableEq α] (d : α) (m : Map α) (k : Nat) (v : α) : Map.get d (Map.put d m k v) k = v := by
  simp [Map.get_put]

theorem Map.get_put_other [DecidableEq α] (d : α) (m : Map α) {k j : Nat} (v : α) (h : j ≠ k) :
    Map.get d (Map.put d m k v) j = Map.get d m j := by simp [Map.get_put, h]

theorem Map.find_alter (m : Map α) (k j : Nat) (f : α → α) :
    Map.find (Map.alter m k f) j = if j = k then (Map.find m k).map f else Map.find m j := by
  unfold Map.alter
  cases h : Map.find m k with
  | none =>
    split_ifs with hj
    · subst hj; simpa using h
    · rfl
  | some v => simp [Map.find_set]

theorem Map.sortedFrom_mono {lo lo' : Nat} (h : lo ≤ lo') (m : Map α) (hm : Map.sortedFrom lo' m = true) : Map.sortedFrom lo m = true := by
  cases m with
  | nil => rfl
  | cons e t =>
    simp only [Map.sortedFrom, Bool.and_eq_true, decide_eq_true_eq] at hm ⊢
    exact ⟨by omega, hm.2⟩

theorem Map.sortedFrom_set (m : Map α) (k : Nat) (v : α) {lo : Nat} (hk : lo ≤ k) (hm : Map.sortedFrom lo m = true) :
    Map.sortedFrom lo (Map.set m k v) = true := by
  induction m generalizing lo with
  | nil => simp [Map.set, Map.sortedFrom, hk]
  | cons e t ih =>
    obtain ⟨j, w⟩ := e
    simp only [Map.sortedFrom, Bool.and_eq_true, decide_eq_true_eq] at hm
    simp only [Map.set]
    split_ifs with h1 h2
    · simp only [Map.sortedFrom, Bool.and_eq_true, decide_eq_true_eq]; exact ⟨hk, by omega, hm.2⟩
    · subst h2; simp only [Map.sortedFrom, Bool.and_eq_true, decide_eq_true_eq]; exact ⟨hk, hm.2⟩
    · simp only [Map.sortedFrom, Bool.and_eq_true, decide_eq_true_eq]; exact ⟨hm.1, ih (by omega) hm.2⟩

theorem Map.sortedFrom_drop (m : Map α) (k : Nat) {lo : Nat} (hm : Map.sortedFrom lo m = true) : Map.sortedFrom lo (Map.drop m k) = true := by
  induction m generalizing lo with
  | nil => rfl
  | cons e t ih =>
    simp only [Map.sortedFrom, Bool.and_eq_true, decide_eq_true_eq] at hm
    simp only [Map.drop, List.filter_cons] at ih ⊢
    split_ifs
    · simp only [Map.sortedFrom, Bool.and_eq_true, decide_eq_true_eq]; exact ⟨hm.1, ih hm.2⟩
    · exact Map.sortedFrom_mono (by omega) _ (ih hm.2)

theorem Map.mem_set (m : Map α) (k : Nat) (v : α) {e : Nat × α} (he : e ∈ Map.set m k v) : e = (k, v) ∨ e ∈ m := by
  induction m with
  | nil => simpa [Map.set] using he
  | cons x t ih =>
    obtain ⟨j, w⟩ := x
    simp only [Map.set] at he
    split_ifs at he with h1 h2
    · simpa using he
    · rcases List.mem_cons.mp he with h | h
      · exact .inl h
      · exact .inr (List.mem_cons_of_mem _ h)
    · rcases List.mem_cons.mp he with h | h
      · exact .inr (h ▸ List.mem_cons_self ..)
      · exact (ih h).imp_right (List.mem_cons_of_mem _)

/-- Setting a key keeps the canonical form of a map with a default. -/
theorem Map.canon_put [DecidableEq α] (d : α) (m : Map α) (k : Nat) (v : α) (hm : Map.canon d m = true) :
    Map.canon d (Map.put d m k v) = true := by
  simp only [Map.canon, Bool.and_eq_true, List.all_eq_true, decide_eq_true_eq] at hm ⊢
  unfold Map.put
  split_ifs with hv
  · exact ⟨Map.sortedFrom_drop m k hm.1, fun e he => hm.2 e (List.mem_of_mem_filter he)⟩
  · refine ⟨Map.sortedFrom_set m k v (Nat.zero_le _) hm.1, fun e he => ?_⟩
    rcases Map.mem_set m k v he with h | h
    · subst h; exact hv
    · exact hm.2 e h

end Sys2Proof
end

