-- ==== Sys2Proof/Laws/State.lean ====
section
/-! SUPPORT. Laws of the state record: one lemma per field per update of a part. The first groups say what an update leaves as it was;
the last say how each part reads after its own update. -/

namespace Sys2Proof.Machine


/-! ### Updates of the whole state -/

@[simp] theorem State.withCell_agenda (s : State) (c : Nat) (f : CellSt → CellSt) : (s.withCell c f).agenda = s.agenda := rfl
@[simp] theorem State.withCell_cur (s : State) (c : Nat) (f : CellSt → CellSt) : (s.withCell c f).cur = s.cur := rfl
@[simp] theorem State.withCell_cyc (s : State) (c : Nat) (f : CellSt → CellSt) : (s.withCell c f).cyc = s.cyc := rfl
@[simp] theorem State.withCell_mem (s : State) (c : Nat) (f : CellSt → CellSt) : (s.withCell c f).mem = s.mem := rfl
@[simp] theorem State.withCell_upsets (s : State) (c : Nat) (f : CellSt → CellSt) : (s.withCell c f).upsets = s.upsets := rfl
@[simp] theorem State.withCell_granules (s : State) (c : Nat) (f : CellSt → CellSt) : (s.withCell c f).granules = s.granules := rfl
@[simp] theorem State.withCell_claims (s : State) (c : Nat) (f : CellSt → CellSt) : (s.withCell c f).claims = s.claims := rfl
@[simp] theorem State.withCell_buffers (s : State) (c : Nat) (f : CellSt → CellSt) : (s.withCell c f).buffers = s.buffers := rfl
@[simp] theorem State.withCell_launches (s : State) (c : Nat) (f : CellSt → CellSt) : (s.withCell c f).launches = s.launches := rfl
@[simp] theorem State.withCell_jobs (s : State) (c : Nat) (f : CellSt → CellSt) : (s.withCell c f).jobs = s.jobs := rfl
@[simp] theorem State.withCell_reasons (s : State) (c : Nat) (f : CellSt → CellSt) : (s.withCell c f).reasons = s.reasons := rfl
@[simp] theorem State.withCell_finished (s : State) (c : Nat) (f : CellSt → CellSt) : (s.withCell c f).finished = s.finished := rfl
@[simp] theorem State.withCell_mcs (s : State) (c : Nat) (f : CellSt → CellSt) : (s.withCell c f).mcs = s.mcs := rfl
@[simp] theorem State.withCell_fresh (s : State) (c : Nat) (f : CellSt → CellSt) : (s.withCell c f).fresh = s.fresh := rfl
@[simp] theorem State.withCell_streams (s : State) (c : Nat) (f : CellSt → CellSt) : (s.withCell c f).streams = s.streams := rfl
@[simp] theorem State.withCell_prefixes (s : State) (c : Nat) (f : CellSt → CellSt) : (s.withCell c f).prefixes = s.prefixes := rfl
@[simp] theorem State.withCell_queues (s : State) (c : Nat) (f : CellSt → CellSt) : (s.withCell c f).queues = s.queues := rfl
@[simp] theorem State.withCell_groups (s : State) (c : Nat) (f : CellSt → CellSt) : (s.withCell c f).groups = s.groups := rfl
@[simp] theorem State.withCell_commands (s : State) (c : Nat) (f : CellSt → CellSt) : (s.withCell c f).commands = s.commands := rfl
@[simp] theorem State.withCell_results (s : State) (c : Nat) (f : CellSt → CellSt) : (s.withCell c f).results = s.results := rfl
@[simp] theorem State.withCell_residency (s : State) (c : Nat) (f : CellSt → CellSt) : (s.withCell c f).residency = s.residency := rfl
@[simp] theorem State.withCell_segments (s : State) (c : Nat) (f : CellSt → CellSt) : (s.withCell c f).segments = s.segments := rfl
@[simp] theorem State.withCell_drives (s : State) (c : Nat) (f : CellSt → CellSt) : (s.withCell c f).drives = s.drives := rfl
@[simp] theorem State.withCell_partitions (s : State) (c : Nat) (f : CellSt → CellSt) : (s.withCell c f).partitions = s.partitions := rfl
@[simp] theorem State.withCell_keys (s : State) (c : Nat) (f : CellSt → CellSt) : (s.withCell c f).keys = s.keys := rfl
@[simp] theorem State.withCell_frameKeys (s : State) (c : Nat) (f : CellSt → CellSt) : (s.withCell c f).frameKeys = s.frameKeys := rfl
@[simp] theorem State.withCell_tables (s : State) (c : Nat) (f : CellSt → CellSt) : (s.withCell c f).tables = s.tables := rfl
@[simp] theorem State.withCell_sweeps (s : State) (c : Nat) (f : CellSt → CellSt) : (s.withCell c f).sweeps = s.sweeps := rfl
@[simp] theorem State.withCell_ide (s : State) (c : Nat) (f : CellSt → CellSt) : (s.withCell c f).ide = s.ide := rfl
@[simp] theorem State.withCell_mailboxes (s : State) (c : Nat) (f : CellSt → CellSt) : (s.withCell c f).mailboxes = s.mailboxes := rfl
@[simp] theorem State.withCell_vfs (s : State) (c : Nat) (f : CellSt → CellSt) : (s.withCell c f).vfs = s.vfs := rfl
@[simp] theorem State.withCell_ccmd (s : State) (c : Nat) (f : CellSt → CellSt) : (s.withCell c f).ccmd = s.ccmd := rfl
@[simp] theorem State.withCell_cres (s : State) (c : Nat) (f : CellSt → CellSt) : (s.withCell c f).cres = s.cres := rfl
@[simp] theorem State.withCell_cgo (s : State) (c : Nat) (f : CellSt → CellSt) : (s.withCell c f).cgo = s.cgo := rfl
@[simp] theorem State.withCell_ctlRuns (s : State) (c : Nat) (f : CellSt → CellSt) : (s.withCell c f).ctlRuns = s.ctlRuns := rfl
@[simp] theorem State.withCell_rings (s : State) (c : Nat) (f : CellSt → CellSt) : (s.withCell c f).rings = s.rings := rfl
@[simp] theorem State.withCell_hostUp (s : State) (c : Nat) (f : CellSt → CellSt) : (s.withCell c f).hostUp = s.hostUp := rfl
@[simp] theorem State.withCell_ports (s : State) (c : Nat) (f : CellSt → CellSt) : (s.withCell c f).ports = s.ports := rfl
@[simp] theorem State.withCell_portDown (s : State) (c : Nat) (f : CellSt → CellSt) : (s.withCell c f).portDown = s.portDown := rfl
@[simp] theorem State.withCell_replay (s : State) (c : Nat) (f : CellSt → CellSt) : (s.withCell c f).replay = s.replay := rfl
@[simp] theorem State.withCell_replayStream (s : State) (c : Nat) (f : CellSt → CellSt) : (s.withCell c f).replayStream = s.replayStream := rfl
@[simp] theorem State.withCell_peers (s : State) (c : Nat) (f : CellSt → CellSt) : (s.withCell c f).peers = s.peers := rfl
@[simp] theorem State.withCell_localIndex (s : State) (c : Nat) (f : CellSt → CellSt) : (s.withCell c f).localIndex = s.localIndex := rfl
@[simp] theorem State.withCell_migration (s : State) (c : Nat) (f : CellSt → CellSt) : (s.withCell c f).migration = s.migration := rfl
@[simp] theorem State.withCell_posted (s : State) (c : Nat) (f : CellSt → CellSt) : (s.withCell c f).posted = s.posted := rfl
@[simp] theorem State.withCell_incoming (s : State) (c : Nat) (f : CellSt → CellSt) : (s.withCell c f).incoming = s.incoming := rfl
@[simp] theorem State.withCell_forwards (s : State) (c : Nat) (f : CellSt → CellSt) : (s.withCell c f).forwards = s.forwards := rfl
@[simp] theorem State.withCell_migrated (s : State) (c : Nat) (f : CellSt → CellSt) : (s.withCell c f).migrated = s.migrated := rfl
@[simp] theorem State.withCell_firmware (s : State) (c : Nat) (f : CellSt → CellSt) : (s.withCell c f).firmware = s.firmware := rfl
@[simp] theorem State.withCell_dies (s : State) (c : Nat) (f : CellSt → CellSt) : (s.withCell c f).dies = s.dies := rfl
@[simp] theorem State.withCell_links (s : State) (c : Nat) (f : CellSt → CellSt) : (s.withCell c f).links = s.links := rfl
@[simp] theorem State.withCell_telemetry (s : State) (c : Nat) (f : CellSt → CellSt) : (s.withCell c f).telemetry = s.telemetry := rfl
@[simp] theorem State.withCell_jobsDone (s : State) (c : Nat) (f : CellSt → CellSt) : (s.withCell c f).jobsDone = s.jobsDone := rfl
@[simp] theorem State.withCell_rungs (s : State) (c : Nat) (f : CellSt → CellSt) : (s.withCell c f).rungs = s.rungs := rfl
@[simp] theorem State.withCell_phase (s : State) (c : Nat) (f : CellSt → CellSt) : (s.withCell c f).phase = s.phase := rfl
@[simp] theorem State.withCell_warm (s : State) (c : Nat) (f : CellSt → CellSt) : (s.withCell c f).warm = s.warm := rfl
@[simp] theorem State.withCell_starting (s : State) (c : Nat) (f : CellSt → CellSt) : (s.withCell c f).starting = s.starting := rfl
@[simp] theorem State.withCell_starts (s : State) (c : Nat) (f : CellSt → CellSt) : (s.withCell c f).starts = s.starts := rfl
@[simp] theorem State.withCell_refused (s : State) (c : Nat) (f : CellSt → CellSt) : (s.withCell c f).refused = s.refused := rfl
@[simp] theorem State.withCell_out (s : State) (c : Nat) (f : CellSt → CellSt) : (s.withCell c f).out = s.out := rfl
@[simp] theorem State.withSlot_agenda (s : State) (u : SlotId) (f : Slot → Slot) : (s.withSlot u f).agenda = s.agenda := rfl
@[simp] theorem State.withSlot_cur (s : State) (u : SlotId) (f : Slot → Slot) : (s.withSlot u f).cur = s.cur := rfl
@[simp] theorem State.withSlot_cyc (s : State) (u : SlotId) (f : Slot → Slot) : (s.withSlot u f).cyc = s.cyc := rfl
@[simp] theorem State.withSlot_mem (s : State) (u : SlotId) (f : Slot → Slot) : (s.withSlot u f).mem = s.mem := rfl
@[simp] theorem State.withSlot_upsets (s : State) (u : SlotId) (f : Slot → Slot) : (s.withSlot u f).upsets = s.upsets := rfl
@[simp] theorem State.withSlot_granules (s : State) (u : SlotId) (f : Slot → Slot) : (s.withSlot u f).granules = s.granules := rfl
@[simp] theorem State.withSlot_claims (s : State) (u : SlotId) (f : Slot → Slot) : (s.withSlot u f).claims = s.claims := rfl
@[simp] theorem State.withSlot_buffers (s : State) (u : SlotId) (f : Slot → Slot) : (s.withSlot u f).buffers = s.buffers := rfl
@[simp] theorem State.withSlot_launches (s : State) (u : SlotId) (f : Slot → Slot) : (s.withSlot u f).launches = s.launches := rfl
@[simp] theorem State.withSlot_jobs (s : State) (u : SlotId) (f : Slot → Slot) : (s.withSlot u f).jobs = s.jobs := rfl
@[simp] theorem State.withSlot_reasons (s : State) (u : SlotId) (f : Slot → Slot) : (s.withSlot u f).reasons = s.reasons := rfl
@[simp] theorem State.withSlot_finished (s : State) (u : SlotId) (f : Slot → Slot) : (s.withSlot u f).finished = s.finished := rfl
@[simp] theorem State.withSlot_mcs (s : State) (u : SlotId) (f : Slot → Slot) : (s.withSlot u f).mcs = s.mcs := rfl
@[simp] theorem State.withSlot_fresh (s : State) (u : SlotId) (f : Slot → Slot) : (s.withSlot u f).fresh = s.fresh := rfl
@[simp] theorem State.withSlot_streams (s : State) (u : SlotId) (f : Slot → Slot) : (s.withSlot u f).streams = s.streams := rfl
@[simp] theorem State.withSlot_prefixes (s : State) (u : SlotId) (f : Slot → Slot) : (s.withSlot u f).prefixes = s.prefixes := rfl
@[simp] theorem State.withSlot_queues (s : State) (u : SlotId) (f : Slot → Slot) : (s.withSlot u f).queues = s.queues := rfl
@[simp] theorem State.withSlot_groups (s : State) (u : SlotId) (f : Slot → Slot) : (s.withSlot u f).groups = s.groups := rfl
@[simp] theorem State.withSlot_commands (s : State) (u : SlotId) (f : Slot → Slot) : (s.withSlot u f).commands = s.commands := rfl
@[simp] theorem State.withSlot_results (s : State) (u : SlotId) (f : Slot → Slot) : (s.withSlot u f).results = s.results := rfl
@[simp] theorem State.withSlot_residency (s : State) (u : SlotId) (f : Slot → Slot) : (s.withSlot u f).residency = s.residency := rfl
@[simp] theorem State.withSlot_segments (s : State) (u : SlotId) (f : Slot → Slot) : (s.withSlot u f).segments = s.segments := rfl
@[simp] theorem State.withSlot_drives (s : State) (u : SlotId) (f : Slot → Slot) : (s.withSlot u f).drives = s.drives := rfl
@[simp] theorem State.withSlot_partitions (s : State) (u : SlotId) (f : Slot → Slot) : (s.withSlot u f).partitions = s.partitions := rfl
@[simp] theorem State.withSlot_keys (s : State) (u : SlotId) (f : Slot → Slot) : (s.withSlot u f).keys = s.keys := rfl
@[simp] theorem State.withSlot_frameKeys (s : State) (u : SlotId) (f : Slot → Slot) : (s.withSlot u f).frameKeys = s.frameKeys := rfl
@[simp] theorem State.withSlot_tables (s : State) (u : SlotId) (f : Slot → Slot) : (s.withSlot u f).tables = s.tables := rfl
@[simp] theorem State.withSlot_sweeps (s : State) (u : SlotId) (f : Slot → Slot) : (s.withSlot u f).sweeps = s.sweeps := rfl
@[simp] theorem State.withSlot_ide (s : State) (u : SlotId) (f : Slot → Slot) : (s.withSlot u f).ide = s.ide := rfl
@[simp] theorem State.withSlot_mailboxes (s : State) (u : SlotId) (f : Slot → Slot) : (s.withSlot u f).mailboxes = s.mailboxes := rfl
@[simp] theorem State.withSlot_vfs (s : State) (u : SlotId) (f : Slot → Slot) : (s.withSlot u f).vfs = s.vfs := rfl
@[simp] theorem State.withSlot_ccmd (s : State) (u : SlotId) (f : Slot → Slot) : (s.withSlot u f).ccmd = s.ccmd := rfl
@[simp] theorem State.withSlot_cres (s : State) (u : SlotId) (f : Slot → Slot) : (s.withSlot u f).cres = s.cres := rfl
@[simp] theorem State.withSlot_cgo (s : State) (u : SlotId) (f : Slot → Slot) : (s.withSlot u f).cgo = s.cgo := rfl
@[simp] theorem State.withSlot_ctlRuns (s : State) (u : SlotId) (f : Slot → Slot) : (s.withSlot u f).ctlRuns = s.ctlRuns := rfl
@[simp] theorem State.withSlot_rings (s : State) (u : SlotId) (f : Slot → Slot) : (s.withSlot u f).rings = s.rings := rfl
@[simp] theorem State.withSlot_hostUp (s : State) (u : SlotId) (f : Slot → Slot) : (s.withSlot u f).hostUp = s.hostUp := rfl
@[simp] theorem State.withSlot_ports (s : State) (u : SlotId) (f : Slot → Slot) : (s.withSlot u f).ports = s.ports := rfl
@[simp] theorem State.withSlot_portDown (s : State) (u : SlotId) (f : Slot → Slot) : (s.withSlot u f).portDown = s.portDown := rfl
@[simp] theorem State.withSlot_replay (s : State) (u : SlotId) (f : Slot → Slot) : (s.withSlot u f).replay = s.replay := rfl
@[simp] theorem State.withSlot_replayStream (s : State) (u : SlotId) (f : Slot → Slot) : (s.withSlot u f).replayStream = s.replayStream := rfl
@[simp] theorem State.withSlot_peers (s : State) (u : SlotId) (f : Slot → Slot) : (s.withSlot u f).peers = s.peers := rfl
@[simp] theorem State.withSlot_localIndex (s : State) (u : SlotId) (f : Slot → Slot) : (s.withSlot u f).localIndex = s.localIndex := rfl
@[simp] theorem State.withSlot_migration (s : State) (u : SlotId) (f : Slot → Slot) : (s.withSlot u f).migration = s.migration := rfl
@[simp] theorem State.withSlot_posted (s : State) (u : SlotId) (f : Slot → Slot) : (s.withSlot u f).posted = s.posted := rfl
@[simp] theorem State.withSlot_incoming (s : State) (u : SlotId) (f : Slot → Slot) : (s.withSlot u f).incoming = s.incoming := rfl
@[simp] theorem State.withSlot_forwards (s : State) (u : SlotId) (f : Slot → Slot) : (s.withSlot u f).forwards = s.forwards := rfl
@[simp] theorem State.withSlot_migrated (s : State) (u : SlotId) (f : Slot → Slot) : (s.withSlot u f).migrated = s.migrated := rfl
@[simp] theorem State.withSlot_firmware (s : State) (u : SlotId) (f : Slot → Slot) : (s.withSlot u f).firmware = s.firmware := rfl
@[simp] theorem State.withSlot_dies (s : State) (u : SlotId) (f : Slot → Slot) : (s.withSlot u f).dies = s.dies := rfl
@[simp] theorem State.withSlot_links (s : State) (u : SlotId) (f : Slot → Slot) : (s.withSlot u f).links = s.links := rfl
@[simp] theorem State.withSlot_telemetry (s : State) (u : SlotId) (f : Slot → Slot) : (s.withSlot u f).telemetry = s.telemetry := rfl
@[simp] theorem State.withSlot_jobsDone (s : State) (u : SlotId) (f : Slot → Slot) : (s.withSlot u f).jobsDone = s.jobsDone := rfl
@[simp] theorem State.withSlot_rungs (s : State) (u : SlotId) (f : Slot → Slot) : (s.withSlot u f).rungs = s.rungs := rfl
@[simp] theorem State.withSlot_phase (s : State) (u : SlotId) (f : Slot → Slot) : (s.withSlot u f).phase = s.phase := rfl
@[simp] theorem State.withSlot_warm (s : State) (u : SlotId) (f : Slot → Slot) : (s.withSlot u f).warm = s.warm := rfl
@[simp] theorem State.withSlot_starting (s : State) (u : SlotId) (f : Slot → Slot) : (s.withSlot u f).starting = s.starting := rfl
@[simp] theorem State.withSlot_starts (s : State) (u : SlotId) (f : Slot → Slot) : (s.withSlot u f).starts = s.starts := rfl
@[simp] theorem State.withSlot_refused (s : State) (u : SlotId) (f : Slot → Slot) : (s.withSlot u f).refused = s.refused := rfl
@[simp] theorem State.withSlot_out (s : State) (u : SlotId) (f : Slot → Slot) : (s.withSlot u f).out = s.out := rfl
@[simp] theorem State.withStream_agenda (s : State) (c : Cursor) (f : StreamSt → StreamSt) : (s.withStream c f).agenda = s.agenda := rfl
@[simp] theorem State.withStream_cur (s : State) (c : Cursor) (f : StreamSt → StreamSt) : (s.withStream c f).cur = s.cur := rfl
@[simp] theorem State.withStream_cyc (s : State) (c : Cursor) (f : StreamSt → StreamSt) : (s.withStream c f).cyc = s.cyc := rfl
@[simp] theorem State.withStream_mem (s : State) (c : Cursor) (f : StreamSt → StreamSt) : (s.withStream c f).mem = s.mem := rfl
@[simp] theorem State.withStream_upsets (s : State) (c : Cursor) (f : StreamSt → StreamSt) : (s.withStream c f).upsets = s.upsets := rfl
@[simp] theorem State.withStream_granules (s : State) (c : Cursor) (f : StreamSt → StreamSt) : (s.withStream c f).granules = s.granules := rfl
@[simp] theorem State.withStream_claims (s : State) (c : Cursor) (f : StreamSt → StreamSt) : (s.withStream c f).claims = s.claims := rfl
@[simp] theorem State.withStream_buffers (s : State) (c : Cursor) (f : StreamSt → StreamSt) : (s.withStream c f).buffers = s.buffers := rfl
@[simp] theorem State.withStream_launches (s : State) (c : Cursor) (f : StreamSt → StreamSt) : (s.withStream c f).launches = s.launches := rfl
@[simp] theorem State.withStream_jobs (s : State) (c : Cursor) (f : StreamSt → StreamSt) : (s.withStream c f).jobs = s.jobs := rfl
@[simp] theorem State.withStream_reasons (s : State) (c : Cursor) (f : StreamSt → StreamSt) : (s.withStream c f).reasons = s.reasons := rfl
@[simp] theorem State.withStream_finished (s : State) (c : Cursor) (f : StreamSt → StreamSt) : (s.withStream c f).finished = s.finished := rfl
@[simp] theorem State.withStream_mcs (s : State) (c : Cursor) (f : StreamSt → StreamSt) : (s.withStream c f).mcs = s.mcs := rfl
@[simp] theorem State.withStream_fresh (s : State) (c : Cursor) (f : StreamSt → StreamSt) : (s.withStream c f).fresh = s.fresh := rfl
@[simp] theorem State.withStream_streams (s : State) (c : Cursor) (f : StreamSt → StreamSt) : (s.withStream c f).streams = s.streams := rfl
@[simp] theorem State.withStream_prefixes (s : State) (c : Cursor) (f : StreamSt → StreamSt) : (s.withStream c f).prefixes = s.prefixes := rfl
@[simp] theorem State.withStream_queues (s : State) (c : Cursor) (f : StreamSt → StreamSt) : (s.withStream c f).queues = s.queues := rfl
@[simp] theorem State.withStream_groups (s : State) (c : Cursor) (f : StreamSt → StreamSt) : (s.withStream c f).groups = s.groups := rfl
@[simp] theorem State.withStream_commands (s : State) (c : Cursor) (f : StreamSt → StreamSt) : (s.withStream c f).commands = s.commands := rfl
@[simp] theorem State.withStream_results (s : State) (c : Cursor) (f : StreamSt → StreamSt) : (s.withStream c f).results = s.results := rfl
@[simp] theorem State.withStream_residency (s : State) (c : Cursor) (f : StreamSt → StreamSt) : (s.withStream c f).residency = s.residency := rfl
@[simp] theorem State.withStream_segments (s : State) (c : Cursor) (f : StreamSt → StreamSt) : (s.withStream c f).segments = s.segments := rfl
@[simp] theorem State.withStream_drives (s : State) (c : Cursor) (f : StreamSt → StreamSt) : (s.withStream c f).drives = s.drives := rfl
@[simp] theorem State.withStream_partitions (s : State) (c : Cursor) (f : StreamSt → StreamSt) : (s.withStream c f).partitions = s.partitions := rfl
@[simp] theorem State.withStream_keys (s : State) (c : Cursor) (f : StreamSt → StreamSt) : (s.withStream c f).keys = s.keys := rfl
@[simp] theorem State.withStream_frameKeys (s : State) (c : Cursor) (f : StreamSt → StreamSt) : (s.withStream c f).frameKeys = s.frameKeys := rfl
@[simp] theorem State.withStream_tables (s : State) (c : Cursor) (f : StreamSt → StreamSt) : (s.withStream c f).tables = s.tables := rfl
@[simp] theorem State.withStream_sweeps (s : State) (c : Cursor) (f : StreamSt → StreamSt) : (s.withStream c f).sweeps = s.sweeps := rfl
@[simp] theorem State.withStream_ide (s : State) (c : Cursor) (f : StreamSt → StreamSt) : (s.withStream c f).ide = s.ide := rfl
@[simp] theorem State.withStream_mailboxes (s : State) (c : Cursor) (f : StreamSt → StreamSt) : (s.withStream c f).mailboxes = s.mailboxes := rfl
@[simp] theorem State.withStream_vfs (s : State) (c : Cursor) (f : StreamSt → StreamSt) : (s.withStream c f).vfs = s.vfs := rfl
@[simp] theorem State.withStream_ccmd (s : State) (c : Cursor) (f : StreamSt → StreamSt) : (s.withStream c f).ccmd = s.ccmd := rfl
@[simp] theorem State.withStream_cres (s : State) (c : Cursor) (f : StreamSt → StreamSt) : (s.withStream c f).cres = s.cres := rfl
@[simp] theorem State.withStream_cgo (s : State) (c : Cursor) (f : StreamSt → StreamSt) : (s.withStream c f).cgo = s.cgo := rfl
@[simp] theorem State.withStream_ctlRuns (s : State) (c : Cursor) (f : StreamSt → StreamSt) : (s.withStream c f).ctlRuns = s.ctlRuns := rfl
@[simp] theorem State.withStream_rings (s : State) (c : Cursor) (f : StreamSt → StreamSt) : (s.withStream c f).rings = s.rings := rfl
@[simp] theorem State.withStream_hostUp (s : State) (c : Cursor) (f : StreamSt → StreamSt) : (s.withStream c f).hostUp = s.hostUp := rfl
@[simp] theorem State.withStream_ports (s : State) (c : Cursor) (f : StreamSt → StreamSt) : (s.withStream c f).ports = s.ports := rfl
@[simp] theorem State.withStream_portDown (s : State) (c : Cursor) (f : StreamSt → StreamSt) : (s.withStream c f).portDown = s.portDown := rfl
@[simp] theorem State.withStream_replay (s : State) (c : Cursor) (f : StreamSt → StreamSt) : (s.withStream c f).replay = s.replay := rfl
@[simp] theorem State.withStream_replayStream (s : State) (c : Cursor) (f : StreamSt → StreamSt) : (s.withStream c f).replayStream = s.replayStream := rfl
@[simp] theorem State.withStream_peers (s : State) (c : Cursor) (f : StreamSt → StreamSt) : (s.withStream c f).peers = s.peers := rfl
@[simp] theorem State.withStream_localIndex (s : State) (c : Cursor) (f : StreamSt → StreamSt) : (s.withStream c f).localIndex = s.localIndex := rfl
@[simp] theorem State.withStream_migration (s : State) (c : Cursor) (f : StreamSt → StreamSt) : (s.withStream c f).migration = s.migration := rfl
@[simp] theorem State.withStream_posted (s : State) (c : Cursor) (f : StreamSt → StreamSt) : (s.withStream c f).posted = s.posted := rfl
@[simp] theorem State.withStream_incoming (s : State) (c : Cursor) (f : StreamSt → StreamSt) : (s.withStream c f).incoming = s.incoming := rfl
@[simp] theorem State.withStream_forwards (s : State) (c : Cursor) (f : StreamSt → StreamSt) : (s.withStream c f).forwards = s.forwards := rfl
@[simp] theorem State.withStream_migrated (s : State) (c : Cursor) (f : StreamSt → StreamSt) : (s.withStream c f).migrated = s.migrated := rfl
@[simp] theorem State.withStream_firmware (s : State) (c : Cursor) (f : StreamSt → StreamSt) : (s.withStream c f).firmware = s.firmware := rfl
@[simp] theorem State.withStream_dies (s : State) (c : Cursor) (f : StreamSt → StreamSt) : (s.withStream c f).dies = s.dies := rfl
@[simp] theorem State.withStream_links (s : State) (c : Cursor) (f : StreamSt → StreamSt) : (s.withStream c f).links = s.links := rfl
@[simp] theorem State.withStream_telemetry (s : State) (c : Cursor) (f : StreamSt → StreamSt) : (s.withStream c f).telemetry = s.telemetry := rfl
@[simp] theorem State.withStream_jobsDone (s : State) (c : Cursor) (f : StreamSt → StreamSt) : (s.withStream c f).jobsDone = s.jobsDone := rfl
@[simp] theorem State.withStream_rungs (s : State) (c : Cursor) (f : StreamSt → StreamSt) : (s.withStream c f).rungs = s.rungs := rfl
@[simp] theorem State.withStream_phase (s : State) (c : Cursor) (f : StreamSt → StreamSt) : (s.withStream c f).phase = s.phase := rfl
@[simp] theorem State.withStream_warm (s : State) (c : Cursor) (f : StreamSt → StreamSt) : (s.withStream c f).warm = s.warm := rfl
@[simp] theorem State.withStream_starting (s : State) (c : Cursor) (f : StreamSt → StreamSt) : (s.withStream c f).starting = s.starting := rfl
@[simp] theorem State.withStream_starts (s : State) (c : Cursor) (f : StreamSt → StreamSt) : (s.withStream c f).starts = s.starts := rfl
@[simp] theorem State.withStream_refused (s : State) (c : Cursor) (f : StreamSt → StreamSt) : (s.withStream c f).refused = s.refused := rfl
@[simp] theorem State.withStream_out (s : State) (c : Cursor) (f : StreamSt → StreamSt) : (s.withStream c f).out = s.out := rfl
@[simp] theorem State.withHere_agenda (s : State) (f : Slot → Slot) : (s.withHere f).agenda = s.agenda := rfl
@[simp] theorem State.withHere_cur (s : State) (f : Slot → Slot) : (s.withHere f).cur = s.cur := rfl
@[simp] theorem State.withHere_cyc (s : State) (f : Slot → Slot) : (s.withHere f).cyc = s.cyc := rfl
@[simp] theorem State.withHere_mem (s : State) (f : Slot → Slot) : (s.withHere f).mem = s.mem := rfl
@[simp] theorem State.withHere_upsets (s : State) (f : Slot → Slot) : (s.withHere f).upsets = s.upsets := rfl
@[simp] theorem State.withHere_granules (s : State) (f : Slot → Slot) : (s.withHere f).granules = s.granules := rfl
@[simp] theorem State.withHere_claims (s : State) (f : Slot → Slot) : (s.withHere f).claims = s.claims := rfl
@[simp] theorem State.withHere_buffers (s : State) (f : Slot → Slot) : (s.withHere f).buffers = s.buffers := rfl
@[simp] theorem State.withHere_launches (s : State) (f : Slot → Slot) : (s.withHere f).launches = s.launches := rfl
@[simp] theorem State.withHere_jobs (s : State) (f : Slot → Slot) : (s.withHere f).jobs = s.jobs := rfl
@[simp] theorem State.withHere_reasons (s : State) (f : Slot → Slot) : (s.withHere f).reasons = s.reasons := rfl
@[simp] theorem State.withHere_finished (s : State) (f : Slot → Slot) : (s.withHere f).finished = s.finished := rfl
@[simp] theorem State.withHere_mcs (s : State) (f : Slot → Slot) : (s.withHere f).mcs = s.mcs := rfl
@[simp] theorem State.withHere_fresh (s : State) (f : Slot → Slot) : (s.withHere f).fresh = s.fresh := rfl
@[simp] theorem State.withHere_streams (s : State) (f : Slot → Slot) : (s.withHere f).streams = s.streams := rfl
@[simp] theorem State.withHere_prefixes (s : State) (f : Slot → Slot) : (s.withHere f).prefixes = s.prefixes := rfl
@[simp] theorem State.withHere_queues (s : State) (f : Slot → Slot) : (s.withHere f).queues = s.queues := rfl
@[simp] theorem State.withHere_groups (s : State) (f : Slot → Slot) : (s.withHere f).groups = s.groups := rfl
@[simp] theorem State.withHere_commands (s : State) (f : Slot → Slot) : (s.withHere f).commands = s.commands := rfl
@[simp] theorem State.withHere_results (s : State) (f : Slot → Slot) : (s.withHere f).results = s.results := rfl
@[simp] theorem State.withHere_residency (s : State) (f : Slot → Slot) : (s.withHere f).residency = s.residency := rfl
@[simp] theorem State.withHere_segments (s : State) (f : Slot → Slot) : (s.withHere f).segments = s.segments := rfl
@[simp] theorem State.withHere_drives (s : State) (f : Slot → Slot) : (s.withHere f).drives = s.drives := rfl
@[simp] theorem State.withHere_partitions (s : State) (f : Slot → Slot) : (s.withHere f).partitions = s.partitions := rfl
@[simp] theorem State.withHere_keys (s : State) (f : Slot → Slot) : (s.withHere f).keys = s.keys := rfl
@[simp] theorem State.withHere_frameKeys (s : State) (f : Slot → Slot) : (s.withHere f).frameKeys = s.frameKeys := rfl
@[simp] theorem State.withHere_tables (s : State) (f : Slot → Slot) : (s.withHere f).tables = s.tables := rfl
@[simp] theorem State.withHere_sweeps (s : State) (f : Slot → Slot) : (s.withHere f).sweeps = s.sweeps := rfl
@[simp] theorem State.withHere_ide (s : State) (f : Slot → Slot) : (s.withHere f).ide = s.ide := rfl
@[simp] theorem State.withHere_mailboxes (s : State) (f : Slot → Slot) : (s.withHere f).mailboxes = s.mailboxes := rfl
@[simp] theorem State.withHere_vfs (s : State) (f : Slot → Slot) : (s.withHere f).vfs = s.vfs := rfl
@[simp] theorem State.withHere_ccmd (s : State) (f : Slot → Slot) : (s.withHere f).ccmd = s.ccmd := rfl
@[simp] theorem State.withHere_cres (s : State) (f : Slot → Slot) : (s.withHere f).cres = s.cres := rfl
@[simp] theorem State.withHere_cgo (s : State) (f : Slot → Slot) : (s.withHere f).cgo = s.cgo := rfl
@[simp] theorem State.withHere_ctlRuns (s : State) (f : Slot → Slot) : (s.withHere f).ctlRuns = s.ctlRuns := rfl
@[simp] theorem State.withHere_rings (s : State) (f : Slot → Slot) : (s.withHere f).rings = s.rings := rfl
@[simp] theorem State.withHere_hostUp (s : State) (f : Slot → Slot) : (s.withHere f).hostUp = s.hostUp := rfl
@[simp] theorem State.withHere_ports (s : State) (f : Slot → Slot) : (s.withHere f).ports = s.ports := rfl
@[simp] theorem State.withHere_portDown (s : State) (f : Slot → Slot) : (s.withHere f).portDown = s.portDown := rfl
@[simp] theorem State.withHere_replay (s : State) (f : Slot → Slot) : (s.withHere f).replay = s.replay := rfl
@[simp] theorem State.withHere_replayStream (s : State) (f : Slot → Slot) : (s.withHere f).replayStream = s.replayStream := rfl
@[simp] theorem State.withHere_peers (s : State) (f : Slot → Slot) : (s.withHere f).peers = s.peers := rfl
@[simp] theorem State.withHere_localIndex (s : State) (f : Slot → Slot) : (s.withHere f).localIndex = s.localIndex := rfl
@[simp] theorem State.withHere_migration (s : State) (f : Slot → Slot) : (s.withHere f).migration = s.migration := rfl
@[simp] theorem State.withHere_posted (s : State) (f : Slot → Slot) : (s.withHere f).posted = s.posted := rfl
@[simp] theorem State.withHere_incoming (s : State) (f : Slot → Slot) : (s.withHere f).incoming = s.incoming := rfl
@[simp] theorem State.withHere_forwards (s : State) (f : Slot → Slot) : (s.withHere f).forwards = s.forwards := rfl
@[simp] theorem State.withHere_migrated (s : State) (f : Slot → Slot) : (s.withHere f).migrated = s.migrated := rfl
@[simp] theorem State.withHere_firmware (s : State) (f : Slot → Slot) : (s.withHere f).firmware = s.firmware := rfl
@[simp] theorem State.withHere_dies (s : State) (f : Slot → Slot) : (s.withHere f).dies = s.dies := rfl
@[simp] theorem State.withHere_links (s : State) (f : Slot → Slot) : (s.withHere f).links = s.links := rfl
@[simp] theorem State.withHere_telemetry (s : State) (f : Slot → Slot) : (s.withHere f).telemetry = s.telemetry := rfl
@[simp] theorem State.withHere_jobsDone (s : State) (f : Slot → Slot) : (s.withHere f).jobsDone = s.jobsDone := rfl
@[simp] theorem State.withHere_rungs (s : State) (f : Slot → Slot) : (s.withHere f).rungs = s.rungs := rfl
@[simp] theorem State.withHere_phase (s : State) (f : Slot → Slot) : (s.withHere f).phase = s.phase := rfl
@[simp] theorem State.withHere_warm (s : State) (f : Slot → Slot) : (s.withHere f).warm = s.warm := rfl
@[simp] theorem State.withHere_starting (s : State) (f : Slot → Slot) : (s.withHere f).starting = s.starting := rfl
@[simp] theorem State.withHere_starts (s : State) (f : Slot → Slot) : (s.withHere f).starts = s.starts := rfl
@[simp] theorem State.withHere_refused (s : State) (f : Slot → Slot) : (s.withHere f).refused = s.refused := rfl
@[simp] theorem State.withHere_out (s : State) (f : Slot → Slot) : (s.withHere f).out = s.out := rfl
@[simp] theorem State.withMe_agenda (s : State) (f : StreamSt → StreamSt) : (s.withMe f).agenda = s.agenda := rfl
@[simp] theorem State.withMe_cur (s : State) (f : StreamSt → StreamSt) : (s.withMe f).cur = s.cur := rfl
@[simp] theorem State.withMe_cyc (s : State) (f : StreamSt → StreamSt) : (s.withMe f).cyc = s.cyc := rfl
@[simp] theorem State.withMe_mem (s : State) (f : StreamSt → StreamSt) : (s.withMe f).mem = s.mem := rfl
@[simp] theorem State.withMe_upsets (s : State) (f : StreamSt → StreamSt) : (s.withMe f).upsets = s.upsets := rfl
@[simp] theorem State.withMe_granules (s : State) (f : StreamSt → StreamSt) : (s.withMe f).granules = s.granules := rfl
@[simp] theorem State.withMe_claims (s : State) (f : StreamSt → StreamSt) : (s.withMe f).claims = s.claims := rfl
@[simp] theorem State.withMe_buffers (s : State) (f : StreamSt → StreamSt) : (s.withMe f).buffers = s.buffers := rfl
@[simp] theorem State.withMe_launches (s : State) (f : StreamSt → StreamSt) : (s.withMe f).launches = s.launches := rfl
@[simp] theorem State.withMe_jobs (s : State) (f : StreamSt → StreamSt) : (s.withMe f).jobs = s.jobs := rfl
@[simp] theorem State.withMe_reasons (s : State) (f : StreamSt → StreamSt) : (s.withMe f).reasons = s.reasons := rfl
@[simp] theorem State.withMe_finished (s : State) (f : StreamSt → StreamSt) : (s.withMe f).finished = s.finished := rfl
@[simp] theorem State.withMe_mcs (s : State) (f : StreamSt → StreamSt) : (s.withMe f).mcs = s.mcs := rfl
@[simp] theorem State.withMe_fresh (s : State) (f : StreamSt → StreamSt) : (s.withMe f).fresh = s.fresh := rfl
@[simp] theorem State.withMe_streams (s : State) (f : StreamSt → StreamSt) : (s.withMe f).streams = s.streams := rfl
@[simp] theorem State.withMe_prefixes (s : State) (f : StreamSt → StreamSt) : (s.withMe f).prefixes = s.prefixes := rfl
@[simp] theorem State.withMe_queues (s : State) (f : StreamSt → StreamSt) : (s.withMe f).queues = s.queues := rfl
@[simp] theorem State.withMe_groups (s : State) (f : StreamSt → StreamSt) : (s.withMe f).groups = s.groups := rfl
@[simp] theorem State.withMe_commands (s : State) (f : StreamSt → StreamSt) : (s.withMe f).commands = s.commands := rfl
@[simp] theorem State.withMe_results (s : State) (f : StreamSt → StreamSt) : (s.withMe f).results = s.results := rfl
@[simp] theorem State.withMe_residency (s : State) (f : StreamSt → StreamSt) : (s.withMe f).residency = s.residency := rfl
@[simp] theorem State.withMe_segments (s : State) (f : StreamSt → StreamSt) : (s.withMe f).segments = s.segments := rfl
@[simp] theorem State.withMe_drives (s : State) (f : StreamSt → StreamSt) : (s.withMe f).drives = s.drives := rfl
@[simp] theorem State.withMe_partitions (s : State) (f : StreamSt → StreamSt) : (s.withMe f).partitions = s.partitions := rfl
@[simp] theorem State.withMe_keys (s : State) (f : StreamSt → StreamSt) : (s.withMe f).keys = s.keys := rfl
@[simp] theorem State.withMe_frameKeys (s : State) (f : StreamSt → StreamSt) : (s.withMe f).frameKeys = s.frameKeys := rfl
@[simp] theorem State.withMe_tables (s : State) (f : StreamSt → StreamSt) : (s.withMe f).tables = s.tables := rfl
@[simp] theorem State.withMe_sweeps (s : State) (f : StreamSt → StreamSt) : (s.withMe f).sweeps = s.sweeps := rfl
@[simp] theorem State.withMe_ide (s : State) (f : StreamSt → StreamSt) : (s.withMe f).ide = s.ide := rfl
@[simp] theorem State.withMe_mailboxes (s : State) (f : StreamSt → StreamSt) : (s.withMe f).mailboxes = s.mailboxes := rfl
@[simp] theorem State.withMe_vfs (s : State) (f : StreamSt → StreamSt) : (s.withMe f).vfs = s.vfs := rfl
@[simp] theorem State.withMe_ccmd (s : State) (f : StreamSt → StreamSt) : (s.withMe f).ccmd = s.ccmd := rfl
@[simp] theorem State.withMe_cres (s : State) (f : StreamSt → StreamSt) : (s.withMe f).cres = s.cres := rfl
@[simp] theorem State.withMe_cgo (s : State) (f : StreamSt → StreamSt) : (s.withMe f).cgo = s.cgo := rfl
@[simp] theorem State.withMe_ctlRuns (s : State) (f : StreamSt → StreamSt) : (s.withMe f).ctlRuns = s.ctlRuns := rfl
@[simp] theorem State.withMe_rings (s : State) (f : StreamSt → StreamSt) : (s.withMe f).rings = s.rings := rfl
@[simp] theorem State.withMe_hostUp (s : State) (f : StreamSt → StreamSt) : (s.withMe f).hostUp = s.hostUp := rfl
@[simp] theorem State.withMe_ports (s : State) (f : StreamSt → StreamSt) : (s.withMe f).ports = s.ports := rfl
@[simp] theorem State.withMe_portDown (s : State) (f : StreamSt → StreamSt) : (s.withMe f).portDown = s.portDown := rfl
@[simp] theorem State.withMe_replay (s : State) (f : StreamSt → StreamSt) : (s.withMe f).replay = s.replay := rfl
@[simp] theorem State.withMe_replayStream (s : State) (f : StreamSt → StreamSt) : (s.withMe f).replayStream = s.replayStream := rfl
@[simp] theorem State.withMe_peers (s : State) (f : StreamSt → StreamSt) : (s.withMe f).peers = s.peers := rfl
@[simp] theorem State.withMe_localIndex (s : State) (f : StreamSt → StreamSt) : (s.withMe f).localIndex = s.localIndex := rfl
@[simp] theorem State.withMe_migration (s : State) (f : StreamSt → StreamSt) : (s.withMe f).migration = s.migration := rfl
@[simp] theorem State.withMe_posted (s : State) (f : StreamSt → StreamSt) : (s.withMe f).posted = s.posted := rfl
@[simp] theorem State.withMe_incoming (s : State) (f : StreamSt → StreamSt) : (s.withMe f).incoming = s.incoming := rfl
@[simp] theorem State.withMe_forwards (s : State) (f : StreamSt → StreamSt) : (s.withMe f).forwards = s.forwards := rfl
@[simp] theorem State.withMe_migrated (s : State) (f : StreamSt → StreamSt) : (s.withMe f).migrated = s.migrated := rfl
@[simp] theorem State.withMe_firmware (s : State) (f : StreamSt → StreamSt) : (s.withMe f).firmware = s.firmware := rfl
@[simp] theorem State.withMe_dies (s : State) (f : StreamSt → StreamSt) : (s.withMe f).dies = s.dies := rfl
@[simp] theorem State.withMe_links (s : State) (f : StreamSt → StreamSt) : (s.withMe f).links = s.links := rfl
@[simp] theorem State.withMe_telemetry (s : State) (f : StreamSt → StreamSt) : (s.withMe f).telemetry = s.telemetry := rfl
@[simp] theorem State.withMe_jobsDone (s : State) (f : StreamSt → StreamSt) : (s.withMe f).jobsDone = s.jobsDone := rfl
@[simp] theorem State.withMe_rungs (s : State) (f : StreamSt → StreamSt) : (s.withMe f).rungs = s.rungs := rfl
@[simp] theorem State.withMe_phase (s : State) (f : StreamSt → StreamSt) : (s.withMe f).phase = s.phase := rfl
@[simp] theorem State.withMe_warm (s : State) (f : StreamSt → StreamSt) : (s.withMe f).warm = s.warm := rfl
@[simp] theorem State.withMe_starting (s : State) (f : StreamSt → StreamSt) : (s.withMe f).starting = s.starting := rfl
@[simp] theorem State.withMe_starts (s : State) (f : StreamSt → StreamSt) : (s.withMe f).starts = s.starts := rfl
@[simp] theorem State.withMe_refused (s : State) (f : StreamSt → StreamSt) : (s.withMe f).refused = s.refused := rfl
@[simp] theorem State.withMe_out (s : State) (f : StreamSt → StreamSt) : (s.withMe f).out = s.out := rfl
@[simp] theorem State.withMc_agenda (s : State) (h : Nat) (f : MicroContext → MicroContext) : (s.withMc h f).agenda = s.agenda := rfl
@[simp] theorem State.withMc_cur (s : State) (h : Nat) (f : MicroContext → MicroContext) : (s.withMc h f).cur = s.cur := rfl
@[simp] theorem State.withMc_cyc (s : State) (h : Nat) (f : MicroContext → MicroContext) : (s.withMc h f).cyc = s.cyc := rfl
@[simp] theorem State.withMc_mem (s : State) (h : Nat) (f : MicroContext → MicroContext) : (s.withMc h f).mem = s.mem := rfl
@[simp] theorem State.withMc_upsets (s : State) (h : Nat) (f : MicroContext → MicroContext) : (s.withMc h f).upsets = s.upsets := rfl
@[simp] theorem State.withMc_cells (s : State) (h : Nat) (f : MicroContext → MicroContext) : (s.withMc h f).cells = s.cells := rfl
@[simp] theorem State.withMc_granules (s : State) (h : Nat) (f : MicroContext → MicroContext) : (s.withMc h f).granules = s.granules := rfl
@[simp] theorem State.withMc_claims (s : State) (h : Nat) (f : MicroContext → MicroContext) : (s.withMc h f).claims = s.claims := rfl
@[simp] theorem State.withMc_buffers (s : State) (h : Nat) (f : MicroContext → MicroContext) : (s.withMc h f).buffers = s.buffers := rfl
@[simp] theorem State.withMc_launches (s : State) (h : Nat) (f : MicroContext → MicroContext) : (s.withMc h f).launches = s.launches := rfl
@[simp] theorem State.withMc_jobs (s : State) (h : Nat) (f : MicroContext → MicroContext) : (s.withMc h f).jobs = s.jobs := rfl
@[simp] theorem State.withMc_reasons (s : State) (h : Nat) (f : MicroContext → MicroContext) : (s.withMc h f).reasons = s.reasons := rfl
@[simp] theorem State.withMc_finished (s : State) (h : Nat) (f : MicroContext → MicroContext) : (s.withMc h f).finished = s.finished := rfl
@[simp] theorem State.withMc_fresh (s : State) (h : Nat) (f : MicroContext → MicroContext) : (s.withMc h f).fresh = s.fresh := rfl
@[simp] theorem State.withMc_streams (s : State) (h : Nat) (f : MicroContext → MicroContext) : (s.withMc h f).streams = s.streams := rfl
@[simp] theorem State.withMc_prefixes (s : State) (h : Nat) (f : MicroContext → MicroContext) : (s.withMc h f).prefixes = s.prefixes := rfl
@[simp] theorem State.withMc_queues (s : State) (h : Nat) (f : MicroContext → MicroContext) : (s.withMc h f).queues = s.queues := rfl
@[simp] theorem State.withMc_groups (s : State) (h : Nat) (f : MicroContext → MicroContext) : (s.withMc h f).groups = s.groups := rfl
@[simp] theorem State.withMc_commands (s : State) (h : Nat) (f : MicroContext → MicroContext) : (s.withMc h f).commands = s.commands := rfl
@[simp] theorem State.withMc_results (s : State) (h : Nat) (f : MicroContext → MicroContext) : (s.withMc h f).results = s.results := rfl
@[simp] theorem State.withMc_residency (s : State) (h : Nat) (f : MicroContext → MicroContext) : (s.withMc h f).residency = s.residency := rfl
@[simp] theorem State.withMc_segments (s : State) (h : Nat) (f : MicroContext → MicroContext) : (s.withMc h f).segments = s.segments := rfl
@[simp] theorem State.withMc_drives (s : State) (h : Nat) (f : MicroContext → MicroContext) : (s.withMc h f).drives = s.drives := rfl
@[simp] theorem State.withMc_partitions (s : State) (h : Nat) (f : MicroContext → MicroContext) : (s.withMc h f).partitions = s.partitions := rfl
@[simp] theorem State.withMc_keys (s : State) (h : Nat) (f : MicroContext → MicroContext) : (s.withMc h f).keys = s.keys := rfl
@[simp] theorem State.withMc_frameKeys (s : State) (h : Nat) (f : MicroContext → MicroContext) : (s.withMc h f).frameKeys = s.frameKeys := rfl
@[simp] theorem State.withMc_tables (s : State) (h : Nat) (f : MicroContext → MicroContext) : (s.withMc h f).tables = s.tables := rfl
@[simp] theorem State.withMc_sweeps (s : State) (h : Nat) (f : MicroContext → MicroContext) : (s.withMc h f).sweeps = s.sweeps := rfl
@[simp] theorem State.withMc_ide (s : State) (h : Nat) (f : MicroContext → MicroContext) : (s.withMc h f).ide = s.ide := rfl
@[simp] theorem State.withMc_mailboxes (s : State) (h : Nat) (f : MicroContext → MicroContext) : (s.withMc h f).mailboxes = s.mailboxes := rfl
@[simp] theorem State.withMc_vfs (s : State) (h : Nat) (f : MicroContext → MicroContext) : (s.withMc h f).vfs = s.vfs := rfl
@[simp] theorem State.withMc_ccmd (s : State) (h : Nat) (f : MicroContext → MicroContext) : (s.withMc h f).ccmd = s.ccmd := rfl
@[simp] theorem State.withMc_cres (s : State) (h : Nat) (f : MicroContext → MicroContext) : (s.withMc h f).cres = s.cres := rfl
@[simp] theorem State.withMc_cgo (s : State) (h : Nat) (f : MicroContext → MicroContext) : (s.withMc h f).cgo = s.cgo := rfl
@[simp] theorem State.withMc_ctlRuns (s : State) (h : Nat) (f : MicroContext → MicroContext) : (s.withMc h f).ctlRuns = s.ctlRuns := rfl
@[simp] theorem State.withMc_rings (s : State) (h : Nat) (f : MicroContext → MicroContext) : (s.withMc h f).rings = s.rings := rfl
@[simp] theorem State.withMc_hostUp (s : State) (h : Nat) (f : MicroContext → MicroContext) : (s.withMc h f).hostUp = s.hostUp := rfl
@[simp] theorem State.withMc_ports (s : State) (h : Nat) (f : MicroContext → MicroContext) : (s.withMc h f).ports = s.ports := rfl
@[simp] theorem State.withMc_portDown (s : State) (h : Nat) (f : MicroContext → MicroContext) : (s.withMc h f).portDown = s.portDown := rfl
@[simp] theorem State.withMc_replay (s : State) (h : Nat) (f : MicroContext → MicroContext) : (s.withMc h f).replay = s.replay := rfl
@[simp] theorem State.withMc_replayStream (s : State) (h : Nat) (f : MicroContext → MicroContext) : (s.withMc h f).replayStream = s.replayStream := rfl
@[simp] theorem State.withMc_peers (s : State) (h : Nat) (f : MicroContext → MicroContext) : (s.withMc h f).peers = s.peers := rfl
@[simp] theorem State.withMc_localIndex (s : State) (h : Nat) (f : MicroContext → MicroContext) : (s.withMc h f).localIndex = s.localIndex := rfl
@[simp] theorem State.withMc_migration (s : State) (h : Nat) (f : MicroContext → MicroContext) : (s.withMc h f).migration = s.migration := rfl
@[simp] theorem State.withMc_posted (s : State) (h : Nat) (f : MicroContext → MicroContext) : (s.withMc h f).posted = s.posted := rfl
@[simp] theorem State.withMc_incoming (s : State) (h : Nat) (f : MicroContext → MicroContext) : (s.withMc h f).incoming = s.incoming := rfl
@[simp] theorem State.withMc_forwards (s : State) (h : Nat) (f : MicroContext → MicroContext) : (s.withMc h f).forwards = s.forwards := rfl
@[simp] theorem State.withMc_migrated (s : State) (h : Nat) (f : MicroContext → MicroContext) : (s.withMc h f).migrated = s.migrated := rfl
@[simp] theorem State.withMc_firmware (s : State) (h : Nat) (f : MicroContext → MicroContext) : (s.withMc h f).firmware = s.firmware := rfl
@[simp] theorem State.withMc_dies (s : State) (h : Nat) (f : MicroContext → MicroContext) : (s.withMc h f).dies = s.dies := rfl
@[simp] theorem State.withMc_links (s : State) (h : Nat) (f : MicroContext → MicroContext) : (s.withMc h f).links = s.links := rfl
@[simp] theorem State.withMc_telemetry (s : State) (h : Nat) (f : MicroContext → MicroContext) : (s.withMc h f).telemetry = s.telemetry := rfl
@[simp] theorem State.withMc_jobsDone (s : State) (h : Nat) (f : MicroContext → MicroContext) : (s.withMc h f).jobsDone = s.jobsDone := rfl
@[simp] theorem State.withMc_rungs (s : State) (h : Nat) (f : MicroContext → MicroContext) : (s.withMc h f).rungs = s.rungs := rfl
@[simp] theorem State.withMc_phase (s : State) (h : Nat) (f : MicroContext → MicroContext) : (s.withMc h f).phase = s.phase := rfl
@[simp] theorem State.withMc_warm (s : State) (h : Nat) (f : MicroContext → MicroContext) : (s.withMc h f).warm = s.warm := rfl
@[simp] theorem State.withMc_starting (s : State) (h : Nat) (f : MicroContext → MicroContext) : (s.withMc h f).starting = s.starting := rfl
@[simp] theorem State.withMc_starts (s : State) (h : Nat) (f : MicroContext → MicroContext) : (s.withMc h f).starts = s.starts := rfl
@[simp] theorem State.withMc_refused (s : State) (h : Nat) (f : MicroContext → MicroContext) : (s.withMc h f).refused = s.refused := rfl
@[simp] theorem State.withMc_out (s : State) (h : Nat) (f : MicroContext → MicroContext) : (s.withMc h f).out = s.out := rfl
@[simp] theorem State.withLaunch_agenda (s : State) (n : Nat) (f : Launch → Launch) : (s.withLaunch n f).agenda = s.agenda := rfl
@[simp] theorem State.withLaunch_cur (s : State) (n : Nat) (f : Launch → Launch) : (s.withLaunch n f).cur = s.cur := rfl
@[simp] theorem State.withLaunch_cyc (s : State) (n : Nat) (f : Launch → Launch) : (s.withLaunch n f).cyc = s.cyc := rfl
@[simp] theorem State.withLaunch_mem (s : State) (n : Nat) (f : Launch → Launch) : (s.withLaunch n f).mem = s.mem := rfl
@[simp] theorem State.withLaunch_upsets (s : State) (n : Nat) (f : Launch → Launch) : (s.withLaunch n f).upsets = s.upsets := rfl
@[simp] theorem State.withLaunch_cells (s : State) (n : Nat) (f : Launch → Launch) : (s.withLaunch n f).cells = s.cells := rfl
@[simp] theorem State.withLaunch_granules (s : State) (n : Nat) (f : Launch → Launch) : (s.withLaunch n f).granules = s.granules := rfl
@[simp] theorem State.withLaunch_claims (s : State) (n : Nat) (f : Launch → Launch) : (s.withLaunch n f).claims = s.claims := rfl
@[simp] theorem State.withLaunch_buffers (s : State) (n : Nat) (f : Launch → Launch) : (s.withLaunch n f).buffers = s.buffers := rfl
@[simp] theorem State.withLaunch_jobs (s : State) (n : Nat) (f : Launch → Launch) : (s.withLaunch n f).jobs = s.jobs := rfl
@[simp] theorem State.withLaunch_reasons (s : State) (n : Nat) (f : Launch → Launch) : (s.withLaunch n f).reasons = s.reasons := rfl
@[simp] theorem State.withLaunch_finished (s : State) (n : Nat) (f : Launch → Launch) : (s.withLaunch n f).finished = s.finished := rfl
@[simp] theorem State.withLaunch_mcs (s : State) (n : Nat) (f : Launch → Launch) : (s.withLaunch n f).mcs = s.mcs := rfl
@[simp] theorem State.withLaunch_fresh (s : State) (n : Nat) (f : Launch → Launch) : (s.withLaunch n f).fresh = s.fresh := rfl
@[simp] theorem State.withLaunch_streams (s : State) (n : Nat) (f : Launch → Launch) : (s.withLaunch n f).streams = s.streams := rfl
@[simp] theorem State.withLaunch_prefixes (s : State) (n : Nat) (f : Launch → Launch) : (s.withLaunch n f).prefixes = s.prefixes := rfl
@[simp] theorem State.withLaunch_queues (s : State) (n : Nat) (f : Launch → Launch) : (s.withLaunch n f).queues = s.queues := rfl
@[simp] theorem State.withLaunch_groups (s : State) (n : Nat) (f : Launch → Launch) : (s.withLaunch n f).groups = s.groups := rfl
@[simp] theorem State.withLaunch_commands (s : State) (n : Nat) (f : Launch → Launch) : (s.withLaunch n f).commands = s.commands := rfl
@[simp] theorem State.withLaunch_results (s : State) (n : Nat) (f : Launch → Launch) : (s.withLaunch n f).results = s.results := rfl
@[simp] theorem State.withLaunch_residency (s : State) (n : Nat) (f : Launch → Launch) : (s.withLaunch n f).residency = s.residency := rfl
@[simp] theorem State.withLaunch_segments (s : State) (n : Nat) (f : Launch → Launch) : (s.withLaunch n f).segments = s.segments := rfl
@[simp] theorem State.withLaunch_drives (s : State) (n : Nat) (f : Launch → Launch) : (s.withLaunch n f).drives = s.drives := rfl
@[simp] theorem State.withLaunch_partitions (s : State) (n : Nat) (f : Launch → Launch) : (s.withLaunch n f).partitions = s.partitions := rfl
@[simp] theorem State.withLaunch_keys (s : State) (n : Nat) (f : Launch → Launch) : (s.withLaunch n f).keys = s.keys := rfl
@[simp] theorem State.withLaunch_frameKeys (s : State) (n : Nat) (f : Launch → Launch) : (s.withLaunch n f).frameKeys = s.frameKeys := rfl
@[simp] theorem State.withLaunch_tables (s : State) (n : Nat) (f : Launch → Launch) : (s.withLaunch n f).tables = s.tables := rfl
@[simp] theorem State.withLaunch_sweeps (s : State) (n : Nat) (f : Launch → Launch) : (s.withLaunch n f).sweeps = s.sweeps := rfl
@[simp] theorem State.withLaunch_ide (s : State) (n : Nat) (f : Launch → Launch) : (s.withLaunch n f).ide = s.ide := rfl
@[simp] theorem State.withLaunch_mailboxes (s : State) (n : Nat) (f : Launch → Launch) : (s.withLaunch n f).mailboxes = s.mailboxes := rfl
@[simp] theorem State.withLaunch_vfs (s : State) (n : Nat) (f : Launch → Launch) : (s.withLaunch n f).vfs = s.vfs := rfl
@[simp] theorem State.withLaunch_ccmd (s : State) (n : Nat) (f : Launch → Launch) : (s.withLaunch n f).ccmd = s.ccmd := rfl
@[simp] theorem State.withLaunch_cres (s : State) (n : Nat) (f : Launch → Launch) : (s.withLaunch n f).cres = s.cres := rfl
@[simp] theorem State.withLaunch_cgo (s : State) (n : Nat) (f : Launch → Launch) : (s.withLaunch n f).cgo = s.cgo := rfl
@[simp] theorem State.withLaunch_ctlRuns (s : State) (n : Nat) (f : Launch → Launch) : (s.withLaunch n f).ctlRuns = s.ctlRuns := rfl
@[simp] theorem State.withLaunch_rings (s : State) (n : Nat) (f : Launch → Launch) : (s.withLaunch n f).rings = s.rings := rfl
@[simp] theorem State.withLaunch_hostUp (s : State) (n : Nat) (f : Launch → Launch) : (s.withLaunch n f).hostUp = s.hostUp := rfl
@[simp] theorem State.withLaunch_ports (s : State) (n : Nat) (f : Launch → Launch) : (s.withLaunch n f).ports = s.ports := rfl
@[simp] theorem State.withLaunch_portDown (s : State) (n : Nat) (f : Launch → Launch) : (s.withLaunch n f).portDown = s.portDown := rfl
@[simp] theorem State.withLaunch_replay (s : State) (n : Nat) (f : Launch → Launch) : (s.withLaunch n f).replay = s.replay := rfl
@[simp] theorem State.withLaunch_replayStream (s : State) (n : Nat) (f : Launch → Launch) : (s.withLaunch n f).replayStream = s.replayStream := rfl
@[simp] theorem State.withLaunch_peers (s : State) (n : Nat) (f : Launch → Launch) : (s.withLaunch n f).peers = s.peers := rfl
@[simp] theorem State.withLaunch_localIndex (s : State) (n : Nat) (f : Launch → Launch) : (s.withLaunch n f).localIndex = s.localIndex := rfl
@[simp] theorem State.withLaunch_migration (s : State) (n : Nat) (f : Launch → Launch) : (s.withLaunch n f).migration = s.migration := rfl
@[simp] theorem State.withLaunch_posted (s : State) (n : Nat) (f : Launch → Launch) : (s.withLaunch n f).posted = s.posted := rfl
@[simp] theorem State.withLaunch_incoming (s : State) (n : Nat) (f : Launch → Launch) : (s.withLaunch n f).incoming = s.incoming := rfl
@[simp] theorem State.withLaunch_forwards (s : State) (n : Nat) (f : Launch → Launch) : (s.withLaunch n f).forwards = s.forwards := rfl
@[simp] theorem State.withLaunch_migrated (s : State) (n : Nat) (f : Launch → Launch) : (s.withLaunch n f).migrated = s.migrated := rfl
@[simp] theorem State.withLaunch_firmware (s : State) (n : Nat) (f : Launch → Launch) : (s.withLaunch n f).firmware = s.firmware := rfl
@[simp] theorem State.withLaunch_dies (s : State) (n : Nat) (f : Launch → Launch) : (s.withLaunch n f).dies = s.dies := rfl
@[simp] theorem State.withLaunch_links (s : State) (n : Nat) (f : Launch → Launch) : (s.withLaunch n f).links = s.links := rfl
@[simp] theorem State.withLaunch_telemetry (s : State) (n : Nat) (f : Launch → Launch) : (s.withLaunch n f).telemetry = s.telemetry := rfl
@[simp] theorem State.withLaunch_jobsDone (s : State) (n : Nat) (f : Launch → Launch) : (s.withLaunch n f).jobsDone = s.jobsDone := rfl
@[simp] theorem State.withLaunch_rungs (s : State) (n : Nat) (f : Launch → Launch) : (s.withLaunch n f).rungs = s.rungs := rfl
@[simp] theorem State.withLaunch_phase (s : State) (n : Nat) (f : Launch → Launch) : (s.withLaunch n f).phase = s.phase := rfl
@[simp] theorem State.withLaunch_warm (s : State) (n : Nat) (f : Launch → Launch) : (s.withLaunch n f).warm = s.warm := rfl
@[simp] theorem State.withLaunch_starting (s : State) (n : Nat) (f : Launch → Launch) : (s.withLaunch n f).starting = s.starting := rfl
@[simp] theorem State.withLaunch_starts (s : State) (n : Nat) (f : Launch → Launch) : (s.withLaunch n f).starts = s.starts := rfl
@[simp] theorem State.withLaunch_refused (s : State) (n : Nat) (f : Launch → Launch) : (s.withLaunch n f).refused = s.refused := rfl
@[simp] theorem State.withLaunch_out (s : State) (n : Nat) (f : Launch → Launch) : (s.withLaunch n f).out = s.out := rfl
@[simp] theorem State.withJob_agenda (s : State) (n : Nat) (f : Job → Job) : (s.withJob n f).agenda = s.agenda := rfl
@[simp] theorem State.withJob_cur (s : State) (n : Nat) (f : Job → Job) : (s.withJob n f).cur = s.cur := rfl
@[simp] theorem State.withJob_cyc (s : State) (n : Nat) (f : Job → Job) : (s.withJob n f).cyc = s.cyc := rfl
@[simp] theorem State.withJob_mem (s : State) (n : Nat) (f : Job → Job) : (s.withJob n f).mem = s.mem := rfl
@[simp] theorem State.withJob_upsets (s : State) (n : Nat) (f : Job → Job) : (s.withJob n f).upsets = s.upsets := rfl
@[simp] theorem State.withJob_cells (s : State) (n : Nat) (f : Job → Job) : (s.withJob n f).cells = s.cells := rfl
@[simp] theorem State.withJob_granules (s : State) (n : Nat) (f : Job → Job) : (s.withJob n f).granules = s.granules := rfl
@[simp] theorem State.withJob_claims (s : State) (n : Nat) (f : Job → Job) : (s.withJob n f).claims = s.claims := rfl
@[simp] theorem State.withJob_buffers (s : State) (n : Nat) (f : Job → Job) : (s.withJob n f).buffers = s.buffers := rfl
@[simp] theorem State.withJob_launches (s : State) (n : Nat) (f : Job → Job) : (s.withJob n f).launches = s.launches := rfl
@[simp] theorem State.withJob_reasons (s : State) (n : Nat) (f : Job → Job) : (s.withJob n f).reasons = s.reasons := rfl
@[simp] theorem State.withJob_finished (s : State) (n : Nat) (f : Job → Job) : (s.withJob n f).finished = s.finished := rfl
@[simp] theorem State.withJob_mcs (s : State) (n : Nat) (f : Job → Job) : (s.withJob n f).mcs = s.mcs := rfl
@[simp] theorem State.withJob_fresh (s : State) (n : Nat) (f : Job → Job) : (s.withJob n f).fresh = s.fresh := rfl
@[simp] theorem State.withJob_streams (s : State) (n : Nat) (f : Job → Job) : (s.withJob n f).streams = s.streams := rfl
@[simp] theorem State.withJob_prefixes (s : State) (n : Nat) (f : Job → Job) : (s.withJob n f).prefixes = s.prefixes := rfl
@[simp] theorem State.withJob_queues (s : State) (n : Nat) (f : Job → Job) : (s.withJob n f).queues = s.queues := rfl
@[simp] theorem State.withJob_groups (s : State) (n : Nat) (f : Job → Job) : (s.withJob n f).groups = s.groups := rfl
@[simp] theorem State.withJob_commands (s : State) (n : Nat) (f : Job → Job) : (s.withJob n f).commands = s.commands := rfl
@[simp] theorem State.withJob_results (s : State) (n : Nat) (f : Job → Job) : (s.withJob n f).results = s.results := rfl
@[simp] theorem State.withJob_residency (s : State) (n : Nat) (f : Job → Job) : (s.withJob n f).residency = s.residency := rfl
@[simp] theorem State.withJob_segments (s : State) (n : Nat) (f : Job → Job) : (s.withJob n f).segments = s.segments := rfl
@[simp] theorem State.withJob_drives (s : State) (n : Nat) (f : Job → Job) : (s.withJob n f).drives = s.drives := rfl
@[simp] theorem State.withJob_partitions (s : State) (n : Nat) (f : Job → Job) : (s.withJob n f).partitions = s.partitions := rfl
@[simp] theorem State.withJob_keys (s : State) (n : Nat) (f : Job → Job) : (s.withJob n f).keys = s.keys := rfl
@[simp] theorem State.withJob_frameKeys (s : State) (n : Nat) (f : Job → Job) : (s.withJob n f).frameKeys = s.frameKeys := rfl
@[simp] theorem State.withJob_tables (s : State) (n : Nat) (f : Job → Job) : (s.withJob n f).tables = s.tables := rfl
@[simp] theorem State.withJob_sweeps (s : State) (n : Nat) (f : Job → Job) : (s.withJob n f).sweeps = s.sweeps := rfl
@[simp] theorem State.withJob_ide (s : State) (n : Nat) (f : Job → Job) : (s.withJob n f).ide = s.ide := rfl
@[simp] theorem State.withJob_mailboxes (s : State) (n : Nat) (f : Job → Job) : (s.withJob n f).mailboxes = s.mailboxes := rfl
@[simp] theorem State.withJob_vfs (s : State) (n : Nat) (f : Job → Job) : (s.withJob n f).vfs = s.vfs := rfl
@[simp] theorem State.withJob_ccmd (s : State) (n : Nat) (f : Job → Job) : (s.withJob n f).ccmd = s.ccmd := rfl
@[simp] theorem State.withJob_cres (s : State) (n : Nat) (f : Job → Job) : (s.withJob n f).cres = s.cres := rfl
@[simp] theorem State.withJob_cgo (s : State) (n : Nat) (f : Job → Job) : (s.withJob n f).cgo = s.cgo := rfl
@[simp] theorem State.withJob_ctlRuns (s : State) (n : Nat) (f : Job → Job) : (s.withJob n f).ctlRuns = s.ctlRuns := rfl
@[simp] theorem State.withJob_rings (s : State) (n : Nat) (f : Job → Job) : (s.withJob n f).rings = s.rings := rfl
@[simp] theorem State.withJob_hostUp (s : State) (n : Nat) (f : Job → Job) : (s.withJob n f).hostUp = s.hostUp := rfl
@[simp] theorem State.withJob_ports (s : State) (n : Nat) (f : Job → Job) : (s.withJob n f).ports = s.ports := rfl
@[simp] theorem State.withJob_portDown (s : State) (n : Nat) (f : Job → Job) : (s.withJob n f).portDown = s.portDown := rfl
@[simp] theorem State.withJob_replay (s : State) (n : Nat) (f : Job → Job) : (s.withJob n f).replay = s.replay := rfl
@[simp] theorem State.withJob_replayStream (s : State) (n : Nat) (f : Job → Job) : (s.withJob n f).replayStream = s.replayStream := rfl
@[simp] theorem State.withJob_peers (s : State) (n : Nat) (f : Job → Job) : (s.withJob n f).peers = s.peers := rfl
@[simp] theorem State.withJob_localIndex (s : State) (n : Nat) (f : Job → Job) : (s.withJob n f).localIndex = s.localIndex := rfl
@[simp] theorem State.withJob_migration (s : State) (n : Nat) (f : Job → Job) : (s.withJob n f).migration = s.migration := rfl
@[simp] theorem State.withJob_posted (s : State) (n : Nat) (f : Job → Job) : (s.withJob n f).posted = s.posted := rfl
@[simp] theorem State.withJob_incoming (s : State) (n : Nat) (f : Job → Job) : (s.withJob n f).incoming = s.incoming := rfl
@[simp] theorem State.withJob_forwards (s : State) (n : Nat) (f : Job → Job) : (s.withJob n f).forwards = s.forwards := rfl
@[simp] theorem State.withJob_migrated (s : State) (n : Nat) (f : Job → Job) : (s.withJob n f).migrated = s.migrated := rfl
@[simp] theorem State.withJob_firmware (s : State) (n : Nat) (f : Job → Job) : (s.withJob n f).firmware = s.firmware := rfl
@[simp] theorem State.withJob_dies (s : State) (n : Nat) (f : Job → Job) : (s.withJob n f).dies = s.dies := rfl
@[simp] theorem State.withJob_links (s : State) (n : Nat) (f : Job → Job) : (s.withJob n f).links = s.links := rfl
@[simp] theorem State.withJob_telemetry (s : State) (n : Nat) (f : Job → Job) : (s.withJob n f).telemetry = s.telemetry := rfl
@[simp] theorem State.withJob_jobsDone (s : State) (n : Nat) (f : Job → Job) : (s.withJob n f).jobsDone = s.jobsDone := rfl
@[simp] theorem State.withJob_rungs (s : State) (n : Nat) (f : Job → Job) : (s.withJob n f).rungs = s.rungs := rfl
@[simp] theorem State.withJob_phase (s : State) (n : Nat) (f : Job → Job) : (s.withJob n f).phase = s.phase := rfl
@[simp] theorem State.withJob_warm (s : State) (n : Nat) (f : Job → Job) : (s.withJob n f).warm = s.warm := rfl
@[simp] theorem State.withJob_starting (s : State) (n : Nat) (f : Job → Job) : (s.withJob n f).starting = s.starting := rfl
@[simp] theorem State.withJob_starts (s : State) (n : Nat) (f : Job → Job) : (s.withJob n f).starts = s.starts := rfl
@[simp] theorem State.withJob_refused (s : State) (n : Nat) (f : Job → Job) : (s.withJob n f).refused = s.refused := rfl
@[simp] theorem State.withJob_out (s : State) (n : Nat) (f : Job → Job) : (s.withJob n f).out = s.out := rfl
@[simp] theorem State.withPartition_agenda (s : State) (p : Nat) (f : Partition → Partition) : (s.withPartition p f).agenda = s.agenda := rfl
@[simp] theorem State.withPartition_cur (s : State) (p : Nat) (f : Partition → Partition) : (s.withPartition p f).cur = s.cur := rfl
@[simp] theorem State.withPartition_cyc (s : State) (p : Nat) (f : Partition → Partition) : (s.withPartition p f).cyc = s.cyc := rfl
@[simp] theorem State.withPartition_mem (s : State) (p : Nat) (f : Partition → Partition) : (s.withPartition p f).mem = s.mem := rfl
@[simp] theorem State.withPartition_upsets (s : State) (p : Nat) (f : Partition → Partition) : (s.withPartition p f).upsets = s.upsets := rfl
@[simp] theorem State.withPartition_cells (s : State) (p : Nat) (f : Partition → Partition) : (s.withPartition p f).cells = s.cells := rfl
@[simp] theorem State.withPartition_granules (s : State) (p : Nat) (f : Partition → Partition) : (s.withPartition p f).granules = s.granules := rfl
@[simp] theorem State.withPartition_claims (s : State) (p : Nat) (f : Partition → Partition) : (s.withPartition p f).claims = s.claims := rfl
@[simp] theorem State.withPartition_buffers (s : State) (p : Nat) (f : Partition → Partition) : (s.withPartition p f).buffers = s.buffers := rfl
@[simp] theorem State.withPartition_launches (s : State) (p : Nat) (f : Partition → Partition) : (s.withPartition p f).launches = s.launches := rfl
@[simp] theorem State.withPartition_jobs (s : State) (p : Nat) (f : Partition → Partition) : (s.withPartition p f).jobs = s.jobs := rfl
@[simp] theorem State.withPartition_reasons (s : State) (p : Nat) (f : Partition → Partition) : (s.withPartition p f).reasons = s.reasons := rfl
@[simp] theorem State.withPartition_finished (s : State) (p : Nat) (f : Partition → Partition) : (s.withPartition p f).finished = s.finished := rfl
@[simp] theorem State.withPartition_mcs (s : State) (p : Nat) (f : Partition → Partition) : (s.withPartition p f).mcs = s.mcs := rfl
@[simp] theorem State.withPartition_fresh (s : State) (p : Nat) (f : Partition → Partition) : (s.withPartition p f).fresh = s.fresh := rfl
@[simp] theorem State.withPartition_streams (s : State) (p : Nat) (f : Partition → Partition) : (s.withPartition p f).streams = s.streams := rfl
@[simp] theorem State.withPartition_prefixes (s : State) (p : Nat) (f : Partition → Partition) : (s.withPartition p f).prefixes = s.prefixes := rfl
@[simp] theorem State.withPartition_queues (s : State) (p : Nat) (f : Partition → Partition) : (s.withPartition p f).queues = s.queues := rfl
@[simp] theorem State.withPartition_groups (s : State) (p : Nat) (f : Partition → Partition) : (s.withPartition p f).groups = s.groups := rfl
@[simp] theorem State.withPartition_commands (s : State) (p : Nat) (f : Partition → Partition) : (s.withPartition p f).commands = s.commands := rfl
@[simp] theorem State.withPartition_results (s : State) (p : Nat) (f : Partition → Partition) : (s.withPartition p f).results = s.results := rfl
@[simp] theorem State.withPartition_residency (s : State) (p : Nat) (f : Partition → Partition) : (s.withPartition p f).residency = s.residency := rfl
@[simp] theorem State.withPartition_segments (s : State) (p : Nat) (f : Partition → Partition) : (s.withPartition p f).segments = s.segments := rfl
@[simp] theorem State.withPartition_drives (s : State) (p : Nat) (f : Partition → Partition) : (s.withPartition p f).drives = s.drives := rfl
@[simp] theorem State.withPartition_keys (s : State) (p : Nat) (f : Partition → Partition) : (s.withPartition p f).keys = s.keys := rfl
@[simp] theorem State.withPartition_frameKeys (s : State) (p : Nat) (f : Partition → Partition) : (s.withPartition p f).frameKeys = s.frameKeys := rfl
@[simp] theorem State.withPartition_tables (s : State) (p : Nat) (f : Partition → Partition) : (s.withPartition p f).tables = s.tables := rfl
@[simp] theorem State.withPartition_sweeps (s : State) (p : Nat) (f : Partition → Partition) : (s.withPartition p f).sweeps = s.sweeps := rfl
@[simp] theorem State.withPartition_ide (s : State) (p : Nat) (f : Partition → Partition) : (s.withPartition p f).ide = s.ide := rfl
@[simp] theorem State.withPartition_mailboxes (s : State) (p : Nat) (f : Partition → Partition) : (s.withPartition p f).mailboxes = s.mailboxes := rfl
@[simp] theorem State.withPartition_vfs (s : State) (p : Nat) (f : Partition → Partition) : (s.withPartition p f).vfs = s.vfs := rfl
@[simp] theorem State.withPartition_ccmd (s : State) (p : Nat) (f : Partition → Partition) : (s.withPartition p f).ccmd = s.ccmd := rfl
@[simp] theorem State.withPartition_cres (s : State) (p : Nat) (f : Partition → Partition) : (s.withPartition p f).cres = s.cres := rfl
@[simp] theorem State.withPartition_cgo (s : State) (p : Nat) (f : Partition → Partition) : (s.withPartition p f).cgo = s.cgo := rfl
@[simp] theorem State.withPartition_ctlRuns (s : State) (p : Nat) (f : Partition → Partition) : (s.withPartition p f).ctlRuns = s.ctlRuns := rfl
@[simp] theorem State.withPartition_rings (s : State) (p : Nat) (f : Partition → Partition) : (s.withPartition p f).rings = s.rings := rfl
@[simp] theorem State.withPartition_hostUp (s : State) (p : Nat) (f : Partition → Partition) : (s.withPartition p f).hostUp = s.hostUp := rfl
@[simp] theorem State.withPartition_ports (s : State) (p : Nat) (f : Partition → Partition) : (s.withPartition p f).ports = s.ports := rfl
@[simp] theorem State.withPartition_portDown (s : State) (p : Nat) (f : Partition → Partition) : (s.withPartition p f).portDown = s.portDown := rfl
@[simp] theorem State.withPartition_replay (s : State) (p : Nat) (f : Partition → Partition) : (s.withPartition p f).replay = s.replay := rfl
@[simp] theorem State.withPartition_replayStream (s : State) (p : Nat) (f : Partition → Partition) : (s.withPartition p f).replayStream = s.replayStream := rfl
@[simp] theorem State.withPartition_peers (s : State) (p : Nat) (f : Partition → Partition) : (s.withPartition p f).peers = s.peers := rfl
@[simp] theorem State.withPartition_localIndex (s : State) (p : Nat) (f : Partition → Partition) : (s.withPartition p f).localIndex = s.localIndex := rfl
@[simp] theorem State.withPartition_migration (s : State) (p : Nat) (f : Partition → Partition) : (s.withPartition p f).migration = s.migration := rfl
@[simp] theorem State.withPartition_posted (s : State) (p : Nat) (f : Partition → Partition) : (s.withPartition p f).posted = s.posted := rfl
@[simp] theorem State.withPartition_incoming (s : State) (p : Nat) (f : Partition → Partition) : (s.withPartition p f).incoming = s.incoming := rfl
@[simp] theorem State.withPartition_forwards (s : State) (p : Nat) (f : Partition → Partition) : (s.withPartition p f).forwards = s.forwards := rfl
@[simp] theorem State.withPartition_migrated (s : State) (p : Nat) (f : Partition → Partition) : (s.withPartition p f).migrated = s.migrated := rfl
@[simp] theorem State.withPartition_firmware (s : State) (p : Nat) (f : Partition → Partition) : (s.withPartition p f).firmware = s.firmware := rfl
@[simp] theorem State.withPartition_dies (s : State) (p : Nat) (f : Partition → Partition) : (s.withPartition p f).dies = s.dies := rfl
@[simp] theorem State.withPartition_links (s : State) (p : Nat) (f : Partition → Partition) : (s.withPartition p f).links = s.links := rfl
@[simp] theorem State.withPartition_telemetry (s : State) (p : Nat) (f : Partition → Partition) : (s.withPartition p f).telemetry = s.telemetry := rfl
@[simp] theorem State.withPartition_jobsDone (s : State) (p : Nat) (f : Partition → Partition) : (s.withPartition p f).jobsDone = s.jobsDone := rfl
@[simp] theorem State.withPartition_rungs (s : State) (p : Nat) (f : Partition → Partition) : (s.withPartition p f).rungs = s.rungs := rfl
@[simp] theorem State.withPartition_phase (s : State) (p : Nat) (f : Partition → Partition) : (s.withPartition p f).phase = s.phase := rfl
@[simp] theorem State.withPartition_warm (s : State) (p : Nat) (f : Partition → Partition) : (s.withPartition p f).warm = s.warm := rfl
@[simp] theorem State.withPartition_starting (s : State) (p : Nat) (f : Partition → Partition) : (s.withPartition p f).starting = s.starting := rfl
@[simp] theorem State.withPartition_starts (s : State) (p : Nat) (f : Partition → Partition) : (s.withPartition p f).starts = s.starts := rfl
@[simp] theorem State.withPartition_refused (s : State) (p : Nat) (f : Partition → Partition) : (s.withPartition p f).refused = s.refused := rfl
@[simp] theorem State.withPartition_out (s : State) (p : Nat) (f : Partition → Partition) : (s.withPartition p f).out = s.out := rfl
@[simp] theorem State.withSrec_agenda (s : State) (n : Nat) (f : StreamRec → StreamRec) : (s.withSrec n f).agenda = s.agenda := rfl
@[simp] theorem State.withSrec_cur (s : State) (n : Nat) (f : StreamRec → StreamRec) : (s.withSrec n f).cur = s.cur := rfl
@[simp] theorem State.withSrec_cyc (s : State) (n : Nat) (f : StreamRec → StreamRec) : (s.withSrec n f).cyc = s.cyc := rfl
@[simp] theorem State.withSrec_mem (s : State) (n : Nat) (f : StreamRec → StreamRec) : (s.withSrec n f).mem = s.mem := rfl
@[simp] theorem State.withSrec_upsets (s : State) (n : Nat) (f : StreamRec → StreamRec) : (s.withSrec n f).upsets = s.upsets := rfl
@[simp] theorem State.withSrec_cells (s : State) (n : Nat) (f : StreamRec → StreamRec) : (s.withSrec n f).cells = s.cells := rfl
@[simp] theorem State.withSrec_granules (s : State) (n : Nat) (f : StreamRec → StreamRec) : (s.withSrec n f).granules = s.granules := rfl
@[simp] theorem State.withSrec_claims (s : State) (n : Nat) (f : StreamRec → StreamRec) : (s.withSrec n f).claims = s.claims := rfl
@[simp] theorem State.withSrec_buffers (s : State) (n : Nat) (f : StreamRec → StreamRec) : (s.withSrec n f).buffers = s.buffers := rfl
@[simp] theorem State.withSrec_launches (s : State) (n : Nat) (f : StreamRec → StreamRec) : (s.withSrec n f).launches = s.launches := rfl
@[simp] theorem State.withSrec_jobs (s : State) (n : Nat) (f : StreamRec → StreamRec) : (s.withSrec n f).jobs = s.jobs := rfl
@[simp] theorem State.withSrec_reasons (s : State) (n : Nat) (f : StreamRec → StreamRec) : (s.withSrec n f).reasons = s.reasons := rfl
@[simp] theorem State.withSrec_finished (s : State) (n : Nat) (f : StreamRec → StreamRec) : (s.withSrec n f).finished = s.finished := rfl
@[simp] theorem State.withSrec_mcs (s : State) (n : Nat) (f : StreamRec → StreamRec) : (s.withSrec n f).mcs = s.mcs := rfl
@[simp] theorem State.withSrec_fresh (s : State) (n : Nat) (f : StreamRec → StreamRec) : (s.withSrec n f).fresh = s.fresh := rfl
@[simp] theorem State.withSrec_prefixes (s : State) (n : Nat) (f : StreamRec → StreamRec) : (s.withSrec n f).prefixes = s.prefixes := rfl
@[simp] theorem State.withSrec_queues (s : State) (n : Nat) (f : StreamRec → StreamRec) : (s.withSrec n f).queues = s.queues := rfl
@[simp] theorem State.withSrec_groups (s : State) (n : Nat) (f : StreamRec → StreamRec) : (s.withSrec n f).groups = s.groups := rfl
@[simp] theorem State.withSrec_commands (s : State) (n : Nat) (f : StreamRec → StreamRec) : (s.withSrec n f).commands = s.commands := rfl
@[simp] theorem State.withSrec_results (s : State) (n : Nat) (f : StreamRec → StreamRec) : (s.withSrec n f).results = s.results := rfl
@[simp] theorem State.withSrec_residency (s : State) (n : Nat) (f : StreamRec → StreamRec) : (s.withSrec n f).residency = s.residency := rfl
@[simp] theorem State.withSrec_segments (s : State) (n : Nat) (f : StreamRec → StreamRec) : (s.withSrec n f).segments = s.segments := rfl
@[simp] theorem State.withSrec_drives (s : State) (n : Nat) (f : StreamRec → StreamRec) : (s.withSrec n f).drives = s.drives := rfl
@[simp] theorem State.withSrec_partitions (s : State) (n : Nat) (f : StreamRec → StreamRec) : (s.withSrec n f).partitions = s.partitions := rfl
@[simp] theorem State.withSrec_keys (s : State) (n : Nat) (f : StreamRec → StreamRec) : (s.withSrec n f).keys = s.keys := rfl
@[simp] theorem State.withSrec_frameKeys (s : State) (n : Nat) (f : StreamRec → StreamRec) : (s.withSrec n f).frameKeys = s.frameKeys := rfl
@[simp] theorem State.withSrec_tables (s : State) (n : Nat) (f : StreamRec → StreamRec) : (s.withSrec n f).tables = s.tables := rfl
@[simp] theorem State.withSrec_sweeps (s : State) (n : Nat) (f : StreamRec → StreamRec) : (s.withSrec n f).sweeps = s.sweeps := rfl
@[simp] theorem State.withSrec_ide (s : State) (n : Nat) (f : StreamRec → StreamRec) : (s.withSrec n f).ide = s.ide := rfl
@[simp] theorem State.withSrec_mailboxes (s : State) (n : Nat) (f : StreamRec → StreamRec) : (s.withSrec n f).mailboxes = s.mailboxes := rfl
@[simp] theorem State.withSrec_vfs (s : State) (n : Nat) (f : StreamRec → StreamRec) : (s.withSrec n f).vfs = s.vfs := rfl
@[simp] theorem State.withSrec_ccmd (s : State) (n : Nat) (f : StreamRec → StreamRec) : (s.withSrec n f).ccmd = s.ccmd := rfl
@[simp] theorem State.withSrec_cres (s : State) (n : Nat) (f : StreamRec → StreamRec) : (s.withSrec n f).cres = s.cres := rfl
@[simp] theorem State.withSrec_cgo (s : State) (n : Nat) (f : StreamRec → StreamRec) : (s.withSrec n f).cgo = s.cgo := rfl
@[simp] theorem State.withSrec_ctlRuns (s : State) (n : Nat) (f : StreamRec → StreamRec) : (s.withSrec n f).ctlRuns = s.ctlRuns := rfl
@[simp] theorem State.withSrec_rings (s : State) (n : Nat) (f : StreamRec → StreamRec) : (s.withSrec n f).rings = s.rings := rfl
@[simp] theorem State.withSrec_hostUp (s : State) (n : Nat) (f : StreamRec → StreamRec) : (s.withSrec n f).hostUp = s.hostUp := rfl
@[simp] theorem State.withSrec_ports (s : State) (n : Nat) (f : StreamRec → StreamRec) : (s.withSrec n f).ports = s.ports := rfl
@[simp] theorem State.withSrec_portDown (s : State) (n : Nat) (f : StreamRec → StreamRec) : (s.withSrec n f).portDown = s.portDown := rfl
@[simp] theorem State.withSrec_replay (s : State) (n : Nat) (f : StreamRec → StreamRec) : (s.withSrec n f).replay = s.replay := rfl
@[simp] theorem State.withSrec_replayStream (s : State) (n : Nat) (f : StreamRec → StreamRec) : (s.withSrec n f).replayStream = s.replayStream := rfl
@[simp] theorem State.withSrec_peers (s : State) (n : Nat) (f : StreamRec → StreamRec) : (s.withSrec n f).peers = s.peers := rfl
@[simp] theorem State.withSrec_localIndex (s : State) (n : Nat) (f : StreamRec → StreamRec) : (s.withSrec n f).localIndex = s.localIndex := rfl
@[simp] theorem State.withSrec_migration (s : State) (n : Nat) (f : StreamRec → StreamRec) : (s.withSrec n f).migration = s.migration := rfl
@[simp] theorem State.withSrec_posted (s : State) (n : Nat) (f : StreamRec → StreamRec) : (s.withSrec n f).posted = s.posted := rfl
@[simp] theorem State.withSrec_incoming (s : State) (n : Nat) (f : StreamRec → StreamRec) : (s.withSrec n f).incoming = s.incoming := rfl
@[simp] theorem State.withSrec_forwards (s : State) (n : Nat) (f : StreamRec → StreamRec) : (s.withSrec n f).forwards = s.forwards := rfl
@[simp] theorem State.withSrec_migrated (s : State) (n : Nat) (f : StreamRec → StreamRec) : (s.withSrec n f).migrated = s.migrated := rfl
@[simp] theorem State.withSrec_firmware (s : State) (n : Nat) (f : StreamRec → StreamRec) : (s.withSrec n f).firmware = s.firmware := rfl
@[simp] theorem State.withSrec_dies (s : State) (n : Nat) (f : StreamRec → StreamRec) : (s.withSrec n f).dies = s.dies := rfl
@[simp] theorem State.withSrec_links (s : State) (n : Nat) (f : StreamRec → StreamRec) : (s.withSrec n f).links = s.links := rfl
@[simp] theorem State.withSrec_telemetry (s : State) (n : Nat) (f : StreamRec → StreamRec) : (s.withSrec n f).telemetry = s.telemetry := rfl
@[simp] theorem State.withSrec_jobsDone (s : State) (n : Nat) (f : StreamRec → StreamRec) : (s.withSrec n f).jobsDone = s.jobsDone := rfl
@[simp] theorem State.withSrec_rungs (s : State) (n : Nat) (f : StreamRec → StreamRec) : (s.withSrec n f).rungs = s.rungs := rfl
@[simp] theorem State.withSrec_phase (s : State) (n : Nat) (f : StreamRec → StreamRec) : (s.withSrec n f).phase = s.phase := rfl
@[simp] theorem State.withSrec_warm (s : State) (n : Nat) (f : StreamRec → StreamRec) : (s.withSrec n f).warm = s.warm := rfl
@[simp] theorem State.withSrec_starting (s : State) (n : Nat) (f : StreamRec → StreamRec) : (s.withSrec n f).starting = s.starting := rfl
@[simp] theorem State.withSrec_starts (s : State) (n : Nat) (f : StreamRec → StreamRec) : (s.withSrec n f).starts = s.starts := rfl
@[simp] theorem State.withSrec_refused (s : State) (n : Nat) (f : StreamRec → StreamRec) : (s.withSrec n f).refused = s.refused := rfl
@[simp] theorem State.withSrec_out (s : State) (n : Nat) (f : StreamRec → StreamRec) : (s.withSrec n f).out = s.out := rfl
@[simp] theorem State.withDie_agenda (s : State) (d : Nat) (f : Die → Die) : (s.withDie d f).agenda = s.agenda := rfl
@[simp] theorem State.withDie_cur (s : State) (d : Nat) (f : Die → Die) : (s.withDie d f).cur = s.cur := rfl
@[simp] theorem State.withDie_cyc (s : State) (d : Nat) (f : Die → Die) : (s.withDie d f).cyc = s.cyc := rfl
@[simp] theorem State.withDie_mem (s : State) (d : Nat) (f : Die → Die) : (s.withDie d f).mem = s.mem := rfl
@[simp] theorem State.withDie_upsets (s : State) (d : Nat) (f : Die → Die) : (s.withDie d f).upsets = s.upsets := rfl
@[simp] theorem State.withDie_cells (s : State) (d : Nat) (f : Die → Die) : (s.withDie d f).cells = s.cells := rfl
@[simp] theorem State.withDie_granules (s : State) (d : Nat) (f : Die → Die) : (s.withDie d f).granules = s.granules := rfl
@[simp] theorem State.withDie_claims (s : State) (d : Nat) (f : Die → Die) : (s.withDie d f).claims = s.claims := rfl
@[simp] theorem State.withDie_buffers (s : State) (d : Nat) (f : Die → Die) : (s.withDie d f).buffers = s.buffers := rfl
@[simp] theorem State.withDie_launches (s : State) (d : Nat) (f : Die → Die) : (s.withDie d f).launches = s.launches := rfl
@[simp] theorem State.withDie_jobs (s : State) (d : Nat) (f : Die → Die) : (s.withDie d f).jobs = s.jobs := rfl
@[simp] theorem State.withDie_reasons (s : State) (d : Nat) (f : Die → Die) : (s.withDie d f).reasons = s.reasons := rfl
@[simp] theorem State.withDie_finished (s : State) (d : Nat) (f : Die → Die) : (s.withDie d f).finished = s.finished := rfl
@[simp] theorem State.withDie_mcs (s : State) (d : Nat) (f : Die → Die) : (s.withDie d f).mcs = s.mcs := rfl
@[simp] theorem State.withDie_fresh (s : State) (d : Nat) (f : Die → Die) : (s.withDie d f).fresh = s.fresh := rfl
@[simp] theorem State.withDie_streams (s : State) (d : Nat) (f : Die → Die) : (s.withDie d f).streams = s.streams := rfl
@[simp] theorem State.withDie_prefixes (s : State) (d : Nat) (f : Die → Die) : (s.withDie d f).prefixes = s.prefixes := rfl
@[simp] theorem State.withDie_queues (s : State) (d : Nat) (f : Die → Die) : (s.withDie d f).queues = s.queues := rfl
@[simp] theorem State.withDie_groups (s : State) (d : Nat) (f : Die → Die) : (s.withDie d f).groups = s.groups := rfl
@[simp] theorem State.withDie_commands (s : State) (d : Nat) (f : Die → Die) : (s.withDie d f).commands = s.commands := rfl
@[simp] theorem State.withDie_results (s : State) (d : Nat) (f : Die → Die) : (s.withDie d f).results = s.results := rfl
@[simp] theorem State.withDie_residency (s : State) (d : Nat) (f : Die → Die) : (s.withDie d f).residency = s.residency := rfl
@[simp] theorem State.withDie_segments (s : State) (d : Nat) (f : Die → Die) : (s.withDie d f).segments = s.segments := rfl
@[simp] theorem State.withDie_drives (s : State) (d : Nat) (f : Die → Die) : (s.withDie d f).drives = s.drives := rfl
@[simp] theorem State.withDie_partitions (s : State) (d : Nat) (f : Die → Die) : (s.withDie d f).partitions = s.partitions := rfl
@[simp] theorem State.withDie_keys (s : State) (d : Nat) (f : Die → Die) : (s.withDie d f).keys = s.keys := rfl
@[simp] theorem State.withDie_frameKeys (s : State) (d : Nat) (f : Die → Die) : (s.withDie d f).frameKeys = s.frameKeys := rfl
@[simp] theorem State.withDie_tables (s : State) (d : Nat) (f : Die → Die) : (s.withDie d f).tables = s.tables := rfl
@[simp] theorem State.withDie_sweeps (s : State) (d : Nat) (f : Die → Die) : (s.withDie d f).sweeps = s.sweeps := rfl
@[simp] theorem State.withDie_ide (s : State) (d : Nat) (f : Die → Die) : (s.withDie d f).ide = s.ide := rfl
@[simp] theorem State.withDie_mailboxes (s : State) (d : Nat) (f : Die → Die) : (s.withDie d f).mailboxes = s.mailboxes := rfl
@[simp] theorem State.withDie_vfs (s : State) (d : Nat) (f : Die → Die) : (s.withDie d f).vfs = s.vfs := rfl
@[simp] theorem State.withDie_ccmd (s : State) (d : Nat) (f : Die → Die) : (s.withDie d f).ccmd = s.ccmd := rfl
@[simp] theorem State.withDie_cres (s : State) (d : Nat) (f : Die → Die) : (s.withDie d f).cres = s.cres := rfl
@[simp] theorem State.withDie_cgo (s : State) (d : Nat) (f : Die → Die) : (s.withDie d f).cgo = s.cgo := rfl
@[simp] theorem State.withDie_ctlRuns (s : State) (d : Nat) (f : Die → Die) : (s.withDie d f).ctlRuns = s.ctlRuns := rfl
@[simp] theorem State.withDie_rings (s : State) (d : Nat) (f : Die → Die) : (s.withDie d f).rings = s.rings := rfl
@[simp] theorem State.withDie_hostUp (s : State) (d : Nat) (f : Die → Die) : (s.withDie d f).hostUp = s.hostUp := rfl
@[simp] theorem State.withDie_ports (s : State) (d : Nat) (f : Die → Die) : (s.withDie d f).ports = s.ports := rfl
@[simp] theorem State.withDie_portDown (s : State) (d : Nat) (f : Die → Die) : (s.withDie d f).portDown = s.portDown := rfl
@[simp] theorem State.withDie_replay (s : State) (d : Nat) (f : Die → Die) : (s.withDie d f).replay = s.replay := rfl
@[simp] theorem State.withDie_replayStream (s : State) (d : Nat) (f : Die → Die) : (s.withDie d f).replayStream = s.replayStream := rfl
@[simp] theorem State.withDie_peers (s : State) (d : Nat) (f : Die → Die) : (s.withDie d f).peers = s.peers := rfl
@[simp] theorem State.withDie_localIndex (s : State) (d : Nat) (f : Die → Die) : (s.withDie d f).localIndex = s.localIndex := rfl
@[simp] theorem State.withDie_migration (s : State) (d : Nat) (f : Die → Die) : (s.withDie d f).migration = s.migration := rfl
@[simp] theorem State.withDie_posted (s : State) (d : Nat) (f : Die → Die) : (s.withDie d f).posted = s.posted := rfl
@[simp] theorem State.withDie_incoming (s : State) (d : Nat) (f : Die → Die) : (s.withDie d f).incoming = s.incoming := rfl
@[simp] theorem State.withDie_forwards (s : State) (d : Nat) (f : Die → Die) : (s.withDie d f).forwards = s.forwards := rfl
@[simp] theorem State.withDie_migrated (s : State) (d : Nat) (f : Die → Die) : (s.withDie d f).migrated = s.migrated := rfl
@[simp] theorem State.withDie_firmware (s : State) (d : Nat) (f : Die → Die) : (s.withDie d f).firmware = s.firmware := rfl
@[simp] theorem State.withDie_links (s : State) (d : Nat) (f : Die → Die) : (s.withDie d f).links = s.links := rfl
@[simp] theorem State.withDie_telemetry (s : State) (d : Nat) (f : Die → Die) : (s.withDie d f).telemetry = s.telemetry := rfl
@[simp] theorem State.withDie_jobsDone (s : State) (d : Nat) (f : Die → Die) : (s.withDie d f).jobsDone = s.jobsDone := rfl
@[simp] theorem State.withDie_rungs (s : State) (d : Nat) (f : Die → Die) : (s.withDie d f).rungs = s.rungs := rfl
@[simp] theorem State.withDie_phase (s : State) (d : Nat) (f : Die → Die) : (s.withDie d f).phase = s.phase := rfl
@[simp] theorem State.withDie_warm (s : State) (d : Nat) (f : Die → Die) : (s.withDie d f).warm = s.warm := rfl
@[simp] theorem State.withDie_starting (s : State) (d : Nat) (f : Die → Die) : (s.withDie d f).starting = s.starting := rfl
@[simp] theorem State.withDie_starts (s : State) (d : Nat) (f : Die → Die) : (s.withDie d f).starts = s.starts := rfl
@[simp] theorem State.withDie_refused (s : State) (d : Nat) (f : Die → Die) : (s.withDie d f).refused = s.refused := rfl
@[simp] theorem State.withDie_out (s : State) (d : Nat) (f : Die → Die) : (s.withDie d f).out = s.out := rfl

/-! ### Updates of a slot -/

@[simp] theorem Slot.withTokens_bound (l : Slot) (p c : Stream) (f : Nat → Nat) : (l.withTokens p c f).bound = l.bound := rfl
@[simp] theorem Slot.withTokens_s (l : Slot) (p c : Stream) (f : Nat → Nat) : (l.withTokens p c f).s = l.s := rfl
@[simp] theorem Slot.withTokens_v (l : Slot) (p c : Stream) (f : Nat → Nat) : (l.withTokens p c f).v = l.v := rfl
@[simp] theorem Slot.withTokens_m (l : Slot) (p c : Stream) (f : Nat → Nat) : (l.withTokens p c f).m = l.m := rfl
@[simp] theorem Slot.withTokens_x (l : Slot) (p c : Stream) (f : Nat → Nat) : (l.withTokens p c f).x = l.x := rfl
@[simp] theorem Slot.withTokens_vflight (l : Slot) (p c : Stream) (f : Nat → Nat) : (l.withTokens p c f).vflight = l.vflight := rfl
@[simp] theorem Slot.withTokens_mflight (l : Slot) (p c : Stream) (f : Nat → Nat) : (l.withTokens p c f).mflight = l.mflight := rfl
@[simp] theorem Slot.withTokens_xqueue (l : Slot) (p c : Stream) (f : Nat → Nat) : (l.withTokens p c f).xqueue = l.xqueue := rfl
@[simp] theorem Slot.withTokens_mstack (l : Slot) (p c : Stream) (f : Nat → Nat) : (l.withTokens p c f).mstack = l.mstack := rfl
@[simp] theorem Slot.withTokens_heap (l : Slot) (p c : Stream) (f : Nat → Nat) : (l.withTokens p c f).heap = l.heap := rfl
@[simp] theorem Slot.withTokens_hloss (l : Slot) (p c : Stream) (f : Nat → Nat) : (l.withTokens p c f).hloss = l.hloss := rfl
@[simp] theorem Slot.withTokens_hpopped (l : Slot) (p c : Stream) (f : Nat → Nat) : (l.withTokens p c f).hpopped = l.hpopped := rfl
@[simp] theorem Slot.withTokens_vrows (l : Slot) (p c : Stream) (f : Nat → Nat) : (l.withTokens p c f).vrows = l.vrows := rfl
@[simp] theorem Slot.withTokens_sr (l : Slot) (p c : Stream) (f : Nat → Nat) : (l.withTokens p c f).sr = l.sr := rfl
@[simp] theorem Slot.withTokens_attached (l : Slot) (p c : Stream) (f : Nat → Nat) : (l.withTokens p c f).attached = l.attached := rfl
@[simp] theorem Slot.withTokens_window (l : Slot) (p c : Stream) (f : Nat → Nat) : (l.withTokens p c f).window = l.window := rfl
@[simp] theorem Slot.withTokens_handler (l : Slot) (p c : Stream) (f : Nat → Nat) : (l.withTokens p c f).handler = l.handler := rfl
@[simp] theorem Slot.withTokens_submitted (l : Slot) (p c : Stream) (f : Nat → Nat) : (l.withTokens p c f).submitted = l.submitted := rfl
@[simp] theorem Slot.withTokens_cancel (l : Slot) (p c : Stream) (f : Nat → Nat) : (l.withTokens p c f).cancel = l.cancel := rfl
@[simp] theorem Slot.withTokens_tookCancel (l : Slot) (p c : Stream) (f : Nat → Nat) : (l.withTokens p c f).tookCancel = l.tookCancel := rfl
@[simp] theorem Slot.withTokens_deadline (l : Slot) (p c : Stream) (f : Nat → Nat) : (l.withTokens p c f).deadline = l.deadline := rfl
@[simp] theorem Slot.withTokens_activated (l : Slot) (p c : Stream) (f : Nat → Nat) : (l.withTokens p c f).activated = l.activated := rfl
@[simp] theorem Slot.withTokens_mpoison (l : Slot) (p c : Stream) (f : Nat → Nat) : (l.withTokens p c f).mpoison = l.mpoison := rfl
@[simp] theorem Slot.withTokens_sspans (l : Slot) (p c : Stream) (f : Nat → Nat) : (l.withTokens p c f).sspans = l.sspans := rfl
@[simp] theorem Slot.withTokens_forced (l : Slot) (p c : Stream) (f : Nat → Nat) : (l.withTokens p c f).forced = l.forced := rfl
@[simp] theorem Slot.withTokens_lastTrap (l : Slot) (p c : Stream) (f : Nat → Nat) : (l.withTokens p c f).lastTrap = l.lastTrap := rfl
@[simp] theorem Slot.withTokens_cancelOrder (l : Slot) (p c : Stream) (f : Nat → Nat) : (l.withTokens p c f).cancelOrder = l.cancelOrder := rfl
@[simp] theorem Slot.withTokens_beside (l : Slot) (p c : Stream) (f : Nat → Nat) : (l.withTokens p c f).beside = l.beside := rfl
@[simp] theorem Slot.beat_bound (l : Slot) : (l.beat).bound = l.bound := rfl
@[simp] theorem Slot.beat_s (l : Slot) : (l.beat).s = l.s := rfl
@[simp] theorem Slot.beat_v (l : Slot) : (l.beat).v = l.v := rfl
@[simp] theorem Slot.beat_m (l : Slot) : (l.beat).m = l.m := rfl
@[simp] theorem Slot.beat_x (l : Slot) : (l.beat).x = l.x := rfl
@[simp] theorem Slot.beat_fifo (l : Slot) : (l.beat).fifo = l.fifo := rfl
@[simp] theorem Slot.beat_mflight (l : Slot) : (l.beat).mflight = l.mflight := rfl
@[simp] theorem Slot.beat_xqueue (l : Slot) : (l.beat).xqueue = l.xqueue := rfl
@[simp] theorem Slot.beat_mstack (l : Slot) : (l.beat).mstack = l.mstack := rfl
@[simp] theorem Slot.beat_heap (l : Slot) : (l.beat).heap = l.heap := rfl
@[simp] theorem Slot.beat_hloss (l : Slot) : (l.beat).hloss = l.hloss := rfl
@[simp] theorem Slot.beat_hpopped (l : Slot) : (l.beat).hpopped = l.hpopped := rfl
@[simp] theorem Slot.beat_vrows (l : Slot) : (l.beat).vrows = l.vrows := rfl
@[simp] theorem Slot.beat_sr (l : Slot) : (l.beat).sr = l.sr := rfl
@[simp] theorem Slot.beat_attached (l : Slot) : (l.beat).attached = l.attached := rfl
@[simp] theorem Slot.beat_window (l : Slot) : (l.beat).window = l.window := rfl
@[simp] theorem Slot.beat_handler (l : Slot) : (l.beat).handler = l.handler := rfl
@[simp] theorem Slot.beat_submitted (l : Slot) : (l.beat).submitted = l.submitted := rfl
@[simp] theorem Slot.beat_cancel (l : Slot) : (l.beat).cancel = l.cancel := rfl
@[simp] theorem Slot.beat_tookCancel (l : Slot) : (l.beat).tookCancel = l.tookCancel := rfl
@[simp] theorem Slot.beat_deadline (l : Slot) : (l.beat).deadline = l.deadline := rfl
@[simp] theorem Slot.beat_activated (l : Slot) : (l.beat).activated = l.activated := rfl
@[simp] theorem Slot.beat_mpoison (l : Slot) : (l.beat).mpoison = l.mpoison := rfl
@[simp] theorem Slot.beat_sspans (l : Slot) : (l.beat).sspans = l.sspans := rfl
@[simp] theorem Slot.beat_forced (l : Slot) : (l.beat).forced = l.forced := rfl
@[simp] theorem Slot.beat_lastTrap (l : Slot) : (l.beat).lastTrap = l.lastTrap := rfl
@[simp] theorem Slot.beat_cancelOrder (l : Slot) : (l.beat).cancelOrder = l.cancelOrder := rfl
@[simp] theorem Slot.beat_beside (l : Slot) : (l.beat).beside = l.beside := rfl

/-! ### Updates of a stream -/

@[simp] theorem StreamSt.setL_pc (t : StreamSt) (n : Nat) (v : BitVec 32) : (t.setL n v).pc = t.pc := rfl
@[simp] theorem StreamSt.setL_entry (t : StreamSt) (n : Nat) (v : BitVec 32) : (t.setL n v).entry = t.entry := rfl
@[simp] theorem StreamSt.setL_line (t : StreamSt) (n : Nat) (v : BitVec 32) : (t.setL n v).line = t.line := rfl
@[simp] theorem StreamSt.setL_ahead (t : StreamSt) (n : Nat) (v : BitVec 32) : (t.setL n v).ahead = t.ahead := rfl
@[simp] theorem StreamSt.setL_halted (t : StreamSt) (n : Nat) (v : BitVec 32) : (t.setL n v).halted = t.halted := rfl
@[simp] theorem StreamSt.setL_notStarted (t : StreamSt) (n : Nat) (v : BitVec 32) : (t.setL n v).notStarted = t.notStarted := rfl
@[simp] theorem StreamSt.setL_sup (t : StreamSt) (n : Nat) (v : BitVec 32) : (t.setL n v).sup = t.sup := rfl
@[simp] theorem StreamSt.setL_retired (t : StreamSt) (n : Nat) (v : BitVec 32) : (t.setL n v).retired = t.retired := rfl
@[simp] theorem StreamSt.setL_g (t : StreamSt) (n : Nat) (v : BitVec 32) : (t.setL n v).g = t.g := rfl
@[simp] theorem StreamSt.setL_q (t : StreamSt) (n : Nat) (v : BitVec 32) : (t.setL n v).q = t.q := rfl
@[simp] theorem StreamSt.setL_vq (t : StreamSt) (n : Nat) (v : BitVec 32) : (t.setL n v).vq = t.vq := rfl
@[simp] theorem StreamSt.setL_e (t : StreamSt) (n : Nat) (v : BitVec 32) : (t.setL n v).e = t.e := rfl
@[simp] theorem StreamSt.setL_waiting (t : StreamSt) (n : Nat) (v : BitVec 32) : (t.setL n v).waiting = t.waiting := rfl
@[simp] theorem StreamSt.setL_buffer (t : StreamSt) (n : Nat) (v : BitVec 32) : (t.setL n v).buffer = t.buffer := rfl
@[simp] theorem StreamSt.setE_pc (t : StreamSt) (n : Nat) (v : Word) : (t.setE n v).pc = t.pc := rfl
@[simp] theorem StreamSt.setE_entry (t : StreamSt) (n : Nat) (v : Word) : (t.setE n v).entry = t.entry := rfl
@[simp] theorem StreamSt.setE_line (t : StreamSt) (n : Nat) (v : Word) : (t.setE n v).line = t.line := rfl
@[simp] theorem StreamSt.setE_ahead (t : StreamSt) (n : Nat) (v : Word) : (t.setE n v).ahead = t.ahead := rfl
@[simp] theorem StreamSt.setE_halted (t : StreamSt) (n : Nat) (v : Word) : (t.setE n v).halted = t.halted := rfl
@[simp] theorem StreamSt.setE_notStarted (t : StreamSt) (n : Nat) (v : Word) : (t.setE n v).notStarted = t.notStarted := rfl
@[simp] theorem StreamSt.setE_sup (t : StreamSt) (n : Nat) (v : Word) : (t.setE n v).sup = t.sup := rfl
@[simp] theorem StreamSt.setE_retired (t : StreamSt) (n : Nat) (v : Word) : (t.setE n v).retired = t.retired := rfl
@[simp] theorem StreamSt.setE_g (t : StreamSt) (n : Nat) (v : Word) : (t.setE n v).g = t.g := rfl
@[simp] theorem StreamSt.setE_q (t : StreamSt) (n : Nat) (v : Word) : (t.setE n v).q = t.q := rfl
@[simp] theorem StreamSt.setE_vq (t : StreamSt) (n : Nat) (v : Word) : (t.setE n v).vq = t.vq := rfl
@[simp] theorem StreamSt.setE_l (t : StreamSt) (n : Nat) (v : Word) : (t.setE n v).l = t.l := rfl
@[simp] theorem StreamSt.setE_waiting (t : StreamSt) (n : Nat) (v : Word) : (t.setE n v).waiting = t.waiting := rfl
@[simp] theorem StreamSt.setE_buffer (t : StreamSt) (n : Nat) (v : Word) : (t.setE n v).buffer = t.buffer := rfl
@[simp] theorem StreamSt.enter_halted (t : StreamSt) (pc : Nat) (l : Line) : (t.enter pc l).halted = t.halted := rfl
@[simp] theorem StreamSt.enter_notStarted (t : StreamSt) (pc : Nat) (l : Line) : (t.enter pc l).notStarted = t.notStarted := rfl
@[simp] theorem StreamSt.enter_sup (t : StreamSt) (pc : Nat) (l : Line) : (t.enter pc l).sup = t.sup := rfl
@[simp] theorem StreamSt.enter_retired (t : StreamSt) (pc : Nat) (l : Line) : (t.enter pc l).retired = t.retired := rfl
@[simp] theorem StreamSt.enter_g (t : StreamSt) (pc : Nat) (l : Line) : (t.enter pc l).g = t.g := rfl
@[simp] theorem StreamSt.enter_q (t : StreamSt) (pc : Nat) (l : Line) : (t.enter pc l).q = t.q := rfl
@[simp] theorem StreamSt.enter_vq (t : StreamSt) (pc : Nat) (l : Line) : (t.enter pc l).vq = t.vq := rfl
@[simp] theorem StreamSt.enter_l (t : StreamSt) (pc : Nat) (l : Line) : (t.enter pc l).l = t.l := rfl
@[simp] theorem StreamSt.enter_e (t : StreamSt) (pc : Nat) (l : Line) : (t.enter pc l).e = t.e := rfl
@[simp] theorem StreamSt.enter_waiting (t : StreamSt) (pc : Nat) (l : Line) : (t.enter pc l).waiting = t.waiting := rfl
@[simp] theorem StreamSt.enter_buffer (t : StreamSt) (pc : Nat) (l : Line) : (t.enter pc l).buffer = t.buffer := rfl
@[simp] theorem StreamSt.setG_pc (t : StreamSt) (n : Nat) (v : Word) : (t.setG n v).pc = t.pc := by unfold StreamSt.setG; split <;> rfl
@[simp] theorem StreamSt.setG_entry (t : StreamSt) (n : Nat) (v : Word) : (t.setG n v).entry = t.entry := by unfold StreamSt.setG; split <;> rfl
@[simp] theorem StreamSt.setG_line (t : StreamSt) (n : Nat) (v : Word) : (t.setG n v).line = t.line := by unfold StreamSt.setG; split <;> rfl
@[simp] theorem StreamSt.setG_ahead (t : StreamSt) (n : Nat) (v : Word) : (t.setG n v).ahead = t.ahead := by unfold StreamSt.setG; split <;> rfl
@[simp] theorem StreamSt.setG_halted (t : StreamSt) (n : Nat) (v : Word) : (t.setG n v).halted = t.halted := by unfold StreamSt.setG; split <;> rfl
@[simp] theorem StreamSt.setG_notStarted (t : StreamSt) (n : Nat) (v : Word) : (t.setG n v).notStarted = t.notStarted := by unfold StreamSt.setG; split <;> rfl
@[simp] theorem StreamSt.setG_sup (t : StreamSt) (n : Nat) (v : Word) : (t.setG n v).sup = t.sup := by unfold StreamSt.setG; split <;> rfl
@[simp] theorem StreamSt.setG_retired (t : StreamSt) (n : Nat) (v : Word) : (t.setG n v).retired = t.retired := by unfold StreamSt.setG; split <;> rfl
@[simp] theorem StreamSt.setG_q (t : StreamSt) (n : Nat) (v : Word) : (t.setG n v).q = t.q := by unfold StreamSt.setG; split <;> rfl
@[simp] theorem StreamSt.setG_vq (t : StreamSt) (n : Nat) (v : Word) : (t.setG n v).vq = t.vq := by unfold StreamSt.setG; split <;> rfl
@[simp] theorem StreamSt.setG_l (t : StreamSt) (n : Nat) (v : Word) : (t.setG n v).l = t.l := by unfold StreamSt.setG; split <;> rfl
@[simp] theorem StreamSt.setG_e (t : StreamSt) (n : Nat) (v : Word) : (t.setG n v).e = t.e := by unfold StreamSt.setG; split <;> rfl
@[simp] theorem StreamSt.setG_waiting (t : StreamSt) (n : Nat) (v : Word) : (t.setG n v).waiting = t.waiting := by unfold StreamSt.setG; split <;> rfl
@[simp] theorem StreamSt.setG_buffer (t : StreamSt) (n : Nat) (v : Word) : (t.setG n v).buffer = t.buffer := by unfold StreamSt.setG; split <;> rfl
@[simp] theorem StreamSt.setQ_pc (t : StreamSt) (n : Nat) (v : Bool) : (t.setQ n v).pc = t.pc := by unfold StreamSt.setQ; split <;> rfl
@[simp] theorem StreamSt.setQ_entry (t : StreamSt) (n : Nat) (v : Bool) : (t.setQ n v).entry = t.entry := by unfold StreamSt.setQ; split <;> rfl
@[simp] theorem StreamSt.setQ_line (t : StreamSt) (n : Nat) (v : Bool) : (t.setQ n v).line = t.line := by unfold StreamSt.setQ; split <;> rfl
@[simp] theorem StreamSt.setQ_ahead (t : StreamSt) (n : Nat) (v : Bool) : (t.setQ n v).ahead = t.ahead := by unfold StreamSt.setQ; split <;> rfl
@[simp] theorem StreamSt.setQ_halted (t : StreamSt) (n : Nat) (v : Bool) : (t.setQ n v).halted = t.halted := by unfold StreamSt.setQ; split <;> rfl
@[simp] theorem StreamSt.setQ_notStarted (t : StreamSt) (n : Nat) (v : Bool) : (t.setQ n v).notStarted = t.notStarted := by unfold StreamSt.setQ; split <;> rfl
@[simp] theorem StreamSt.setQ_sup (t : StreamSt) (n : Nat) (v : Bool) : (t.setQ n v).sup = t.sup := by unfold StreamSt.setQ; split <;> rfl
@[simp] theorem StreamSt.setQ_retired (t : StreamSt) (n : Nat) (v : Bool) : (t.setQ n v).retired = t.retired := by unfold StreamSt.setQ; split <;> rfl
@[simp] theorem StreamSt.setQ_g (t : StreamSt) (n : Nat) (v : Bool) : (t.setQ n v).g = t.g := by unfold StreamSt.setQ; split <;> rfl
@[simp] theorem StreamSt.setQ_vq (t : StreamSt) (n : Nat) (v : Bool) : (t.setQ n v).vq = t.vq := by unfold StreamSt.setQ; split <;> rfl
@[simp] theorem StreamSt.setQ_l (t : StreamSt) (n : Nat) (v : Bool) : (t.setQ n v).l = t.l := by unfold StreamSt.setQ; split <;> rfl
@[simp] theorem StreamSt.setQ_e (t : StreamSt) (n : Nat) (v : Bool) : (t.setQ n v).e = t.e := by unfold StreamSt.setQ; split <;> rfl
@[simp] theorem StreamSt.setQ_waiting (t : StreamSt) (n : Nat) (v : Bool) : (t.setQ n v).waiting = t.waiting := by unfold StreamSt.setQ; split <;> rfl
@[simp] theorem StreamSt.setQ_buffer (t : StreamSt) (n : Nat) (v : Bool) : (t.setQ n v).buffer = t.buffer := by unfold StreamSt.setQ; split <;> rfl
@[simp] theorem StreamSt.setVq_pc (t : StreamSt) (n : Nat) (v : Mask) : (t.setVq n v).pc = t.pc := by unfold StreamSt.setVq; split <;> rfl
@[simp] theorem StreamSt.setVq_entry (t : StreamSt) (n : Nat) (v : Mask) : (t.setVq n v).entry = t.entry := by unfold StreamSt.setVq; split <;> rfl
@[simp] theorem StreamSt.setVq_line (t : StreamSt) (n : Nat) (v : Mask) : (t.setVq n v).line = t.line := by unfold StreamSt.setVq; split <;> rfl
@[simp] theorem StreamSt.setVq_ahead (t : StreamSt) (n : Nat) (v : Mask) : (t.setVq n v).ahead = t.ahead := by unfold StreamSt.setVq; split <;> rfl
@[simp] theorem StreamSt.setVq_halted (t : StreamSt) (n : Nat) (v : Mask) : (t.setVq n v).halted = t.halted := by unfold StreamSt.setVq; split <;> rfl
@[simp] theorem StreamSt.setVq_notStarted (t : StreamSt) (n : Nat) (v : Mask) : (t.setVq n v).notStarted = t.notStarted := by unfold StreamSt.setVq; split <;> rfl
@[simp] theorem StreamSt.setVq_sup (t : StreamSt) (n : Nat) (v : Mask) : (t.setVq n v).sup = t.sup := by unfold StreamSt.setVq; split <;> rfl
@[simp] theorem StreamSt.setVq_retired (t : StreamSt) (n : Nat) (v : Mask) : (t.setVq n v).retired = t.retired := by unfold StreamSt.setVq; split <;> rfl
@[simp] theorem StreamSt.setVq_g (t : StreamSt) (n : Nat) (v : Mask) : (t.setVq n v).g = t.g := by unfold StreamSt.setVq; split <;> rfl
@[simp] theorem StreamSt.setVq_q (t : StreamSt) (n : Nat) (v : Mask) : (t.setVq n v).q = t.q := by unfold StreamSt.setVq; split <;> rfl
@[simp] theorem StreamSt.setVq_l (t : StreamSt) (n : Nat) (v : Mask) : (t.setVq n v).l = t.l := by unfold StreamSt.setVq; split <;> rfl
@[simp] theorem StreamSt.setVq_e (t : StreamSt) (n : Nat) (v : Mask) : (t.setVq n v).e = t.e := by unfold StreamSt.setVq; split <;> rfl
@[simp] theorem StreamSt.setVq_waiting (t : StreamSt) (n : Nat) (v : Mask) : (t.setVq n v).waiting = t.waiting := by unfold StreamSt.setVq; split <;> rfl
@[simp] theorem StreamSt.setVq_buffer (t : StreamSt) (n : Nat) (v : Mask) : (t.setVq n v).buffer = t.buffer := by unfold StreamSt.setVq; split <;> rfl
@[simp] theorem StreamSt.advance_line (t : StreamSt) (n : Nat) : (t.advance n).line = t.line := by unfold StreamSt.advance; simp only; split_ifs <;> rfl
@[simp] theorem StreamSt.advance_notStarted (t : StreamSt) (n : Nat) : (t.advance n).notStarted = t.notStarted := by unfold StreamSt.advance; simp only; split_ifs <;> rfl
@[simp] theorem StreamSt.advance_sup (t : StreamSt) (n : Nat) : (t.advance n).sup = t.sup := by unfold StreamSt.advance; simp only; split_ifs <;> rfl
@[simp] theorem StreamSt.advance_retired (t : StreamSt) (n : Nat) : (t.advance n).retired = t.retired := by unfold StreamSt.advance; simp only; split_ifs <;> rfl
@[simp] theorem StreamSt.advance_g (t : StreamSt) (n : Nat) : (t.advance n).g = t.g := by unfold StreamSt.advance; simp only; split_ifs <;> rfl
@[simp] theorem StreamSt.advance_q (t : StreamSt) (n : Nat) : (t.advance n).q = t.q := by unfold StreamSt.advance; simp only; split_ifs <;> rfl
@[simp] theorem StreamSt.advance_vq (t : StreamSt) (n : Nat) : (t.advance n).vq = t.vq := by unfold StreamSt.advance; simp only; split_ifs <;> rfl
@[simp] theorem StreamSt.advance_l (t : StreamSt) (n : Nat) : (t.advance n).l = t.l := by unfold StreamSt.advance; simp only; split_ifs <;> rfl
@[simp] theorem StreamSt.advance_e (t : StreamSt) (n : Nat) : (t.advance n).e = t.e := by unfold StreamSt.advance; simp only; split_ifs <;> rfl
@[simp] theorem StreamSt.advance_waiting (t : StreamSt) (n : Nat) : (t.advance n).waiting = t.waiting := by unfold StreamSt.advance; simp only; split_ifs <;> rfl
@[simp] theorem StreamSt.advance_buffer (t : StreamSt) (n : Nat) : (t.advance n).buffer = t.buffer := by unfold StreamSt.advance; simp only; split_ifs <;> rfl

/-! ### Reading a part after its own update -/

theorem State.cell_withCell (s : State) (c k : Nat) (f : CellSt → CellSt) :
    (s.withCell c f).cell k = if k = c then f (s.cell c) else s.cell k := Map.get_put _ _ _ _ _

@[simp] theorem State.cell_withCell_same (s : State) (c : Nat) (f : CellSt → CellSt) : (s.withCell c f).cell c = f (s.cell c) := by
  simp [State.cell_withCell]

theorem CellSt.slot_withSlot (c : CellSt) (a b : Bool) (f : Slot → Slot) :
    (c.withSlot a f).slot b = if b = a then f (c.slot a) else c.slot b := by
  cases a <;> cases b <;> rfl

@[simp] theorem CellSt.tile_withSlot (c : CellSt) (a : Bool) (f : Slot → Slot) (t : Nat) : (c.withSlot a f).tile t = c.tile t := by
  cases a <;> rfl

@[simp] theorem CellSt.slot_withTile (c : CellSt) (t : Nat) (f : Tile → Tile) (b : Bool) : (c.withTile t f).slot b = c.slot b := by
  unfold CellSt.withTile CellSt.slot; split_ifs <;> rfl

@[simp] theorem State.slot_withSlot_same (s : State) (u : SlotId) (f : Slot → Slot) : (s.withSlot u f).slot u = f (s.slot u) := by
  simp [State.slot, State.withSlot, CellSt.slot_withSlot]

theorem State.slot_withSlot_other (s : State) {u w : SlotId} (f : Slot → Slot) (h : w ≠ u) : (s.withSlot u f).slot w = s.slot w := by
  unfold State.slot State.withSlot
  rw [State.cell_withCell]
  split_ifs with hc
  · rw [CellSt.slot_withSlot, if_neg, hc]
    intro hh
    exact h (by cases w; cases u; simp_all)
  · rfl

theorem State.cell_withSlot_other (s : State) (u : SlotId) (c : Nat) (f : Slot → Slot) (h : c ≠ u.cell) : (s.withSlot u f).cell c = s.cell c := by
  unfold State.withSlot
  rw [State.cell_withCell, if_neg h]

@[simp] theorem State.tile_withSlot (s : State) (u : SlotId) (f : Slot → Slot) (c t : Nat) :
    ((s.withSlot u f).cell c).tile t = (s.cell c).tile t := by
  unfold State.withSlot
  rw [State.cell_withCell]
  split_ifs with hc
  · simp [hc]
  · rfl

@[simp] theorem Slot.stream_withStream_same (l : Slot) (st : Stream) (f : StreamSt → StreamSt) : (l.withStream st f).stream st = f (l.stream st) := by
  cases st <;> rfl

theorem Slot.stream_withStream_other (l : Slot) {st other : Stream} (f : StreamSt → StreamSt) (h : other ≠ st) :
    (l.withStream st f).stream other = l.stream other := by
  cases st <;> cases other <;> first | rfl | exact absurd rfl h

@[simp] theorem Slot.stream_withTokens (l : Slot) (p c : Stream) (f : Nat → Nat) (st : Stream) : (l.withTokens p c f).stream st = l.stream st := by
  cases st <;> rfl

theorem Slot.tokens_withTokens (l : Slot) (p c a b : Stream) (f : Nat → Nat) :
    (l.withTokens p c f).tokens a b = if a = p ∧ b = c then f (l.tokens p c) else l.tokens a b := by
  unfold Slot.tokens Slot.withTokens
  rw [Map.get_put]
  have e : (4 * a.code + b.code = 4 * p.code + c.code) ↔ (a = p ∧ b = c) := by
    cases a <;> cases b <;> cases p <;> cases c <;> decide
  simp only [e]; rfl

@[simp] theorem Slot.tokens_withStream (l : Slot) (st : Stream) (f : StreamSt → StreamSt) (a b : Stream) :
    (l.withStream st f).tokens a b = l.tokens a b := by
  cases st <;> rfl

@[simp] theorem State.stream_withStream_same (s : State) (c : Cursor) (f : StreamSt → StreamSt) : (s.withStream c f).stream c = f (s.stream c) := by
  simp [State.stream, State.withStream]

@[simp] theorem State.me_withMe (s : State) (f : StreamSt → StreamSt) : (s.withMe f).me = f s.me := State.stream_withStream_same s s.cur f

@[simp] theorem State.here_withHere (s : State) (f : Slot → Slot) : (s.withHere f).here = f s.here := State.slot_withSlot_same s s.cur.slot f

theorem State.here_withMe (s : State) (f : StreamSt → StreamSt) : (s.withMe f).here = s.here.withStream s.cur.stream f :=
  State.slot_withSlot_same s s.cur.slot _

theorem State.me_withHere (s : State) (f : Slot → Slot) : (s.withHere f).me = (f s.here).stream s.cur.stream := by
  show ((s.withHere f).here).stream s.cur.stream = _
  rw [State.here_withHere]

theorem State.me_eq (s : State) : s.me = s.here.stream s.cur.stream := rfl

theorem State.mc_withMc (s : State) (k j : Nat) (f : MicroContext → MicroContext) : (s.withMc k f).mc j = if j = k then f (s.mc k) else s.mc j :=
  Map.get_put _ _ _ _ _

@[simp] theorem State.mc_withMc_same (s : State) (k : Nat) (f : MicroContext → MicroContext) : (s.withMc k f).mc k = f (s.mc k) := by
  simp [State.mc_withMc]

theorem State.partition_withPartition (s : State) (k j : Nat) (f : Partition → Partition) : (s.withPartition k f).partition j = if j = k then f (s.partition k) else s.partition j :=
  Map.get_put _ _ _ _ _

@[simp] theorem State.partition_withPartition_same (s : State) (k : Nat) (f : Partition → Partition) : (s.withPartition k f).partition k = f (s.partition k) := by
  simp [State.partition_withPartition]

theorem State.srec_withSrec (s : State) (k j : Nat) (f : StreamRec → StreamRec) : (s.withSrec k f).srec j = if j = k then f (s.srec k) else s.srec j :=
  Map.get_put _ _ _ _ _

@[simp] theorem State.srec_withSrec_same (s : State) (k : Nat) (f : StreamRec → StreamRec) : (s.withSrec k f).srec k = f (s.srec k) := by
  simp [State.srec_withSrec]

theorem State.die_withDie (s : State) (k j : Nat) (f : Die → Die) : (s.withDie k f).die j = if j = k then f (s.die k) else s.die j :=
  Map.get_put _ _ _ _ _

@[simp] theorem State.die_withDie_same (s : State) (k : Nat) (f : Die → Die) : (s.withDie k f).die k = f (s.die k) := by
  simp [State.die_withDie]


/-! ### Registers after a write -/

theorem StreamSt.gReg_setG (t : StreamSt) (n k : Nat) (v : Word) : (t.setG n v).gReg k = if k = n ∧ n ≠ 0 then v else t.gReg k := by
  unfold StreamSt.setG StreamSt.gReg
  by_cases hn : n = 0
  · simp [hn]
  · by_cases hk : k = 0
    · subst hk; simp [hn, Ne.symm hn]
    · simp [hn, hk, Map.get_put]

theorem StreamSt.qReg_setQ (t : StreamSt) (n k : Nat) (v : Bool) : (t.setQ n v).qReg k = if k = n ∧ n ≠ 0 then v else t.qReg k := by
  unfold StreamSt.setQ StreamSt.qReg
  by_cases hn : n = 0
  · simp [hn]
  · by_cases hk : k = 0
    · subst hk; simp [hn, Ne.symm hn]
    · simp [hn, hk, Map.get_put]

theorem StreamSt.vqReg_setVq (t : StreamSt) (n k : Nat) (v : Mask) : (t.setVq n v).vqReg k = if k = n ∧ n ≠ 0 then v else t.vqReg k := by
  unfold StreamSt.setVq StreamSt.vqReg
  by_cases hn : n = 0
  · simp [hn]
  · by_cases hk : k = 0
    · subst hk; simp [hn, Ne.symm hn]
    · simp [hn, hk, Map.get_put]

theorem StreamSt.lReg_setL (t : StreamSt) (n k : Nat) (v : BitVec 32) : (t.setL n v).lReg k = if k = n then v else t.lReg k :=
  Map.get_put _ _ _ _ _

theorem StreamSt.eReg_setE (t : StreamSt) (n k : Nat) (v : Word) : (t.setE n v).eReg k = if k = n then v else t.eReg k :=
  Map.get_put _ _ _ _ _

@[simp] theorem StreamSt.qReg_setG (t : StreamSt) (n k : Nat) (v : Word) : (t.setG n v).qReg k = t.qReg k := by simp [StreamSt.qReg]
@[simp] theorem StreamSt.vqReg_setG (t : StreamSt) (n k : Nat) (v : Word) : (t.setG n v).vqReg k = t.vqReg k := by simp [StreamSt.vqReg]
@[simp] theorem StreamSt.lReg_setG (t : StreamSt) (n k : Nat) (v : Word) : (t.setG n v).lReg k = t.lReg k := by simp [StreamSt.lReg]
@[simp] theorem StreamSt.eReg_setG (t : StreamSt) (n k : Nat) (v : Word) : (t.setG n v).eReg k = t.eReg k := by simp [StreamSt.eReg]
@[simp] theorem StreamSt.gReg_setQ (t : StreamSt) (n k : Nat) (v : Bool) : (t.setQ n v).gReg k = t.gReg k := by simp [StreamSt.gReg]
@[simp] theorem StreamSt.vqReg_setQ (t : StreamSt) (n k : Nat) (v : Bool) : (t.setQ n v).vqReg k = t.vqReg k := by simp [StreamSt.vqReg]
@[simp] theorem StreamSt.lReg_setQ (t : StreamSt) (n k : Nat) (v : Bool) : (t.setQ n v).lReg k = t.lReg k := by simp [StreamSt.lReg]
@[simp] theorem StreamSt.eReg_setQ (t : StreamSt) (n k : Nat) (v : Bool) : (t.setQ n v).eReg k = t.eReg k := by simp [StreamSt.eReg]
@[simp] theorem StreamSt.gReg_setVq (t : StreamSt) (n k : Nat) (v : Mask) : (t.setVq n v).gReg k = t.gReg k := by simp [StreamSt.gReg]
@[simp] theorem StreamSt.qReg_setVq (t : StreamSt) (n k : Nat) (v : Mask) : (t.setVq n v).qReg k = t.qReg k := by simp [StreamSt.qReg]
@[simp] theorem StreamSt.lReg_setVq (t : StreamSt) (n k : Nat) (v : Mask) : (t.setVq n v).lReg k = t.lReg k := by simp [StreamSt.lReg]
@[simp] theorem StreamSt.eReg_setVq (t : StreamSt) (n k : Nat) (v : Mask) : (t.setVq n v).eReg k = t.eReg k := by simp [StreamSt.eReg]
@[simp] theorem StreamSt.gReg_setL (t : StreamSt) (n k : Nat) (v : BitVec 32) : (t.setL n v).gReg k = t.gReg k := by simp [StreamSt.gReg]
@[simp] theorem StreamSt.qReg_setL (t : StreamSt) (n k : Nat) (v : BitVec 32) : (t.setL n v).qReg k = t.qReg k := by simp [StreamSt.qReg]
@[simp] theorem StreamSt.vqReg_setL (t : StreamSt) (n k : Nat) (v : BitVec 32) : (t.setL n v).vqReg k = t.vqReg k := by simp [StreamSt.vqReg]
@[simp] theorem StreamSt.eReg_setL (t : StreamSt) (n k : Nat) (v : BitVec 32) : (t.setL n v).eReg k = t.eReg k := by simp [StreamSt.eReg]
@[simp] theorem StreamSt.gReg_setE (t : StreamSt) (n k : Nat) (v : Word) : (t.setE n v).gReg k = t.gReg k := by simp [StreamSt.gReg]
@[simp] theorem StreamSt.qReg_setE (t : StreamSt) (n k : Nat) (v : Word) : (t.setE n v).qReg k = t.qReg k := by simp [StreamSt.qReg]
@[simp] theorem StreamSt.vqReg_setE (t : StreamSt) (n k : Nat) (v : Word) : (t.setE n v).vqReg k = t.vqReg k := by simp [StreamSt.vqReg]
@[simp] theorem StreamSt.lReg_setE (t : StreamSt) (n k : Nat) (v : Word) : (t.setE n v).lReg k = t.lReg k := by simp [StreamSt.lReg]
@[simp] theorem StreamSt.gReg_advance (t : StreamSt) (n k : Nat) : (t.advance n).gReg k = t.gReg k := by simp [StreamSt.gReg]
@[simp] theorem StreamSt.gReg_enter (t : StreamSt) (pc : Nat) (l : Line) (k : Nat) : (t.enter pc l).gReg k = t.gReg k := rfl
@[simp] theorem StreamSt.qReg_advance (t : StreamSt) (n k : Nat) : (t.advance n).qReg k = t.qReg k := by simp [StreamSt.qReg]
@[simp] theorem StreamSt.qReg_enter (t : StreamSt) (pc : Nat) (l : Line) (k : Nat) : (t.enter pc l).qReg k = t.qReg k := rfl
@[simp] theorem StreamSt.vqReg_advance (t : StreamSt) (n k : Nat) : (t.advance n).vqReg k = t.vqReg k := by simp [StreamSt.vqReg]
@[simp] theorem StreamSt.vqReg_enter (t : StreamSt) (pc : Nat) (l : Line) (k : Nat) : (t.enter pc l).vqReg k = t.vqReg k := rfl
@[simp] theorem StreamSt.lReg_advance (t : StreamSt) (n k : Nat) : (t.advance n).lReg k = t.lReg k := by simp [StreamSt.lReg]
@[simp] theorem StreamSt.lReg_enter (t : StreamSt) (pc : Nat) (l : Line) (k : Nat) : (t.enter pc l).lReg k = t.lReg k := rfl
@[simp] theorem StreamSt.eReg_advance (t : StreamSt) (n k : Nat) : (t.advance n).eReg k = t.eReg k := by simp [StreamSt.eReg]
@[simp] theorem StreamSt.eReg_enter (t : StreamSt) (pc : Nat) (l : Line) (k : Nat) : (t.enter pc l).eReg k = t.eReg k := rfl

end Sys2Proof.Machine
end

