-- ==== Sys2Proof/Laws/Issue.lean ====
section
/-! SUPPORT. What the shared operations of issue do: landing leaves all but cells and memory, an instruction that can issue answers what
its body answers, an effect in the own stream retires and moves on, and a result of V enters flight. -/

namespace Sys2Proof.Machine

/-! ### Landing -/

theorem State.store_cur (s : State) (a : Nat) (bs : List Byte) : (s.store a bs).cur = s.cur := by
  unfold State.store State.refuse; split_ifs <;> rfl

theorem State.foldl_cur {β : Type} (f : State → β → State) (hf : ∀ s b t, f s b = t → t.cur = s.cur) (l : List β) (s : State) :
    (l.foldl f s).cur = s.cur := by
  induction l generalizing s with
  | nil => rfl
  | cons b t ih => simp only [List.foldl_cons]; rw [ih, hf s b _ rfl]

theorem State.setVReg_cur (s : State) (u : SlotId) (n : Nat) (v : Row) : (s.setVReg u n v).cur = s.cur := by
  unfold State.setVReg State.takeTile; split_ifs <;> rfl

theorem State.writeElems_cur (s : State) (u : SlotId) (n w : Nat) (m : Mask) (v : Row) : (s.writeElems u n w m v).cur = s.cur := by
  unfold State.writeElems; split_ifs
  · rfl
  · exact State.setVReg_cur _ _ _ _

theorem State.storeElems_cur (s : State) (u : SlotId) (e : VEntry) : (s.storeElems u e).cur = s.cur := by
  unfold State.storeElems
  refine State.foldl_cur _ (fun s b t ht => ?_) _ _
  subst ht
  exact State.store_cur _ _ _

theorem State.landEntry_cur (s : State) (u : SlotId) (e : VEntry) : (s.landEntry u e).cur = s.cur := by
  unfold State.landEntry
  rw [State.withSlot_cur]
  unfold State.landAccess
  split
  · rw [State.writeElems_cur]
  · rw [State.withSlot_cur]
  · rw [State.withSlot_cur]
  · rw [State.storeElems_cur]
  · rw [State.writeElems_cur]
  · rw [State.writeElems_cur, State.writeElems_cur]
  · rfl

theorem State.landDue_cur (s : State) (u : SlotId) (n : Nat) : (s.landDue u n).cur = s.cur := by
  induction n generalizing s with
  | zero => rfl
  | succ k ih =>
    unfold State.landDue
    split_ifs
    · rw [ih]
      unfold State.landOldest
      split
      · rfl
      · rw [State.landEntry_cur]; rfl
    · rfl

theorem landed_eq (s : State) (h : s.cur.stream ≠ .v) : landed s = s := by simp [landed, h]

theorem landed_cur (s : State) : (landed s).cur = s.cur := by
  unfold landed; split_ifs
  · exact State.landDue_cur _ _ _
  · rfl

/-! ### What an instruction that can issue answers -/

/-- No token is missing, and there is room for the post. -/
theorem State.blocked_none (s : State) (h : Hdr) (ht : ∀ p, h.wait = some p → s.here.tokens p s.cur.stream ≠ 0)
    (hr : ∀ q, h.post = some q → s.here.tokens s.cur.stream q + s.here.reserved s.cur.stream q < 16) : s.blocked h = none := by
  unfold State.blocked
  cases hw : h.wait with
  | none =>
    cases hp : h.post with
    | none => rfl
    | some q => have := hr q hp; simp only; rw [if_neg (by omega)]
  | some p =>
    have h1 := ht p hw
    simp only [h1, if_false]
    cases hp : h.post with
    | none => rfl
    | some q => have := hr q hp; simp only; rw [if_neg (by omega)]

theorem ready_blocked {h : Hdr} {s : State} (r : Ready h s) : (landed s).blocked h = none :=
  State.blocked_none _ h (by rw [landed_cur]; exact r.token) (by rw [landed_cur]; exact r.room)

theorem ready_idle {h : Hdr} {s : State} (r : Ready h s) : (landed s).streamBusy = none := by
  unfold State.streamBusy
  rw [landed_cur]
  cases hs : s.cur.stream with
  | s => rfl
  | x => rfl
  | v => rfl
  | m =>
    have := r.begun hs
    have e : landed s = s := landed_eq s (by rw [hs]; decide)
    simp [e, this]

theorem State.whenLanded_ready {h : Hdr} {s : State} (r : Ready h s) (k : State → State) : s.whenLanded k = k (landed s) := by
  unfold State.whenLanded landed
  split_ifs with hv
  · simp [r.lands hv]
  · rfl

/-- An instruction with a whole guard that can issue: its body if the guard holds, and no more than its tokens if not. -/
theorem State.issueTo_ready {h : Hdr} {s : State} (r : Ready h s) (d : Dest) (body : State → Eff) :
    s.issueTo h d body = (landed s).conclude h d
      (if ((landed s).popToken h).guardHolds h then body ((landed s).popToken h) else .done ((landed s).popToken h)) := by
  unfold State.issueTo
  rw [State.whenLanded_ready r]
  simp only [ready_blocked r, ready_idle r]

theorem State.issueVector_ready {h : Hdr} {s : State} (r : Ready h s) (body : State → Eff) :
    s.issueVector h body = (landed s).conclude h .none (body ((landed s).popToken h)) := by
  unfold State.issueVector
  rw [State.whenLanded_ready r]
  simp only [ready_blocked r, ready_idle r]

theorem runTo_ready {h : Hdr} {s : State} (r : Ready h s) (d : Dest) (body : State → Eff) :
    runTo h d body s = .next ((landed s).conclude h d
      (if ((landed s).popToken h).guardHolds h then body ((landed s).popToken h) else .done ((landed s).popToken h))) := by
  unfold runTo State.whenBound
  rw [if_pos r.bound]
  exact congrArg _ (State.issueTo_ready r d body)

theorem run_ready {h : Hdr} {s : State} (r : Ready h s) (body : State → Eff) :
    run h body s = .next ((landed s).conclude h .none
      (if ((landed s).popToken h).guardHolds h then body ((landed s).popToken h) else .done ((landed s).popToken h))) :=
  runTo_ready r .none body

theorem runVector_ready {h : Hdr} {s : State} (r : Ready h s) (body : State → Eff) :
    runVector h body s = .next ((landed s).conclude h .none (body ((landed s).popToken h))) := by
  unfold runVector State.whenBound
  rw [if_pos r.bound]
  exact congrArg _ (State.issueVector_ready r body)

/-! ### Popping a token leaves everything but the token counts -/

/-- The slot after a token was popped. -/
theorem State.popToken_eq (s : State) (h : Hdr) :
    s.popToken h = s ∨ ∃ p, h.wait = some p ∧ s.popToken h = s.withHere (fun l => l.withTokens p s.cur.stream (· - 1)) := by
  unfold State.popToken
  cases hw : h.wait with
  | none => exact .inl rfl
  | some p => exact .inr ⟨p, rfl, rfl⟩

@[simp] theorem State.popToken_cur (s : State) (h : Hdr) : (s.popToken h).cur = s.cur := by
  unfold State.popToken; split <;> rfl

@[simp] theorem State.popToken_me (s : State) (h : Hdr) : (s.popToken h).me = s.me := by
  unfold State.popToken; split
  · rw [State.me_withHere]; simp [State.me_eq]
  · rfl

@[simp] theorem State.popToken_rg (s : State) (h : Hdr) (n : Nat) : (s.popToken h).rg n = s.rg n := by simp [State.rg]
@[simp] theorem State.popToken_rq (s : State) (h : Hdr) (n : Nat) : (s.popToken h).rq n = s.rq n := by simp [State.rq]
@[simp] theorem State.popToken_rvq (s : State) (h : Hdr) (n : Nat) : (s.popToken h).rvq n = s.rvq n := by simp [State.rvq]
@[simp] theorem State.popToken_re (s : State) (h : Hdr) (n : Nat) : (s.popToken h).re n = s.re n := by simp [State.re]
@[simp] theorem State.popToken_mem (s : State) (h : Hdr) : (s.popToken h).mem = s.mem := by
  unfold State.popToken; split <;> rfl

@[simp] theorem State.popToken_fieldSrc (s : State) (h : Hdr) (x : FieldSrc) : (s.popToken h).fieldSrc x = s.fieldSrc x := by
  cases x <;> simp [State.fieldSrc]

theorem State.popToken_here (s : State) (h : Hdr) : ∃ f, (s.popToken h).here = { s.here with fifo := f } := by
  unfold State.popToken; split
  · exact ⟨_, State.here_withHere _ _⟩
  · exact ⟨s.here.fifo, rfl⟩

@[simp] theorem State.popToken_guardHolds (s : State) (h : Hdr) : (s.popToken h).guardHolds h = s.guardHolds h := by
  obtain ⟨f, hf⟩ := State.popToken_here s h
  unfold State.guardHolds
  simp only [hf, State.popToken_cur]
  cases s.cur.stream <;> rfl

/-! ### Changes of the own slot -/

/-- `t` is reached from `s` by changes of the slot that moves, which is `l` in `t`. -/
structure OwnSlot (s t : State) (l : Slot) : Prop where
  machine : t = { s with cells := t.cells }
  slots : ∀ u, u ≠ s.cur.slot → t.slot u = s.slot u
  tiles : ∀ c n, (t.cell c).tile n = (s.cell c).tile n
  here : t.here = l

theorem OwnSlot.refl (s : State) : OwnSlot s s s.here := ⟨rfl, fun _ _ => rfl, fun _ _ => rfl, rfl⟩

theorem OwnSlot.cur {s t : State} {l : Slot} (o : OwnSlot s t l) : t.cur = s.cur := by rw [o.machine]

theorem OwnSlot.withHere {s t : State} {l : Slot} (o : OwnSlot s t l) (f : Slot → Slot) : OwnSlot s (t.withHere f) (f l) := by
  refine ⟨?_, fun u hu => ?_, fun c n => ?_, ?_⟩
  · have e : t.withHere f = { t with cells := (t.withHere f).cells } := rfl
    rw [e, o.machine]
  · unfold State.withHere
    rw [State.slot_withSlot_other _ _ (by rw [o.cur]; exact hu), o.slots u hu]
  · unfold State.withHere
    rw [State.tile_withSlot, o.tiles]
  · rw [State.here_withHere, o.here]

theorem OwnSlot.withMe {s t : State} {l : Slot} (o : OwnSlot s t l) (f : StreamSt → StreamSt) :
    OwnSlot s (t.withMe f) (l.withStream s.cur.stream f) := by
  have := o.withHere (fun l => l.withStream s.cur.stream f)
  have e : t.withMe f = t.withHere (fun l => l.withStream s.cur.stream f) := by
    unfold State.withMe State.withHere State.withStream
    rw [o.cur]
  rw [e]; exact this

theorem OwnSlot.me {s t : State} {l : Slot} (o : OwnSlot s t l) : t.me = l.stream s.cur.stream := by
  rw [State.me_eq, o.here, o.cur]

theorem OwnSlot.mem {s t : State} {l : Slot} (o : OwnSlot s t l) : t.mem = s.mem := by rw [o.machine]

/-- The slot after a token was popped. -/
def popped (h : Hdr) (st : Stream) (l : Slot) : Slot :=
  match h.wait with
  | some p => l.withTokens p st (· - 1)
  | none => l

theorem OwnSlot.popToken {s t : State} {l : Slot} (o : OwnSlot s t l) (h : Hdr) : OwnSlot s (t.popToken h) (popped h s.cur.stream l) := by
  unfold State.popToken popped
  rw [o.cur]
  cases h.wait with
  | none => exact o
  | some p => exact o.withHere _

theorem OwnSlot.retire {s t : State} {l : Slot} (o : OwnSlot s t l) (h : Hdr) (hv : s.cur.stream ≠ .v) :
    OwnSlot s (t.retire h) (l.retireIn s.cur.stream h) := by
  unfold State.retire
  rw [o.cur]
  simp only [hv, if_false]
  exact o.withHere _

theorem OwnSlot.retireV {s t : State} {l : Slot} (o : OwnSlot s t l) (h : Hdr) (hv : s.cur.stream = .v) :
    OwnSlot s (t.retire h) (l.retireV h) := by
  unfold State.retire
  rw [o.cur]
  simp only [hv, if_true]
  exact o.withHere _

theorem OwnSlot.moveOn {s t : State} {l : Slot} (o : OwnSlot s t l) (h : Hdr) :
    OwnSlot s (t.moveOn h) (l.withStream s.cur.stream (fun t => { t.advance h.words with waiting := none })) := o.withMe _

/-- A unit whose moving stream has not halted goes on. -/
theorem State.settleUnit_running (s : State) (h : s.me.halted = false) : s.settleUnit s.cur.slot = s := by
  unfold State.settleUnit
  have hc : (s.slot s.cur.slot).complete = false := by
    have h' : ((s.slot s.cur.slot).stream s.cur.stream).halted = false := h
    unfold Slot.complete
    cases hst : s.cur.stream <;> rw [hst] at h' <;> simp only [Slot.stream] at h' <;> simp [h']
  simp only [hc]
  cases (s.slot s.cur.slot).bound <;> rfl

theorem StreamSt.advance_onward (t : StreamSt) (n : Nat) (h : wordIndex t.pc + n < t.line.count ∨ t.line.last = false) :
    (t.advance n).halted = t.halted := by
  unfold StreamSt.advance
  simp only
  split_ifs with h1 h2
  · rfl
  · rcases h with h | h
    · exact absurd h h1
    · rw [h2] at h; exact absurd h (by decide)
  · rfl

/-- The register files, line and mode of a stream are those that an instruction leaves; its place and counts may differ. -/
structure SamePlace (x y : StreamSt) : Prop where
  pc : y.pc = x.pc
  line : y.line = x.line
  halted : y.halted = x.halted
  retired : y.retired = x.retired
  sup : y.sup = x.sup

theorem samePlace_setG (t : StreamSt) (n : Nat) (v : Word) : SamePlace t (t.setG n v) := ⟨by simp, by simp, by simp, by simp, by simp⟩
theorem samePlace_setQ (t : StreamSt) (n : Nat) (v : Bool) : SamePlace t (t.setQ n v) := ⟨by simp, by simp, by simp, by simp, by simp⟩
theorem samePlace_setL (t : StreamSt) (n : Nat) (v : BitVec 32) : SamePlace t (t.setL n v) := ⟨rfl, rfl, rfl, rfl, rfl⟩
theorem samePlace_setE (t : StreamSt) (n : Nat) (v : Word) : SamePlace t (t.setE n v) := ⟨rfl, rfl, rfl, rfl, rfl⟩

/-- The program counter after an instruction that is not a halt (R105). -/
theorem StreamSt.advance_pc (t : StreamSt) (n : Nat) (h : wordIndex t.pc + n < t.line.count ∨ t.line.last = false) :
    (t.advance n).pc = if wordIndex t.pc + n < t.line.count then t.pc + 4 * n else t.line.nextPc := by
  unfold StreamSt.advance
  simp only
  split_ifs with h1 h2
  · rfl
  · rcases h with h | h
    · exact absurd h h1
    · rw [h2] at h; exact absurd h (by decide)
  · rfl

/-- A stream as an S, M or X instruction with an effect f on its registers leaves it. -/
def steppedStream (h : Hdr) (f : StreamSt → StreamSt) (x : StreamSt) : StreamSt :=
  { ({ f x with retired := (f x).retired + 1, waiting := none } : StreamSt).advance h.words with waiting := none }

theorem OwnSlot.only {s t : State} {l : Slot} (o : OwnSlot s t l) (hl : l = { s.here.withStream s.cur.stream (fun _ => l.stream s.cur.stream) with fifo := l.fifo }) :
    OnlyStream s t :=
  ⟨o.machine, fun a => by rw [o.mem], o.slots, o.tiles, by rw [o.me, o.here]; exact hl⟩

/-- The limit on results in flight holds back instructions of V alone. -/
theorem State.overfull_other (s : State) (h : Hdr) (hv : s.cur.stream ≠ .v) : s.overfull h = false := by simp [State.overfull, hv]

/-- An effect that leaves the place of the stream that moves as it was: the instruction retires and moves on from the state it made. -/
theorem State.done_state (s s1 : State) (h : Hdr) (d : Dest) (hc : s1.cur = s.cur) (hm : SamePlace s.me s1.me)
    (htk : ∀ p c, s1.here.tokens p c = (s.popToken h).here.tokens p c) (hv : s.cur.stream ≠ .v) (ho : Onward h s) :
    ∃ t, s.conclude h d (.done s1) = t ∧ OnlyStream s1 t ∧ Advanced h s t ∧ t.me = steppedStream h id s1.me := by
  have hv1 : s1.cur.stream ≠ .v := by rw [hc]; exact hv
  let l1 := s1.here.retireIn s1.cur.stream h
  have o : OwnSlot s1 ((s1.retire h).moveOn h) (l1.withStream s1.cur.stream (fun t => { t.advance h.words with waiting := none })) :=
    ((OwnSlot.refl s1).retire h hv1).moveOn h
  have hme : ((s1.retire h).moveOn h).me = steppedStream h id s1.me := by
    have e : l1.stream s1.cur.stream = { s1.me with retired := s1.me.retired + 1, waiting := none } := by
      simp only [l1, Slot.retireIn]
      rw [Slot.stream_withStream_same]
      cases h.post <;> simp only [Slot.stream_withTokens, State.me_eq]
    rw [o.me, Slot.stream_withStream_same, e]
    rfl
  have hrun : ((s1.retire h).moveOn h).me.halted = false := by
    rw [hme]
    unfold steppedStream
    simp only [id]
    rw [StreamSt.advance_onward]
    · simp only [hm.halted]; exact ho.running
    · simp only [hm.pc, hm.line]; exact ho.more
  have hset : s.conclude h d (.done s1) = (s1.retire h).moveOn h := by
    show (if s1.overfull h then _ else ((s1.retire h).moveOn h).settleUnit s.cur.slot) = _
    rw [State.overfull_other s1 h hv1, if_neg Bool.false_ne_true]
    have := State.settleUnit_running _ hrun
    rwa [o.cur, hc] at this
  refine ⟨_, hset, o.only ?_, ⟨?_, ?_, hrun, ?_, ?_⟩, hme⟩
  · simp only [l1, Slot.retireIn]
    cases s1.cur.stream <;> cases h.post <;> rfl
  · rw [hme]
    unfold steppedStream
    simp only [id]
    rw [StreamSt.advance_pc]
    · simp only [hm.pc, hm.line]
    · simp only [hm.pc, hm.line]; exact ho.more
  · rw [hme]; simp [steppedStream, hm.retired]
  · rw [hme]; simp [steppedStream, hm.sup]
  · intro p c
    rw [o.here]
    have ht : ∀ p c, s1.here.tokens p c = s.here.tokens p c - (if h.wait = some p ∧ c = s.cur.stream then 1 else 0) := by
      intro p c
      rw [htk, ((OwnSlot.refl s).popToken h).here]
      unfold popped
      cases hw : h.wait with
      | none => simp
      | some w =>
        simp only [Slot.tokens_withTokens, Option.some.injEq]
        by_cases h1 : p = w ∧ c = s.cur.stream
        · obtain ⟨rfl, rfl⟩ := h1; simp
        · rw [if_neg h1, if_neg (fun hh => h1 ⟨hh.1.symm, hh.2⟩)]; rfl
    rw [Slot.tokens_withStream, ← ht]
    simp only [l1, Slot.retireIn, Slot.tokens_withStream, hc]
    cases hp : h.post with
    | none => simp
    | some w =>
      simp only [Slot.tokens_withTokens, Option.some.injEq]
      by_cases h1 : p = s.cur.stream ∧ c = w
      · obtain ⟨rfl, rfl⟩ := h1; simp
      · rw [if_neg h1, if_neg (fun hh => h1 ⟨hh.2, hh.1.symm⟩)]; rfl

/-- An effect of S, M or X on the registers of its own stream: the instruction retires and moves on, and nothing else changes. -/
theorem State.done_withMe (s : State) (h : Hdr) (d : Dest) (f : StreamSt → StreamSt) (hf : SamePlace s.me (f s.me)) (hv : s.cur.stream ≠ .v)
    (ho : Onward h s) : ∃ t, s.conclude h d (.done ((s.popToken h).withMe f)) = t ∧ Stepped h s t ∧ t.me = steppedStream h f s.me := by
  have o := ((OwnSlot.refl s).popToken h).withMe f
  have hme : ((s.popToken h).withMe f).me = f s.me := by rw [State.me_withMe, State.popToken_me]
  obtain ⟨t, ht, honly, hadv, hm⟩ := State.done_state s ((s.popToken h).withMe f) h d o.cur (by rw [hme]; exact hf)
    (fun p c => by rw [State.here_withMe, Slot.tokens_withStream]) hv ho
  refine ⟨t, ht, ⟨?_, hadv⟩, by rw [hm, hme]; rfl⟩
  have hc : t.cur = s.cur := by rw [honly.machine, ← o.cur]
  refine ⟨?_, fun a => by rw [honly.memory, o.mem], fun u hu => ?_, fun c n => ?_, ?_⟩
  · have h1 := honly.machine
    rw [o.machine] at h1
    exact h1
  · rw [honly.slots u (by rw [o.cur]; exact hu), o.slots u hu]
  · rw [honly.tiles, o.tiles]
  · have h1 := honly.slot
    rw [o.here, o.cur] at h1
    rw [h1]
    simp only [popped]
    cases s.cur.stream <;> cases h.wait <;> rfl

/-- A V instruction whose body answers a result. -/
theorem State.land_issued (s0 r : State) (h : Hdr) (d : Dest) (e : VEntry) (lat : Nat) (hv : r.cur.stream = .v) (ho : Onward h r)
    (hr : s0.here.vflight.length < 32) :
    ∃ t, s0.conclude h d (.land r e lat) = t ∧ VIssued h r t [{ e with offset := lat - 1, post := h.post }] := by
  let f : Slot → Slot := fun l =>
    { l.beat with vflight := l.beat.vflight ++ [{ e with offset := lat - 1, post := h.post }], v := { l.v with waiting := none } }
  have o : OwnSlot r ((r.withHere f).moveOn h) ((f r.here).withStream .v (fun t => { t.advance h.words with waiting := none })) := by
    have := ((OwnSlot.refl r).withHere f).moveOn h
    rwa [hv] at this
  have hm : r.me = r.here.v := by rw [State.me_eq, hv]; rfl
  have hme : ((r.withHere f).moveOn h).me = { ({ r.me with waiting := none } : StreamSt).advance h.words with waiting := none } := by
    rw [o.me, hv, Slot.stream_withStream_same]
    show ({ ({ r.here.v with waiting := none } : StreamSt).advance h.words with waiting := none } : StreamSt) = _
    rw [hm]
  refine ⟨(r.withHere f).moveOn h, if_neg (by omega), ⟨o.machine, fun a => by rw [o.mem], o.slots, o.tiles, ?_, ?_, ?_, ?_⟩⟩
  · rw [o.here]; rfl
  · rw [o.here]; rfl
  · rw [hme]
    simp only
    rw [StreamSt.advance_pc]
    exact ho.more
  · rw [hme]
    constructor <;> intro n <;> simp only [noReg, Option.getD_none, StreamSt.gReg, StreamSt.qReg, StreamSt.vqReg, StreamSt.lReg, StreamSt.eReg,
      StreamSt.advance_g, StreamSt.advance_q, StreamSt.advance_vq, StreamSt.advance_l, StreamSt.advance_e]

theorem begun_cur (h : Hdr) (s : State) : (begun h s).cur = s.cur := by unfold begun; rw [State.popToken_cur, landed_cur]

theorem begun_me (h : Hdr) (s : State) : (begun h s).me = (landed s).me := State.popToken_me _ _

/-- Popping a token leaves the results in flight. -/
theorem begun_room {h : Hdr} {s : State} (r : Ready h s) (hv : s.cur.stream = .v) : (begun h s).here.vflight.length < 32 := by
  obtain ⟨f, hf⟩ := State.popToken_here (landed s) h
  unfold begun
  rw [hf]
  exact r.results hv

theorem begun_onward {h : Hdr} {s : State} (ho : Onward h (landed s)) : Onward h (begun h s) := by
  constructor
  · rw [begun_me]; exact ho.running
  · rw [begun_me]; exact ho.more

/-! ### Results of the instructions that run in every stream -/

theorem registers_setG (h : Hdr) (x : StreamSt) (d : Nat) (v : Word) :
    Registers x (steppedStream h (fun t => t.setG d v) x) (oneReg d v) noReg noReg noReg := by
  constructor <;> intro n
  · unfold steppedStream oneReg
    simp only [StreamSt.gReg, StreamSt.advance_g]
    have := StreamSt.gReg_setG x d n v
    unfold StreamSt.gReg at this
    rw [this]; split_ifs <;> rfl
  all_goals simp [steppedStream, StreamSt.qReg, StreamSt.vqReg, StreamSt.lReg, StreamSt.eReg, noReg]

theorem registers_setQ (h : Hdr) (x : StreamSt) (d : Nat) (v : Bool) :
    Registers x (steppedStream h (fun t => t.setQ d v) x) noReg (oneReg d v) noReg noReg := by
  constructor <;> intro n
  · simp [steppedStream, StreamSt.gReg, noReg]
  · unfold steppedStream oneReg
    simp only [StreamSt.qReg, StreamSt.advance_q]
    have := StreamSt.qReg_setQ x d n v
    unfold StreamSt.qReg at this
    rw [this]; split_ifs <;> rfl
  all_goals simp [steppedStream, StreamSt.vqReg, StreamSt.lReg, StreamSt.eReg, noReg]

theorem registers_setL (h : Hdr) (x : StreamSt) (d : Nat) (v : BitVec 32) :
    Registers x (steppedStream h (fun t => t.setL d v) x) noReg noReg (anyReg d v) noReg := by
  constructor <;> intro n
  · simp [steppedStream, StreamSt.gReg, noReg]
  · simp [steppedStream, StreamSt.qReg, noReg]
  · simp [steppedStream, StreamSt.vqReg]
  · unfold steppedStream anyReg
    simp only [StreamSt.lReg, StreamSt.advance_l]
    have := StreamSt.lReg_setL x d n v
    unfold StreamSt.lReg at this
    rw [this]; split_ifs <;> rfl
  · simp [steppedStream, StreamSt.eReg, noReg]

theorem registers_setE (h : Hdr) (x : StreamSt) (d : Nat) (v : Word) :
    Registers x (steppedStream h (fun t => t.setE d v) x) noReg noReg noReg (anyReg d v) := by
  constructor <;> intro n
  · simp [steppedStream, StreamSt.gReg, noReg]
  · simp [steppedStream, StreamSt.qReg, noReg]
  · simp [steppedStream, StreamSt.vqReg]
  · simp [steppedStream, StreamSt.lReg, noReg]
  · unfold steppedStream anyReg
    simp only [StreamSt.eReg, StreamSt.advance_e]
    have := StreamSt.eReg_setE x d n v
    unfold StreamSt.eReg at this
    rw [this]; split_ifs <;> rfl

theorem registers_same (h : Hdr) (x : StreamSt) : Registers x (steppedStream h id x) noReg noReg noReg noReg := by
  constructor <;> intro n <;> simp [steppedStream, StreamSt.gReg, StreamSt.qReg, StreamSt.vqReg, StreamSt.lReg, StreamSt.eReg, noReg]

/-- An instruction that issues answers what its body answers. -/
theorem runTo_issues {h : Hdr} {s : State} (i : Issues h s) (d : Dest) (body : State → Eff) :
    runTo h d body s = .next ((landed s).conclude h d (body ((landed s).popToken h))) := by
  rw [runTo_ready i.ready, State.popToken_guardHolds, if_pos i.guard]

theorem run_issues {h : Hdr} {s : State} (i : Issues h s) (body : State → Eff) :
    run h body s = .next ((landed s).conclude h .none (body ((landed s).popToken h))) := runTo_issues i .none body

/-- A body that writes g[d], in every stream. -/
theorem result_writeG {h : Hdr} {s : State} (i : Issues h s) (d : Nat) (v : Word) (body : State → Eff)
    (hb : body ((landed s).popToken h) = writeG d v ((landed s).popToken h)) : ResultG (run h body s) h s d v := by
  rw [run_issues i, hb]
  unfold writeG
  rw [State.popToken_cur, landed_cur]
  constructor
  · intro hv
    have ho := i.onward
    rw [landed_eq s hv] at ho ⊢
    rw [if_neg hv]
    obtain ⟨t, ht, hs, hm⟩ := State.done_withMe s h .none (fun t => t.setG d v) (samePlace_setG _ _ _) hv ho
    exact ⟨t, by rw [ht], hs, by rw [hm]; exact registers_setG h s.me d v⟩
  · intro hv
    rw [if_pos hv]
    obtain ⟨t, ht, hs⟩ := State.land_issued (landed s) (begun h s) h .none
      { VEntry.bare with kind := .greg, dest := d, data := BitVec.ofNat 1024 v.toNat } 1 (by rw [begun_cur]; exact hv) (begun_onward i.onward) (by have := i.ready.results hv; exact this)
    exact ⟨t, congrArg _ ht, hs⟩

/-- A body that writes one bit to q[d], in every stream. -/
theorem result_writeQ {h : Hdr} {s : State} (i : Issues h s) (d : Nat) (v : Bool) (body : State → Eff)
    (hb : body ((landed s).popToken h) = writeQ d v ((landed s).popToken h)) : ResultQ (run h body s) h s d v := by
  rw [run_issues i, hb]
  unfold writeQ landQ
  rw [State.popToken_cur, landed_cur]
  constructor
  · intro hv
    have ho := i.onward
    rw [landed_eq s hv] at ho ⊢
    rw [if_neg hv]
    obtain ⟨t, ht, hs, hm⟩ := State.done_withMe s h .none (fun t => t.setQ d v) (samePlace_setQ _ _ _) hv ho
    exact ⟨t, by rw [ht], hs, by rw [hm]; exact registers_setQ h s.me d v⟩
  · intro hv
    rw [if_pos hv]
    obtain ⟨t, ht, hs⟩ := State.land_issued (landed s) (begun h s) h .none
      { VEntry.bare with kind := .qreg, dest := d, data := BitVec.ofNat 1024 (if v then Mask.full else 0).toNat, mask := Mask.full } 1
      (by rw [begun_cur]; exact hv) (begun_onward i.onward) (by have := i.ready.results hv; exact this)
    exact ⟨t, congrArg _ ht, hs⟩

/-! ### Vector results -/

theorem State.takeTile_slots (s : State) (u w : SlotId) (t : Nat) : (s.takeTile u t).slot w = s.slot w := by
  unfold State.takeTile State.slot
  rw [State.cell_withCell]
  split_ifs with h
  · rw [CellSt.slot_withTile, h]
  · rfl

/-- The take of tiles changes tiles only. -/
theorem State.ownTiles_keeps (ts : List Nat) (s s1 : State) (u : SlotId) (h : s.ownTiles u ts = .ok s1) :
    s1 = { s with cells := s1.cells } ∧ ∀ w, s1.slot w = s.slot w := by
  induction ts generalizing s with
  | nil => simp only [State.ownTiles, Except.ok.injEq] at h; subst h; exact ⟨rfl, fun _ => rfl⟩
  | cons t ts ih =>
    simp only [State.ownTiles] at h
    split_ifs at h
    obtain ⟨h1, h2⟩ := ih _ h
    refine ⟨?_, fun w => by rw [h2, State.takeTile_slots]⟩
    rw [h1]; rfl

/-- The checks of a vector instruction's registers change tiles only. -/
theorem State.vRows_keeps (s s1 : State) (reads dests : List Nat) (w : Bool) (h : s.vRows reads dests w = .ok s1) :
    s1 = { s with cells := s1.cells } ∧ ∀ u, s1.slot u = s.slot u := by
  unfold State.vRows at h
  by_cases hp : isPantry s.cur.slot.cell = true
  · simp only [hp, if_true, Except.ok.injEq] at h; subst h; exact ⟨rfl, fun _ => rfl⟩
  · simp only [hp] at h
    cases h2 : s.ownTiles s.cur.slot ([0, 1].filter (fun t => (reads ++ dests).any (fun n => decide (n / 32 = t)))) with
    | error t => rw [h2] at h; exact absurd h (by simp)
    | ok s2 =>
      rw [h2] at h
      simp only [Bool.false_eq_true, if_false] at h
      cases h3 : s2.accRaceV s.cur.slot (rowSet (if w = true then reads else reads ++ dests)) (if w = true then rowSet dests else 0) with
      | some t => rw [h3] at h; exact absurd h (by simp)
      | none =>
        rw [h3] at h
        simp only at h
        cases h4 : List.find? (fun t => ((s2.cell s.cur.slot.cell).tile t).poisonedIn (rowsIn t (rowSet reads))) [0, 1] with
        | some t => rw [h4] at h; exact absurd h (by simp)
        | none =>
          rw [h4] at h
          simp only [Except.ok.injEq] at h; subst h
          exact State.ownTiles_keeps _ _ _ _ h2

/-- A vector instruction whose body answers a vector result enters flight. -/
theorem runVector_lands {h : Hdr} {s : State} (r : Ready h s) (hv : s.cur.stream = .v) (ho : Onward h (landed s)) (body : State → Eff)
    (reads dests : List Nat) (e : VEntry) (lat : Nat) (hb : body (begun h s) = vecLand reads dests e lat (begun h s)) :
    Lands (runVector h body s) h s reads dests e lat := by
  intro s1 h1 h2
  obtain ⟨k1, k2⟩ := State.vRows_keeps _ _ _ _ _ h1
  have hc : s1.cur = s.cur := by rw [k1]; exact begun_cur h s
  have hme : s1.me = (begun h s).me := by
    show (s1.slot s1.cur.slot).stream s1.cur.stream = ((begun h s).slot (begun h s).cur.slot).stream (begun h s).cur.stream
    rw [k2, hc, begun_cur]
  rw [runVector_ready r]
  have hb' : body ((landed s).popToken h) = vecLand reads dests e lat (begun h s) := hb
  rw [hb']
  unfold vecLand
  simp only [h1, h2]
  obtain ⟨t, ht, hi⟩ := State.land_issued (landed s) s1 h .none
    { e with reads := rowSet (if decide (e.mask ≠ 0) then reads else reads ++ dests) } lat (by rw [hc]; exact hv)
    ⟨by rw [hme]; exact (begun_onward ho).running, by rw [hme]; exact (begun_onward ho).more⟩ (r.results hv)
  exact ⟨t, congrArg _ ht, hi⟩

end Sys2Proof.Machine
end

