-- ==== Sys2Proof/Laws/Vector.lean ====
section
/-! SUPPORT. Rows and masks by element, and the results of vector instructions. -/

namespace Sys2Proof.Machine

theorem Row.fold_elem (w : Nat) (es : List Nat) (i : Nat) (hi : i < es.length) :
    es.foldr (fun e acc => e % 2 ^ w + 2 ^ w * acc) 0 / 2 ^ (w * i) % 2 ^ w = es[i] % 2 ^ w := by
  induction es generalizing i with
  | nil => simp at hi
  | cons x t ih =>
    simp only [List.foldr_cons]
    cases i with
    | zero => simp [Nat.add_mod]
    | succ i =>
      have hx : x % 2 ^ w < 2 ^ w := Nat.mod_lt _ (by positivity)
      have e : 2 ^ (w * (i + 1)) = 2 ^ w * 2 ^ (w * i) := by rw [← Nat.pow_add]; congr 1; ring
      rw [e, ← Nat.div_div_eq_div_mul, Nat.add_mul_div_left _ _ (by positivity), Nat.div_eq_of_lt hx, Nat.zero_add,
        ih i (by simpa using hi)]
      rfl

theorem Row.fold_lt (w : Nat) (es : List Nat) : es.foldr (fun e acc => e % 2 ^ w + 2 ^ w * acc) 0 < 2 ^ (w * es.length) := by
  induction es with
  | nil => simp
  | cons x t ih =>
    simp only [List.foldr_cons, List.length_cons]
    have hx : x % 2 ^ w < 2 ^ w := Nat.mod_lt _ (by positivity)
    have e : 2 ^ (w * (t.length + 1)) = 2 ^ w * 2 ^ (w * t.length) := by rw [← Nat.pow_add]; congr 1; ring
    rw [e]
    calc _ < 2 ^ w + 2 ^ w * t.foldr (fun e acc => e % 2 ^ w + 2 ^ w * acc) 0 := by omega
      _ = 2 ^ w * (t.foldr (fun e acc => e % 2 ^ w + 2 ^ w * acc) 0 + 1) := by ring
      _ ≤ _ := Nat.mul_le_mul_left _ ih

/-- An element of a row made from elements. -/
theorem Row.elem_ofElems (w : Nat) (es : List Nat) (i : Nat) (hi : i < es.length) (hw : w * es.length ≤ 1024) :
    (Row.ofElems w es).elem w i = es[i] % 2 ^ w := by
  unfold Row.elem Row.ofElems
  rw [BitVec.toNat_ofNat, Nat.mod_eq_of_lt (lt_of_lt_of_le (Row.fold_lt w es) (Nat.pow_le_pow_right (by decide) hw))]
  exact Row.fold_elem w es i hi

theorem Mask.fold_bit (bs : List Bool) (i : Nat) : Nat.testBit (bs.foldr (fun b acc => bit01 b + 2 * acc) 0) i = bs.getD i false := by
  induction bs generalizing i with
  | nil => simp
  | cons b t ih =>
    simp only [List.foldr_cons]
    cases i with
    | zero => cases b <;> simp [bit01, Nat.testBit_zero, Nat.add_mod]
    | succ i =>
      rw [Nat.testBit_succ]
      have : (bit01 b + 2 * t.foldr (fun b acc => bit01 b + 2 * acc) 0) / 2 = t.foldr (fun b acc => bit01 b + 2 * acc) 0 := by
        cases b
        · simp [bit01]
        · simp [bit01]; omega
      rw [this, ih]; simp

/-- A bit of a mask made from bits. -/
theorem Mask.getLsbD_ofBits (bs : List Bool) (i : Nat) (hi : i < 128) : (Mask.ofBits bs).getLsbD i = bs.getD i false := by
  unfold Mask.ofBits
  rw [BitVec.getLsbD_ofNat]
  simp only [hi, decide_true, Bool.true_and]
  exact Mask.fold_bit bs i

theorem Mask.getLsbD_low (n : Nat) (m : Mask) (i : Nat) (hi : i < 128) : (Mask.low n m).getLsbD i = (decide (i < n) && m.getLsbD i) := by
  unfold Mask.low
  rw [BitVec.getLsbD_and, BitVec.getLsbD_ofNat, Nat.testBit_two_pow_sub_one, Bool.and_comm]
  simp [hi]

/-- The elements that a vector instruction may write, by bit. -/
theorem allowed_bits (h : Hdr) (s : State) (n : Nat) : Allowed h s n (Mask.low n ((begun h s).allowed h)) := by
  intro i hi
  rw [Mask.getLsbD_low n _ i hi]
  unfold State.allowed
  simp only [BitVec.getLsbD_and]
  cases hs : h.sense <;> simp [hi, Bool.and_assoc]

/-- A row of lanes by element. -/
theorem lanes_elem (n w : Nat) (mask : Mask) (f : Nat → Lane) (i : Nat) (hi : i < n) (hw : w * n ≤ 1024) (hm : mask.getLsbD i = true) :
    (lanes n w mask f).1.elem w i = (f i).1 % 2 ^ w := by
  unfold lanes
  simp only
  rw [Row.elem_ofElems]
  · simp [hm]
  · simpa using hi
  · simpa

theorem lanes_flags (n w : Nat) (mask : Mask) (f : Nat → Lane) :
    (lanes n w mask f).2 = Flags.joinAll ((List.range n).map (fun i => if mask.getLsbD i then (f i).2 else Flags.none)) := by
  unfold lanes
  simp only [List.map_map]
  congr 1
  apply List.map_congr_left
  intro i _
  simp only [Function.comp]
  split_ifs <;> rfl

/-- A vector instruction that computes its elements one by one. -/
theorem runLanes_result {h : Hdr} {s : State} (v : VectorIssues h s) (w d : Nat) (reads : List Nat) (lat : Nat) (sto : Bool)
    (f : State → Nat → Lane) : VectorResult (runLanes h w d reads lat sto f s) h s w d reads lat sto (f (begun h s)) := by
  let mask := Mask.low (1024 / w) ((begun h s).allowed h)
  refine ⟨{ VEntry.bare with kind := .vreg, dest := d, data := (lanes (1024 / w) w mask (f (begun h s))).1, width := w / 8, mask := mask,
                             flags := (lanes (1024 / w) w mask (f (begun h s))).2.bits, stoinc := sto },
    runVector_lands v.ready v.vector v.onward _ _ _ _ _ rfl, allowed_bits h s _, rfl, rfl, rfl, ?_, ?_, rfl⟩
  · intro i hi hm
    exact lanes_elem _ _ _ _ _ hi (by rw [Nat.mul_comm]; exact Nat.div_mul_le_self _ _) hm
  · simp only [lanes_flags]

/-- Two states that agree but for how their cells are listed. -/
theorem OwnSlot.trans {s t u : State} {l m : Slot} (o : OwnSlot s t l) (p : OwnSlot t u m) : OwnSlot s u m := by
  refine ⟨?_, fun w hw => ?_, fun c n => by rw [p.tiles, o.tiles], p.here⟩
  · rw [p.machine, o.machine]
  · rw [p.slots w (by rw [o.cur]; exact hw), o.slots w hw]

/-- With room in flight an instruction of V may retire by its post (R211). -/
theorem State.overfull_room (r : State) (h : Hdr) (hr : r.cur.stream = .v → r.here.vflight.length < 32) : r.overfull h = false := by
  unfold State.overfull
  by_cases hv : r.cur.stream = .v
  · have hl := hr hv
    rw [((OwnSlot.refl r).retireV h hv).here]
    unfold Slot.retireV Slot.beat
    cases h.post with
    | none => simpa using fun _ => by omega
    | some p => simpa using fun _ => by omega
  · simp [hv]

/-- In V, a change of the slot at issue without a result. -/
theorem done_changes_v {h : Hdr} {s r : State} (v : VectorIssues h s) (d : Dest) (f : Slot → Slot) (hf : ∀ l, (f l).v = l.v)
    (hk : ∀ l, (f l).vflight = l.vflight)
    (or : OwnSlot (begun h s) r (f (begun h s).here)) :
    ∃ t, (landed s).conclude h d (.done r) = t ∧ VIssued h ((begun h s).withHere f) t (postEntry h) := by
  let w := (begun h s).withHere f
  have ow : OwnSlot (begun h s) w (f (begun h s).here) := (OwnSlot.refl _).withHere f
  have hc : r.cur = s.cur := or.cur.trans (begun_cur h s)
  have hcw : w.cur = s.cur := begun_cur h s
  have hv : r.cur.stream = .v := by rw [hc]; exact v.vector
  have hm : r.me = (landed s).me := by
    rw [or.me, begun_cur, v.vector, ← begun_me h s, State.me_eq, begun_cur, v.vector]
    exact hf _
  have hmw : w.me = r.me := by rw [ow.me, or.me]
  have hmv : r.me = r.here.v := by rw [State.me_eq, hv]; rfl
  let g : Slot → Slot := fun l => l.retireV h
  have o : OwnSlot r ((r.retire h).moveOn h) ((g r.here).withStream .v (fun t => { t.advance h.words with waiting := none })) := by
    have := ((OwnSlot.refl r).retireV h hv).moveOn h
    rwa [hv] at this
  have hrw : r.here = w.here := by rw [or.here, ow.here]
  have ob := or.trans o
  have hgv : (g r.here).v = { r.here.v with waiting := none } ∨ (g r.here).v = { r.here.v with retired := r.here.v.retired + 1, waiting := none } := by
    simp only [g, Slot.retireV]
    cases h.post with
    | none => exact .inr rfl
    | some p => exact .inl rfl
  have hme : ((r.retire h).moveOn h).me = { ((g r.here).v).advance h.words with waiting := none } := by
    rw [o.me, hv, Slot.stream_withStream_same]; rfl
  have hon := v.onward
  have hplace : ((g r.here).v).pc = r.me.pc ∧ ((g r.here).v).line = r.me.line ∧ ((g r.here).v).halted = r.me.halted := by
    rw [hmv]; rcases hgv with e | e <;> rw [e] <;> exact ⟨rfl, rfl, rfl⟩
  have hmore : wordIndex ((g r.here).v).pc + h.words < ((g r.here).v).line.count ∨ ((g r.here).v).line.last = false := by
    rw [hplace.1, hplace.2.1, hm]; exact hon.more
  have hrun : ((r.retire h).moveOn h).me.halted = false := by
    rw [hme]; simp only; rw [StreamSt.advance_onward _ _ hmore, hplace.2.2, hm]; exact hon.running
  have hset : (landed s).conclude h d (.done r) = (r.retire h).moveOn h := by
    have hroom : r.overfull h = false := State.overfull_room r h (fun _ => by rw [or.here, hk]; exact begun_room v.ready v.vector)
    show (if r.overfull h then _ else ((r.retire h).moveOn h).settleUnit (landed s).cur.slot) = _
    rw [hroom, if_neg Bool.false_ne_true]
    have := State.settleUnit_running _ hrun
    rw [o.cur, hc] at this
    rw [landed_cur]; exact this
  refine ⟨_, hset, ⟨?_, fun a => by rw [o.mem, or.mem, ow.mem], fun u hu => ?_, fun c n => by rw [o.tiles, or.tiles, ow.tiles], ?_, ?_, ?_, ?_⟩⟩
  · have h1 := ob.machine
    rw [h1]; rfl
  · have hu' : u ≠ (begun h s).cur.slot := hu
    rw [ob.slots u hu', ow.slots u hu']
  · rw [o.here]
    simp only [g, Slot.retireV, postEntry]
    rw [hrw]
    cases h.post with
    | none => rw [List.append_nil]; rfl
    | some p => rfl
  · rw [o.here]
    simp only [g, Slot.retireV]
    rw [hrw]
    cases h.post <;> rfl
  · rw [hme]
    simp only
    rw [StreamSt.advance_pc _ _ hmore, hplace.1, hplace.2.1]
    simp only [← hmw]; rfl
  · rw [hme]
    show Registers w.me _ noReg noReg noReg noReg
    rw [hmw]
    rcases hgv with e | e
    all_goals
      rw [e, hmv]
      constructor <;> intro n <;> simp only [noReg, Option.getD_none, StreamSt.gReg, StreamSt.qReg, StreamSt.vqReg, StreamSt.lReg, StreamSt.eReg,
        StreamSt.advance_g, StreamSt.advance_q, StreamSt.advance_vq, StreamSt.advance_l, StreamSt.advance_e]

/-- A V instruction without a result that changes its slot at issue. -/
theorem runVector_changes {h : Hdr} {s : State} (v : VectorIssues h s) (body : State → Eff) (f : Slot → Slot)
    (hf : ∀ l, (f l).v = l.v) (hk : ∀ l, (f l).vflight = l.vflight) (r : State) (hb : body (begun h s) = .done r) (or : OwnSlot (begun h s) r (f (begun h s).here)) :
    ChangesSlot (runVector h body s) h s f := by
  rw [runVector_ready v.ready]
  have hb' : body ((landed s).popToken h) = .done r := hb
  rw [hb']
  obtain ⟨t, ht, hi⟩ := done_changes_v v .none f hf hk or
  exact ⟨t, congrArg _ ht, hi⟩

/-- A change of a slot that leaves its streams and tokens as they were. -/
structure LeavesStreams (f : Slot → Slot) : Prop where
  stream : ∀ l st, (f l).stream st = l.stream st
  fifo : ∀ l, (f l).fifo = l.fifo
  flight : ∀ l, (f l).vflight = l.vflight
  pop : ∀ l g, f { l with fifo := g } = { f l with fifo := g }

theorem leavesStreams_id : LeavesStreams id := ⟨fun _ _ => rfl, fun _ => rfl, fun _ => rfl, fun _ _ => rfl⟩

theorem leavesStreams_specials (g : Specials → Specials) : LeavesStreams (fun l => { l with sr := g l.sr }) :=
  ⟨fun _ st => by cases st <;> rfl, fun _ => rfl, fun _ => rfl, fun _ _ => rfl⟩

/-- An instruction that changes its slot apart from streams and tokens, whatever its stream. -/
theorem conclude_changes {h : Hdr} {s : State} (rd : Ready h s) (ho : Onward h (landed s)) (d : Dest) (f : Slot → Slot) (hf : LeavesStreams f)
    (r : State) (or : OwnSlot (begun h s) r (f (begun h s).here)) : Changes (.next ((landed s).conclude h d (.done r))) h s f := by
  constructor
  · intro hv
    have e : landed s = s := landed_eq s hv
    have eb : begun h s = s.popToken h := by unfold begun; rw [e]
    rw [e] at ho ⊢
    rw [eb] at or
    have ob : OwnSlot s (s.popToken h) (popped h s.cur.stream s.here) := (OwnSlot.refl s).popToken h
    have hpop : f (s.popToken h).here = { f s.here with fifo := (s.popToken h).here.fifo } := by
      rw [ob.here]
      unfold popped
      cases h.wait with
      | none => show f s.here = _; rw [← hf.fifo s.here]
      | some p => exact hf.pop s.here _
    have o := ob.trans or
    rw [hpop] at o
    have hme : r.me = s.me := by
      rw [o.me]
      show Slot.stream { f s.here with fifo := _ } s.cur.stream = _
      rw [← hf.pop, hf.stream, State.me_eq]
      cases s.cur.stream <;> rfl
    obtain ⟨t, ht, honly, hadv, hm⟩ := State.done_state s r h d o.cur (by rw [hme]; exact ⟨rfl, rfl, rfl, rfl, rfl⟩)
      (fun p c => by
        rw [o.here]
        rfl) hv ho
    have o1 := (OwnSlot.refl s).withHere f
    refine ⟨t, by rw [ht], ⟨?_, fun a => by rw [honly.memory, o.mem]; rfl, fun u hu => ?_, fun c n => ?_, ?_⟩, hadv, by rw [hm, hme]; exact registers_same h s.me⟩
    · have h1 := honly.machine
      rw [o.machine] at h1
      rw [o1.machine]; exact h1
    · rw [honly.slots u (by rw [o.cur]; exact hu), o.slots u hu, o1.slots u hu]
    · rw [honly.tiles, o.tiles, o1.tiles]
    · have h1 := honly.slot
      rw [o.here, o.cur] at h1
      rw [h1, o1.here, o1.cur]
      cases s.cur.stream <;> rfl
  · intro hv
    obtain ⟨t, ht, hi⟩ := done_changes_v ⟨rd, hv, ho⟩ d f (fun l => hf.stream l .v) hf.flight or
    exact ⟨t, congrArg _ ht, hi⟩

/-- An instruction whose guard is false leaves its tokens only. -/
theorem runTo_false {h : Hdr} {s : State} (rd : Ready h s) (ho : Onward h (landed s)) (hg : (landed s).guardHolds h = false) (d : Dest)
    (body : State → Eff) : Changes (runTo h d body s) h s id := by
  rw [runTo_ready rd, State.popToken_guardHolds, hg]
  exact conclude_changes rd ho d id leavesStreams_id _ (OwnSlot.refl _)

/-- An instruction that changes the slot apart from streams and tokens. -/
theorem runTo_changes {h : Hdr} {s : State} (i : Issues h s) (d : Dest) (body : State → Eff) (f : Slot → Slot) (hf : LeavesStreams f)
    (r : State) (hb : body (begun h s) = .done r) (or : OwnSlot (begun h s) r (f (begun h s).here)) : Changes (runTo h d body s) h s f := by
  rw [runTo_issues i]
  have hb' : body ((landed s).popToken h) = .done r := hb
  rw [hb']
  exact conclude_changes i.ready i.onward d f hf r or

/-- A taken branch, after an effect f on the registers of its own stream (R109, R170). -/
theorem conclude_goto {h : Hdr} {s : State} (rd : Ready h s) (d : Dest) (f : StreamSt → StreamSt) (hf : SamePlace (begun h s).me (f (begun h s).me)) (pc : Nat) (l : Line)
    (hl : (landed s).enterAt s.cur pc = .ok l) (r : State)
    (or : OwnSlot (begun h s) r ((begun h s).here.withStream s.cur.stream f)) :
    ∃ t, (landed s).conclude h d (.goto r pc) = t ∧ Jumped h (begun h s) t pc l ∧
      (∀ n, t.me.gReg n = (f (begun h s).me).gReg n) ∧ (∀ n, t.me.qReg n = (f (begun h s).me).qReg n) ∧
      (∀ n, t.me.vqReg n = (f (begun h s).me).vqReg n) ∧ (∀ n, t.me.lReg n = (f (begun h s).me).lReg n) ∧
      (∀ n, t.me.eReg n = (f (begun h s).me).eReg n) := by
  have hc : r.cur = s.cur := or.cur.trans (begun_cur h s)
  have hrme : r.me = f (begun h s).me := by
    rw [or.me, begun_cur, Slot.stream_withStream_same, State.me_eq, begun_cur]
  have hset : (landed s).conclude h d (.goto r pc) = (r.retire h).withMe (fun t => t.enter pc l) := by
    have hroom : r.overfull h = false := State.overfull_room r h (fun hv => by
      rw [or.here]; rw [hc] at hv
      have := begun_room rd hv
      rw [hv]; exact this)
    unfold State.conclude
    simp only [landed_cur, hl, hroom, if_neg Bool.false_ne_true]
  refine ⟨_, hset, ?_⟩
  by_cases hv : s.cur.stream = .v
  · have o : OwnSlot r ((r.retire h).withMe (fun t => t.enter pc l)) ((r.here.retireV h).withStream .v (fun t => t.enter pc l)) := by
      have := ((OwnSlot.refl r).retireV h (by rw [hc]; exact hv)).withMe (fun t => t.enter pc l)
      rwa [hc, hv] at this
    have ob := or.trans o
    have hhere : r.here = (begun h s).here.withStream .v f := by rw [or.here, hv]
    have hme : ((r.retire h).withMe (fun t => t.enter pc l)).me = (r.here.retireV h).v.enter pc l := by
      rw [o.me, hc, hv, Slot.stream_withStream_same]; rfl
    have hfm : (begun h s).me = (begun h s).here.v := by rw [State.me_eq, begun_cur, hv]; rfl
    refine ⟨⟨ob.machine, fun a => by rw [ob.mem], ob.slots, ob.tiles, ?_, ?_, ?_, ?_, ?_⟩, ?_, ?_, ?_, ?_, ?_⟩
    · rw [ob.me, ob.here, hhere, begun_cur, hv]
      unfold Slot.retireV
      cases h.post <;> rfl
    · rw [begun_cur, if_pos hv, ob.here, hhere]
      unfold Slot.retireV postEntry
      cases h.post with
      | none => rw [List.append_nil]; rfl
      | some p => rfl
    · rw [hme]; rfl
    · rw [hme]; exact ⟨rfl, rfl, rfl⟩
    · rw [hme, hhere]
      have h1 := hf.halted; have h2 := hf.sup
      rw [hfm] at h1 h2 ⊢
      unfold Slot.retireV
      cases h.post <;> exact ⟨h1, h2⟩
    all_goals
      intro n
      rw [hme, hhere, hfm]
      unfold Slot.retireV
      cases h.post <;> rfl
  · have o : OwnSlot r ((r.retire h).withMe (fun t => t.enter pc l)) ((r.here.retireIn s.cur.stream h).withStream s.cur.stream (fun t => t.enter pc l)) := by
      have := ((OwnSlot.refl r).retire h (by rw [hc]; exact hv)).withMe (fun t => t.enter pc l)
      rwa [hc] at this
    have ob := or.trans o
    have hst : (r.here.retireIn s.cur.stream h).stream s.cur.stream = { f (begun h s).me with retired := (f (begun h s).me).retired + 1, waiting := none } := by
      unfold Slot.retireIn
      rw [Slot.stream_withStream_same]
      have : (f (begun h s).me) = r.here.stream s.cur.stream := by rw [← hrme, State.me_eq, hc]
      rw [this]
      cases h.post <;> simp only [Slot.stream_withTokens]
    have hme : ((r.retire h).withMe (fun t => t.enter pc l)).me =
        ({ f (begun h s).me with retired := (f (begun h s).me).retired + 1, waiting := none } : StreamSt).enter pc l := by
      rw [o.me, hc, Slot.stream_withStream_same, hst]
    refine ⟨⟨ob.machine, fun a => by rw [ob.mem], ob.slots, ob.tiles, ?_, ?_, ?_, ?_, ?_⟩, ?_, ?_, ?_, ?_, ?_⟩
    · rw [ob.me, ob.here, begun_cur, Slot.stream_withStream_same, or.here]
      unfold Slot.retireIn
      cases s.cur.stream <;> cases h.post <;> rfl
    · rw [begun_cur, if_neg hv, ob.here, or.here]
      unfold Slot.retireIn
      cases s.cur.stream <;> cases h.post <;> rfl
    · rw [hme]; rfl
    · rw [hme]; exact ⟨rfl, rfl, rfl⟩
    · rw [hme]; exact ⟨hf.halted, hf.sup⟩
    all_goals
      intro n
      rw [hme]
      rfl

end Sys2Proof.Machine
end

