-- ==== Sys2Proof/Laws/Guards.lean ====
section
/-! SUPPORT. Under a false guard each instruction with a whole guard leaves its tokens only (R119). -/

namespace Sys2Proof.Machine

variable {h : Hdr} {s : State}

/-- A command whose guard is false retires at once where no earlier command is in the queue (R20, R251). -/
theorem command_false (rd : Ready h s) (ho : Onward h (landed s)) (hg : (landed s).guardHolds h = false) (he : (begun h s).here.xqueue = [])
    (i : Instr) (body : State → Eff) : Changes (runGuarded h i body s) h s id := by
  have hr : runGuarded h i body s = .next ((landed s).conclude h .none (.done (begun h s))) := by
    refine (runVector_ready rd _).trans ?_
    have hg' : ((landed s).popToken h).guardHolds h = false := by rw [State.popToken_guardHolds, hg]
    have he' : ((landed s).popToken h).here.xqueue = [] := he
    simp only [hg', if_neg Bool.false_ne_true, voidCommand, he', List.isEmpty_nil, if_true]
    rfl
  rw [hr]
  exact conclude_changes rd ho _ id leavesStreams_id _ (OwnSlot.refl _)

theorem nop_false (rd : Ready h s) (ho : Onward h (landed s)) (hg : (landed s).guardHolds h = false) :
    Changes (exec (.nop h ) s) h s id := runTo_false rd ho hg _ _
theorem add_false (rd : Ready h s) (ho : Onward h (landed s)) (hg : (landed s).guardHolds h = false) {x0 x1 x2} :
    Changes (exec (.add h x0 x1 x2) s) h s id := runTo_false rd ho hg _ _
theorem addi_false (rd : Ready h s) (ho : Onward h (landed s)) (hg : (landed s).guardHolds h = false) {x0 x1 x2} :
    Changes (exec (.addi h x0 x1 x2) s) h s id := runTo_false rd ho hg _ _
theorem sub_false (rd : Ready h s) (ho : Onward h (landed s)) (hg : (landed s).guardHolds h = false) {x0 x1 x2} :
    Changes (exec (.sub h x0 x1 x2) s) h s id := runTo_false rd ho hg _ _
theorem mul_false (rd : Ready h s) (ho : Onward h (landed s)) (hg : (landed s).guardHolds h = false) {x0 x1 x2} :
    Changes (exec (.mul h x0 x1 x2) s) h s id := runTo_false rd ho hg _ _
theorem mulhs_false (rd : Ready h s) (ho : Onward h (landed s)) (hg : (landed s).guardHolds h = false) {x0 x1 x2} :
    Changes (exec (.mulhs h x0 x1 x2) s) h s id := runTo_false rd ho hg _ _
theorem mulhu_false (rd : Ready h s) (ho : Onward h (landed s)) (hg : (landed s).guardHolds h = false) {x0 x1 x2} :
    Changes (exec (.mulhu h x0 x1 x2) s) h s id := runTo_false rd ho hg _ _
theorem divs_false (rd : Ready h s) (ho : Onward h (landed s)) (hg : (landed s).guardHolds h = false) {x0 x1 x2} :
    Changes (exec (.divs h x0 x1 x2) s) h s id := runTo_false rd ho hg _ _
theorem divu_false (rd : Ready h s) (ho : Onward h (landed s)) (hg : (landed s).guardHolds h = false) {x0 x1 x2} :
    Changes (exec (.divu h x0 x1 x2) s) h s id := runTo_false rd ho hg _ _
theorem rems_false (rd : Ready h s) (ho : Onward h (landed s)) (hg : (landed s).guardHolds h = false) {x0 x1 x2} :
    Changes (exec (.rems h x0 x1 x2) s) h s id := runTo_false rd ho hg _ _
theorem remu_false (rd : Ready h s) (ho : Onward h (landed s)) (hg : (landed s).guardHolds h = false) {x0 x1 x2} :
    Changes (exec (.remu h x0 x1 x2) s) h s id := runTo_false rd ho hg _ _
theorem and_false (rd : Ready h s) (ho : Onward h (landed s)) (hg : (landed s).guardHolds h = false) {x0 x1 x2} :
    Changes (exec (.and_ h x0 x1 x2) s) h s id := runTo_false rd ho hg _ _
theorem andi_false (rd : Ready h s) (ho : Onward h (landed s)) (hg : (landed s).guardHolds h = false) {x0 x1 x2} :
    Changes (exec (.andi h x0 x1 x2) s) h s id := runTo_false rd ho hg _ _
theorem or_false (rd : Ready h s) (ho : Onward h (landed s)) (hg : (landed s).guardHolds h = false) {x0 x1 x2} :
    Changes (exec (.or_ h x0 x1 x2) s) h s id := runTo_false rd ho hg _ _
theorem ori_false (rd : Ready h s) (ho : Onward h (landed s)) (hg : (landed s).guardHolds h = false) {x0 x1 x2} :
    Changes (exec (.ori h x0 x1 x2) s) h s id := runTo_false rd ho hg _ _
theorem xor_false (rd : Ready h s) (ho : Onward h (landed s)) (hg : (landed s).guardHolds h = false) {x0 x1 x2} :
    Changes (exec (.xor_ h x0 x1 x2) s) h s id := runTo_false rd ho hg _ _
theorem xori_false (rd : Ready h s) (ho : Onward h (landed s)) (hg : (landed s).guardHolds h = false) {x0 x1 x2} :
    Changes (exec (.xori h x0 x1 x2) s) h s id := runTo_false rd ho hg _ _
theorem andn_false (rd : Ready h s) (ho : Onward h (landed s)) (hg : (landed s).guardHolds h = false) {x0 x1 x2} :
    Changes (exec (.andn h x0 x1 x2) s) h s id := runTo_false rd ho hg _ _
theorem shl_false (rd : Ready h s) (ho : Onward h (landed s)) (hg : (landed s).guardHolds h = false) {x0 x1 x2} :
    Changes (exec (.shl h x0 x1 x2) s) h s id := runTo_false rd ho hg _ _
theorem shli_false (rd : Ready h s) (ho : Onward h (landed s)) (hg : (landed s).guardHolds h = false) {x0 x1 x2} :
    Changes (exec (.shli h x0 x1 x2) s) h s id := runTo_false rd ho hg _ _
theorem shr_false (rd : Ready h s) (ho : Onward h (landed s)) (hg : (landed s).guardHolds h = false) {x0 x1 x2} :
    Changes (exec (.shr h x0 x1 x2) s) h s id := runTo_false rd ho hg _ _
theorem shri_false (rd : Ready h s) (ho : Onward h (landed s)) (hg : (landed s).guardHolds h = false) {x0 x1 x2} :
    Changes (exec (.shri h x0 x1 x2) s) h s id := runTo_false rd ho hg _ _
theorem sar_false (rd : Ready h s) (ho : Onward h (landed s)) (hg : (landed s).guardHolds h = false) {x0 x1 x2} :
    Changes (exec (.sar h x0 x1 x2) s) h s id := runTo_false rd ho hg _ _
theorem sari_false (rd : Ready h s) (ho : Onward h (landed s)) (hg : (landed s).guardHolds h = false) {x0 x1 x2} :
    Changes (exec (.sari h x0 x1 x2) s) h s id := runTo_false rd ho hg _ _
theorem rol_false (rd : Ready h s) (ho : Onward h (landed s)) (hg : (landed s).guardHolds h = false) {x0 x1 x2} :
    Changes (exec (.rol h x0 x1 x2) s) h s id := runTo_false rd ho hg _ _
theorem ror_false (rd : Ready h s) (ho : Onward h (landed s)) (hg : (landed s).guardHolds h = false) {x0 x1 x2} :
    Changes (exec (.ror h x0 x1 x2) s) h s id := runTo_false rd ho hg _ _
theorem clz_false (rd : Ready h s) (ho : Onward h (landed s)) (hg : (landed s).guardHolds h = false) {x0 x1} :
    Changes (exec (.clz h x0 x1) s) h s id := runTo_false rd ho hg _ _
theorem ctz_false (rd : Ready h s) (ho : Onward h (landed s)) (hg : (landed s).guardHolds h = false) {x0 x1} :
    Changes (exec (.ctz h x0 x1) s) h s id := runTo_false rd ho hg _ _
theorem popc_false (rd : Ready h s) (ho : Onward h (landed s)) (hg : (landed s).guardHolds h = false) {x0 x1} :
    Changes (exec (.popc h x0 x1) s) h s id := runTo_false rd ho hg _ _
theorem brev_false (rd : Ready h s) (ho : Onward h (landed s)) (hg : (landed s).guardHolds h = false) {x0 x1} :
    Changes (exec (.brev h x0 x1) s) h s id := runTo_false rd ho hg _ _
theorem bfx_false (rd : Ready h s) (ho : Onward h (landed s)) (hg : (landed s).guardHolds h = false) {x0 x1 x2} :
    Changes (exec (.bfx h x0 x1 x2) s) h s id := runTo_false rd ho hg _ _
theorem bfxs_false (rd : Ready h s) (ho : Onward h (landed s)) (hg : (landed s).guardHolds h = false) {x0 x1 x2} :
    Changes (exec (.bfxs h x0 x1 x2) s) h s id := runTo_false rd ho hg _ _
theorem bfi_false (rd : Ready h s) (ho : Onward h (landed s)) (hg : (landed s).guardHolds h = false) {x0 x1 x2} :
    Changes (exec (.bfi h x0 x1 x2) s) h s id := runTo_false rd ho hg _ _
theorem mins_false (rd : Ready h s) (ho : Onward h (landed s)) (hg : (landed s).guardHolds h = false) {x0 x1 x2} :
    Changes (exec (.mins h x0 x1 x2) s) h s id := runTo_false rd ho hg _ _
theorem minu_false (rd : Ready h s) (ho : Onward h (landed s)) (hg : (landed s).guardHolds h = false) {x0 x1 x2} :
    Changes (exec (.minu h x0 x1 x2) s) h s id := runTo_false rd ho hg _ _
theorem maxs_false (rd : Ready h s) (ho : Onward h (landed s)) (hg : (landed s).guardHolds h = false) {x0 x1 x2} :
    Changes (exec (.maxs h x0 x1 x2) s) h s id := runTo_false rd ho hg _ _
theorem maxu_false (rd : Ready h s) (ho : Onward h (landed s)) (hg : (landed s).guardHolds h = false) {x0 x1 x2} :
    Changes (exec (.maxu h x0 x1 x2) s) h s id := runTo_false rd ho hg _ _
theorem sel_false (rd : Ready h s) (ho : Onward h (landed s)) (hg : (landed s).guardHolds h = false) {x0 x1 x2 x3} :
    Changes (exec (.sel h x0 x1 x2 x3) s) h s id := runTo_false rd ho hg _ _
theorem mov_false (rd : Ready h s) (ho : Onward h (landed s)) (hg : (landed s).guardHolds h = false) {x0 x1 x2} :
    Changes (exec (.mov h x0 x1 x2) s) h s id := runTo_false rd ho hg _ _
theorem li_false (rd : Ready h s) (ho : Onward h (landed s)) (hg : (landed s).guardHolds h = false) {x0 x1} :
    Changes (exec (.li h x0 x1) s) h s id := runTo_false rd ho hg _ _
theorem lih_false (rd : Ready h s) (ho : Onward h (landed s)) (hg : (landed s).guardHolds h = false) {x0 x1} :
    Changes (exec (.lih h x0 x1) s) h s id := runTo_false rd ho hg _ _
theorem lea_false (rd : Ready h s) (ho : Onward h (landed s)) (hg : (landed s).guardHolds h = false) {x0 x1 x2 x3} :
    Changes (exec (.lea h x0 x1 x2 x3) s) h s id := runTo_false rd ho hg _ _
theorem cmp_false (rd : Ready h s) (ho : Onward h (landed s)) (hg : (landed s).guardHolds h = false) {x0 x1 x2 x3} :
    Changes (exec (.cmp h x0 x1 x2 x3) s) h s id := runTo_false rd ho hg _ _
theorem cmpi_false (rd : Ready h s) (ho : Onward h (landed s)) (hg : (landed s).guardHolds h = false) {x0 x1 x2 x3} :
    Changes (exec (.cmpi h x0 x1 x2 x3) s) h s id := runTo_false rd ho hg _ _
theorem plog_false (rd : Ready h s) (ho : Onward h (landed s)) (hg : (landed s).guardHolds h = false) {x0 x1 x2 x3} :
    Changes (exec (.plog h x0 x1 x2 x3) s) h s id := runTo_false rd ho hg _ _
theorem br_false (rd : Ready h s) (ho : Onward h (landed s)) (hg : (landed s).guardHolds h = false) {x0} :
    Changes (exec (.br h x0) s) h s id := runTo_false rd ho hg _ _
theorem jmpr_false (rd : Ready h s) (ho : Onward h (landed s)) (hg : (landed s).guardHolds h = false) {x0} :
    Changes (exec (.jmpr h x0) s) h s id := runTo_false rd ho hg _ _
theorem call_false (rd : Ready h s) (ho : Onward h (landed s)) (hg : (landed s).guardHolds h = false) {x0} :
    Changes (exec (.call h x0) s) h s id := runTo_false rd ho hg _ _
theorem callr_false (rd : Ready h s) (ho : Onward h (landed s)) (hg : (landed s).guardHolds h = false) {x0} :
    Changes (exec (.callr h x0) s) h s id := runTo_false rd ho hg _ _
theorem ret_false (rd : Ready h s) (ho : Onward h (landed s)) (hg : (landed s).guardHolds h = false) {x0} :
    Changes (exec (.ret h x0) s) h s id := runTo_false rd ho hg _ _
theorem loop_false (rd : Ready h s) (ho : Onward h (landed s)) (hg : (landed s).guardHolds h = false) {x0 x1} :
    Changes (exec (.loop h x0 x1) s) h s id := runTo_false rd ho hg _ _
theorem cvta_false (rd : Ready h s) (ho : Onward h (landed s)) (hg : (landed s).guardHolds h = false) {x0 x1 x2} :
    Changes (exec (.cvta h x0 x1 x2) s) h s id := runTo_false rd ho hg _ _
theorem tspc_false (rd : Ready h s) (ho : Onward h (landed s)) (hg : (landed s).guardHolds h = false) {x0 x1 x2} :
    Changes (exec (.tspc h x0 x1 x2) s) h s id := runTo_false rd ho hg _ _
theorem mfs_false (rd : Ready h s) (ho : Onward h (landed s)) (hg : (landed s).guardHolds h = false) {x0 x1} :
    Changes (exec (.mfs h x0 x1) s) h s id := runTo_false rd ho hg _ _
theorem mts_false (rd : Ready h s) (ho : Onward h (landed s)) (hg : (landed s).guardHolds h = false) {x0 x1} :
    Changes (exec (.mts h x0 x1) s) h s id := runTo_false rd ho hg _ _
theorem halt_false (rd : Ready h s) (ho : Onward h (landed s)) (hg : (landed s).guardHolds h = false) :
    Changes (exec (.halt h ) s) h s id := runTo_false rd ho hg _ _
theorem ld_false (rd : Ready h s) (ho : Onward h (landed s)) (hg : (landed s).guardHolds h = false) {x0 x1 x2 x3 x4} :
    Changes (exec (.ld h x0 x1 x2 x3 x4) s) h s id := runTo_false rd ho hg _ _
theorem st_false (rd : Ready h s) (ho : Onward h (landed s)) (hg : (landed s).guardHolds h = false) {x0 x1 x2 x3 x4} :
    Changes (exec (.st h x0 x1 x2 x3 x4) s) h s id := runTo_false rd ho hg _ _
theorem lda_false (rd : Ready h s) (ho : Onward h (landed s)) (hg : (landed s).guardHolds h = false) {x0 x1 x2 x3 x4 x5 x6} :
    Changes (exec (.lda h x0 x1 x2 x3 x4 x5 x6) s) h s id := runTo_false rd ho hg _ _
theorem str_false (rd : Ready h s) (ho : Onward h (landed s)) (hg : (landed s).guardHolds h = false) {x0 x1 x2 x3 x4 x5 x6} :
    Changes (exec (.str h x0 x1 x2 x3 x4 x5 x6) s) h s id := runTo_false rd ho hg _ _
theorem aadd_false (rd : Ready h s) (ho : Onward h (landed s)) (hg : (landed s).guardHolds h = false) {x0 x1 x2 x3 x4 x5} :
    Changes (exec (.aadd h x0 x1 x2 x3 x4 x5) s) h s id := runTo_false rd ho hg _ _
theorem amin_false (rd : Ready h s) (ho : Onward h (landed s)) (hg : (landed s).guardHolds h = false) {x0 x1 x2 x3 x4 x5} :
    Changes (exec (.amin h x0 x1 x2 x3 x4 x5) s) h s id := runTo_false rd ho hg _ _
theorem amax_false (rd : Ready h s) (ho : Onward h (landed s)) (hg : (landed s).guardHolds h = false) {x0 x1 x2 x3 x4 x5} :
    Changes (exec (.amax h x0 x1 x2 x3 x4 x5) s) h s id := runTo_false rd ho hg _ _
theorem aand_false (rd : Ready h s) (ho : Onward h (landed s)) (hg : (landed s).guardHolds h = false) {x0 x1 x2 x3 x4 x5} :
    Changes (exec (.aand h x0 x1 x2 x3 x4 x5) s) h s id := runTo_false rd ho hg _ _
theorem aor_false (rd : Ready h s) (ho : Onward h (landed s)) (hg : (landed s).guardHolds h = false) {x0 x1 x2 x3 x4 x5} :
    Changes (exec (.aor h x0 x1 x2 x3 x4 x5) s) h s id := runTo_false rd ho hg _ _
theorem axor_false (rd : Ready h s) (ho : Onward h (landed s)) (hg : (landed s).guardHolds h = false) {x0 x1 x2 x3 x4 x5} :
    Changes (exec (.axor h x0 x1 x2 x3 x4 x5) s) h s id := runTo_false rd ho hg _ _
theorem axchg_false (rd : Ready h s) (ho : Onward h (landed s)) (hg : (landed s).guardHolds h = false) {x0 x1 x2 x3 x4 x5} :
    Changes (exec (.axchg h x0 x1 x2 x3 x4 x5) s) h s id := runTo_false rd ho hg _ _
theorem acas_false (rd : Ready h s) (ho : Onward h (landed s)) (hg : (landed s).guardHolds h = false) {x0 x1 x2 x3 x4 x5 x6} :
    Changes (exec (.acas h x0 x1 x2 x3 x4 x5 x6) s) h s id := runTo_false rd ho hg _ _
theorem fence_false (rd : Ready h s) (ho : Onward h (landed s)) (hg : (landed s).guardHolds h = false) {x0 x1} :
    Changes (exec (.fence h x0 x1) s) h s id := runTo_false rd ho hg _ _
theorem rfence_false (rd : Ready h s) (ho : Onward h (landed s)) (hg : (landed s).guardHolds h = false) :
    Changes (exec (.rfence h ) s) h s id := runTo_false rd ho hg _ _
theorem tksend_false (rd : Ready h s) (ho : Onward h (landed s)) (hg : (landed s).guardHolds h = false) {x0} :
    Changes (exec (.tksend h x0) s) h s id := runTo_false rd ho hg _ _
theorem tkwait_false (rd : Ready h s) (ho : Onward h (landed s)) (hg : (landed s).guardHolds h = false) {x0} :
    Changes (exec (.tkwait h x0) s) h s id := runTo_false rd ho hg _ _
theorem bara_false (rd : Ready h s) (ho : Onward h (landed s)) (hg : (landed s).guardHolds h = false) {x0 x1} :
    Changes (exec (.bara h x0 x1) s) h s id := runTo_false rd ho hg _ _
theorem barw_false (rd : Ready h s) (ho : Onward h (landed s)) (hg : (landed s).guardHolds h = false) {x0 x1} :
    Changes (exec (.barw h x0 x1) s) h s id := runTo_false rd ho hg _ _
theorem launch_false (rd : Ready h s) (ho : Onward h (landed s)) (hg : (landed s).guardHolds h = false) {x0 x1 x2} :
    Changes (exec (.launch h x0 x1 x2) s) h s id := runTo_false rd ho hg _ _
theorem launchCont_false (rd : Ready h s) (ho : Onward h (landed s)) (hg : (landed s).guardHolds h = false) {x0 x1 x2} :
    Changes (exec (.launchCont h x0 x1 x2) s) h s id := runTo_false rd ho hg _ _
theorem join_false (rd : Ready h s) (ho : Onward h (landed s)) (hg : (landed s).guardHolds h = false) {x0} :
    Changes (exec (.join h x0) s) h s id := runTo_false rd ho hg _ _
theorem cancel_false (rd : Ready h s) (ho : Onward h (landed s)) (hg : (landed s).guardHolds h = false) {x0 x1 x2 x3} :
    Changes (exec (.cancel h x0 x1 x2 x3) s) h s id := runTo_false rd ho hg _ _
theorem cntrd_false (rd : Ready h s) (ho : Onward h (landed s)) (hg : (landed s).guardHolds h = false) {x0 x1 x2 x3} :
    Changes (exec (.cntrd h x0 x1 x2 x3) s) h s id := runTo_false rd ho hg _ _
theorem enq_false (rd : Ready h s) (ho : Onward h (landed s)) (hg : (landed s).guardHolds h = false) {x0 x1} :
    Changes (exec (.enq h x0 x1) s) h s id := runTo_false rd ho hg _ _
theorem deq_false (rd : Ready h s) (ho : Onward h (landed s)) (hg : (landed s).guardHolds h = false) {x0 x1} :
    Changes (exec (.deq h x0 x1) s) h s id := runTo_false rd ho hg _ _
theorem waitev_false (rd : Ready h s) (ho : Onward h (landed s)) (hg : (landed s).guardHolds h = false) {x0 x1 x2 x3 x4} :
    Changes (exec (.waitev h x0 x1 x2 x3 x4) s) h s id := runTo_false rd ho hg _ _
theorem gpos_false (rd : Ready h s) (ho : Onward h (landed s)) (hg : (landed s).guardHolds h = false) {x0} :
    Changes (exec (.gpos h x0) s) h s id := runTo_false rd ho hg _ _
theorem cslive_false (rd : Ready h s) (ho : Onward h (landed s)) (hg : (landed s).guardHolds h = false) {x0 x1} :
    Changes (exec (.cslive h x0 x1) s) h s id := runTo_false rd ho hg _ _
theorem trap_false (rd : Ready h s) (ho : Onward h (landed s)) (hg : (landed s).guardHolds h = false) {x0} :
    Changes (exec (.trap h x0) s) h s id := runTo_false rd ho hg _ _
theorem eret_false (rd : Ready h s) (ho : Onward h (landed s)) (hg : (landed s).guardHolds h = false) :
    Changes (exec (.eret h ) s) h s id := runTo_false rd ho hg _ _
theorem bkpt_false (rd : Ready h s) (ho : Onward h (landed s)) (hg : (landed s).guardHolds h = false) {x0} :
    Changes (exec (.bkpt h x0) s) h s id := runTo_false rd ho hg _ _
theorem mma_false (rd : Ready h s) (ho : Onward h (landed s)) (hg : (landed s).guardHolds h = false) {x0 x1 x2} :
    Changes (exec (.mma h x0 x1 x2) s) h s id := runTo_false rd ho hg _ _
theorem mmas_false (rd : Ready h s) (ho : Onward h (landed s)) (hg : (landed s).guardHolds h = false) {x0 x1 x2} :
    Changes (exec (.mmas h x0 x1 x2) s) h s id := runTo_false rd ho hg _ _
theorem mzero_false (rd : Ready h s) (ho : Onward h (landed s)) (hg : (landed s).guardHolds h = false) {x0} :
    Changes (exec (.mzero h x0) s) h s id := runTo_false rd ho hg _ _
theorem mlda_false (rd : Ready h s) (ho : Onward h (landed s)) (hg : (landed s).guardHolds h = false) {x0 x1} :
    Changes (exec (.mlda h x0 x1) s) h s id := runTo_false rd ho hg _ _
theorem msta_false (rd : Ready h s) (ho : Onward h (landed s)) (hg : (landed s).guardHolds h = false) {x0 x1} :
    Changes (exec (.msta h x0 x1) s) h s id := runTo_false rd ho hg _ _
theorem mbias_false (rd : Ready h s) (ho : Onward h (landed s)) (hg : (landed s).guardHolds h = false) {x0 x1} :
    Changes (exec (.mbias h x0 x1) s) h s id := runTo_false rd ho hg _ _
theorem mprg_false (rd : Ready h s) (ho : Onward h (landed s)) (hg : (landed s).guardHolds h = false) {x0 x1} :
    Changes (exec (.mprg h x0 x1) s) h s id := runTo_false rd ho hg _ _
theorem xmov_false (rd : Ready h s) (ho : Onward h (landed s)) (hg : (landed s).guardHolds h = false) (he : (begun h s).here.xqueue = [])
    {x0 x1} :
    Changes (exec (.xmov h x0 x1) s) h s id := command_false rd ho hg he _ _
theorem xmovs_false (rd : Ready h s) (ho : Onward h (landed s)) (hg : (landed s).guardHolds h = false) (he : (begun h s).here.xqueue = [])
    {x0 x1 x2} :
    Changes (exec (.xmovs h x0 x1 x2) s) h s id := command_false rd ho hg he _ _
theorem xgath_false (rd : Ready h s) (ho : Onward h (landed s)) (hg : (landed s).guardHolds h = false) (he : (begun h s).here.xqueue = [])
    {x0 x1 x2} :
    Changes (exec (.xgath h x0 x1 x2) s) h s id := command_false rd ho hg he _ _
theorem xscat_false (rd : Ready h s) (ho : Onward h (landed s)) (hg : (landed s).guardHolds h = false) (he : (begun h s).here.xqueue = [])
    {x0 x1 x2} :
    Changes (exec (.xscat h x0 x1 x2) s) h s id := command_false rd ho hg he _ _
theorem xunpk_false (rd : Ready h s) (ho : Onward h (landed s)) (hg : (landed s).guardHolds h = false) (he : (begun h s).here.xqueue = [])
    {x0 x1} :
    Changes (exec (.xunpk h x0 x1) s) h s id := command_false rd ho hg he _ _
theorem xfill_false (rd : Ready h s) (ho : Onward h (landed s)) (hg : (landed s).guardHolds h = false) (he : (begun h s).here.xqueue = [])
    {x0 x1} :
    Changes (exec (.xfill h x0 x1) s) h s id := command_false rd ho hg he _ _
theorem xhash_false (rd : Ready h s) (ho : Onward h (landed s)) (hg : (landed s).guardHolds h = false) (he : (begun h s).here.xqueue = [])
    {x0 x1 x2} :
    Changes (exec (.xhash h x0 x1 x2) s) h s id := command_false rd ho hg he _ _
theorem xapp_false (rd : Ready h s) (ho : Onward h (landed s)) (hg : (landed s).guardHolds h = false) (he : (begun h s).here.xqueue = [])
    {x0 x1} :
    Changes (exec (.xapp h x0 x1) s) h s id := command_false rd ho hg he _ _
theorem xqry_false (rd : Ready h s) (ho : Onward h (landed s)) (hg : (landed s).guardHolds h = false) {x0 x1} :
    Changes (exec (.xqry h x0 x1) s) h s id := runTo_false rd ho hg _ _
theorem sframe_false (rd : Ready h s) (ho : Onward h (landed s)) (hg : (landed s).guardHolds h = false) {x0 x1 x2} :
    Changes (exec (.sframe h x0 x1 x2) s) h s id := runTo_false rd ho hg _ _
theorem scommit_false (rd : Ready h s) (ho : Onward h (landed s)) (hg : (landed s).guardHolds h = false) {x0 x1 x2} :
    Changes (exec (.scommit h x0 x1 x2) s) h s id := runTo_false rd ho hg _ _
theorem strunc_false (rd : Ready h s) (ho : Onward h (landed s)) (hg : (landed s).guardHolds h = false) {x0 x1} :
    Changes (exec (.strunc h x0 x1) s) h s id := runTo_false rd ho hg _ _
theorem scur_false (rd : Ready h s) (ho : Onward h (landed s)) (hg : (landed s).guardHolds h = false) {x0 x1 x2} :
    Changes (exec (.scur h x0 x1 x2) s) h s id := runTo_false rd ho hg _ _
theorem sckpt_false (rd : Ready h s) (ho : Onward h (landed s)) (hg : (landed s).guardHolds h = false) {x0 x1} :
    Changes (exec (.sckpt h x0 x1) s) h s id := runTo_false rd ho hg _ _
theorem specb_false (rd : Ready h s) (ho : Onward h (landed s)) (hg : (landed s).guardHolds h = false) {x0 x1 x2} :
    Changes (exec (.specb h x0 x1 x2) s) h s id := runTo_false rd ho hg _ _
theorem acmp_false (rd : Ready h s) (ho : Onward h (landed s)) (hg : (landed s).guardHolds h = false) {x0} :
    Changes (exec (.acmp h x0) s) h s id := runTo_false rd ho hg _ _
theorem spece_false (rd : Ready h s) (ho : Onward h (landed s)) (hg : (landed s).guardHolds h = false) :
    Changes (exec (.spece h ) s) h s id := runTo_false rd ho hg _ _
theorem specx_false (rd : Ready h s) (ho : Onward h (landed s)) (hg : (landed s).guardHolds h = false) :
    Changes (exec (.specx h ) s) h s id := runTo_false rd ho hg _ _
theorem pfxq_false (rd : Ready h s) (ho : Onward h (landed s)) (hg : (landed s).guardHolds h = false) {x0 x1 x2} :
    Changes (exec (.pfxq h x0 x1 x2) s) h s id := runTo_false rd ho hg _ _
theorem pfxi_false (rd : Ready h s) (ho : Onward h (landed s)) (hg : (landed s).guardHolds h = false) {x0} :
    Changes (exec (.pfxi h x0) s) h s id := runTo_false rd ho hg _ _
theorem pfxpin_false (rd : Ready h s) (ho : Onward h (landed s)) (hg : (landed s).guardHolds h = false) {x0} :
    Changes (exec (.pfxpin h x0) s) h s id := runTo_false rd ho hg _ _
theorem pfxrel_false (rd : Ready h s) (ho : Onward h (landed s)) (hg : (landed s).guardHolds h = false) {x0} :
    Changes (exec (.pfxrel h x0) s) h s id := runTo_false rd ho hg _ _
theorem dqsend_false (rd : Ready h s) (ho : Onward h (landed s)) (hg : (landed s).guardHolds h = false) {x0 x1} :
    Changes (exec (.dqsend h x0 x1) s) h s id := runTo_false rd ho hg _ _
theorem dqrecv_false (rd : Ready h s) (ho : Onward h (landed s)) (hg : (landed s).guardHolds h = false) {x0 x1 x2} :
    Changes (exec (.dqrecv h x0 x1 x2) s) h s id := runTo_false rd ho hg _ _
theorem cred_false (rd : Ready h s) (ho : Onward h (landed s)) (hg : (landed s).guardHolds h = false) {x0 x1} :
    Changes (exec (.cred h x0 x1) s) h s id := runTo_false rd ho hg _ _
theorem cbcst_false (rd : Ready h s) (ho : Onward h (landed s)) (hg : (landed s).guardHolds h = false) {x0} :
    Changes (exec (.cbcst h x0) s) h s id := runTo_false rd ho hg _ _
theorem cgath_false (rd : Ready h s) (ho : Onward h (landed s)) (hg : (landed s).guardHolds h = false) {x0} :
    Changes (exec (.cgath h x0) s) h s id := runTo_false rd ho hg _ _
theorem siphq_false (rd : Ready h s) (ho : Onward h (landed s)) (hg : (landed s).guardHolds h = false) {x0 x1} :
    Changes (exec (.siphq h x0 x1) s) h s id := runTo_false rd ho hg _ _
theorem segwt_false (rd : Ready h s) (ho : Onward h (landed s)) (hg : (landed s).guardHolds h = false) {x0} :
    Changes (exec (.segwt h x0) s) h s id := runTo_false rd ho hg _ _
theorem maskw_false (rd : Ready h s) (ho : Onward h (landed s)) (hg : (landed s).guardHolds h = false) {x0 x1} :
    Changes (exec (.maskw h x0 x1) s) h s id := runTo_false rd ho hg _ _

end Sys2Proof.Machine
end

