-- ==== Sys2Proof/Tests/Slice0.lean ====
section
/-! SUPPORT. Tests of the model's own parts, each on one small state: ill-formed terms that are refused, instruction words written out from
the encodings of ch. 4, 5, 7 and 11, single steps checked against the rules by hand, and for each statement that has hypotheses a state and
operands that meet them. -/

set_option Elab.async false

namespace Sys2Proof.Tests

open Sys2Proof Sys2Proof.Machine

/-- The state that an answer goes on to. -/
def after (o : Answer) : Option State :=
  match o with
  | .next t => some t
  | _ => none

/-- What one instruction of a stream leaves. -/
def ran {α : Type} (i : Instr) (s : State) (f : State → α) : Option α := (after (exec i s)).map f

/-! ### Ill-formed terms (ch. 4, Table 4.6) -/

/-- A 32-bit form. -/
def plain : Hdr := { len := .w1, guard := 0, sense := false, wait := none, post := none }
/-- A 64-bit form. -/
def wide : Hdr := { plain with len := .w2 }
/-- A 96-bit form. -/
def long : Hdr := { plain with len := .w3 }
/-- Stream S of a compute cell in user mode. -/
def userS : DecodeCtx := { stream := .s, pantry := false, user := true }
def userV : DecodeCtx := { userS with stream := .v }
def userM : DecodeCtx := { userS with stream := .m }
def userX : DecodeCtx := { userS with stream := .x }

theorem test_wf_fields : WellFormed userS (.add plain 63 62 61) = true ∧ WellFormed userS (.add plain 64 0 0) = false ∧
    WellFormed userS (.add plain 0 64 0) = false ∧ WellFormed userS (.add plain 0 0 64) = false := by decide +kernel
theorem test_wf_imm : WellFormed userS (.addi plain 1 1 511) = true ∧ WellFormed userS (.addi plain 1 1 (-512)) = true ∧
    WellFormed userS (.addi plain 1 1 512) = false ∧ WellFormed userS (.addi plain 1 1 (-513)) = false := by decide +kernel
theorem test_wf_guard : WellFormed userS (.add { wide with guard := 3 } 1 1 1) = true ∧
    WellFormed userS (.add { wide with guard := 64 } 1 1 1) = false := by decide +kernel
theorem test_wf_short_defaults : WellFormed userS (.add { plain with guard := 1 } 1 1 1) = false ∧
    WellFormed userS (.add { plain with sense := true } 1 1 1) = false ∧ WellFormed userS (.add { plain with wait := some .x } 1 1 1) = false ∧
    WellFormed userS (.add { plain with post := some .v } 1 1 1) = false := by decide +kernel
theorem test_wf_own_token : WellFormed userS (.add { wide with wait := some .s } 1 1 1) = false ∧
    WellFormed userS (.add { wide with post := some .s } 1 1 1) = false := by decide +kernel
theorem test_wf_length : WellFormed userS (.loop wide 1 { line := 0, word := 0 }) = true ∧
    WellFormed userS (.loop plain 1 { line := 0, word := 0 }) = false ∧ WellFormed userS (.li long 1 (2 ^ 31 - 1)) = true ∧
    WellFormed userS (.li long 1 (2 ^ 31)) = false ∧ WellFormed userS (.li wide 1 (2 ^ 25 - 1)) = true ∧ WellFormed userS (.li wide 1 (2 ^ 25)) = false := by decide +kernel
theorem test_wf_stream : WellFormed userS (.vheapc plain) = false ∧ WellFormed userV (.vheapc plain) = true ∧
    WellFormed userV (.halt plain) = true ∧ WellFormed userM (.join plain 1) = false := by decide +kernel
theorem test_wf_priv : WellFormed userS (.eret plain) = false ∧ WellFormed { userS with user := false } (.eret plain) = true := by decide +kernel
theorem test_wf_reg : WellFormed userS (.mov plain 3 1 .lg) = true ∧ WellFormed userS (.mov plain 4 1 .lg) = false ∧
    WellFormed userM (.mzero plain 1) = true ∧ WellFormed userM (.mzero plain 2) = false := by decide +kernel
theorem test_wf_target : WellFormed userS (.br wide { line := 0, word := 14 }) = true ∧
    WellFormed userS (.br wide { line := 0, word := 15 }) = false := by decide +kernel
theorem test_wf_type : WellFormed userV (.vrsq wide 1 2) = true ∧ WellFormed userV (.vfma wide 1 2 3 .i32 .rne) = false ∧
    WellFormed userV (.vadd wide 1 2 3 .f32 .wrap) = false ∧ WellFormed userV (.vadd wide 1 2 3 .i8 .sat) = true := by decide +kernel
theorem test_wf_event : WellFormed userS (.sliceExpiry 543) = true ∧ WellFormed userS (.sliceExpiry 544) = false ∧
    WellFormed userS (.ringWrite 4) = false ∧ WellFormed userS (.ethernetPortUp 8) = false ∧ WellFormed userS (.queueRemap 4096) = false := by
  decide +kernel

/-! ### Words written out from the encodings -/

/-- Word 0 of Table 4.3: LEN, opcode, d, a, b, fn. -/
def word0 (len op d a b fn : Nat) : Nat := len * 2 ^ 30 + op * 2 ^ 22 + d * 2 ^ 16 + a * 2 ^ 10 + b * 2 ^ 4 + fn

/-- What a decoder answers for the words from a place in a line: the instruction, or its encoding trap. -/
def got (c : DecodeCtx) (words : List Nat) : Instr :=
  match decode c words with
  | .ok i => i
  | .error e => .encodingTrap e

/-- Chapter 4's line of four instructions, and its ADD with a guard, a wait and a post. -/
theorem test_words_chapter4 : got userS [0x00430420] = (Instr.add plain 3 1 2) ∧
    got userS [0x80871C18, 0x0000FFFF] = (Instr.addi wide 7 7 (-1000)) ∧
    got userS [0xC0871C00, 0, 0x12345678] = (Instr.addi long 7 7 0x12345678) ∧ got userS [0x0DC00000] = (Instr.halt plain) ∧
    got userS [0x80430420, 0x15600000] = (Instr.add { wide with guard := 5, wait := some .m, post := some .x } 3 1 2) ∧
    got userV [0x80000000, 0x00200000] = (Instr.nop { wide with wait := some .s }) := by decide +kernel
/-- Chapter 5's worked words. -/
theorem test_words_chapter5 : got userS [0x10052404] = (Instr.ld plain 5 9 0 .w 0) ∧
    got userS [0x90852404, 0x000C0008] = (Instr.lda wide 5 9 0 .w 8 .acq .die) ∧
    got userS [0x90852404, 0x00020008] = (Instr.lda wide 5 9 0 .w 8 .natural .die) ∧
    got userS [0x90852404, 0x00190008] = (Instr.lda wide 5 9 0 .w 8 .sc .sys) ∧
    got userS [0x90852404, 0x001E0008] = .encodingTrap .fn ∧ got userS [0x90852404, 0x00110008] = .encodingTrap .fn := by decide +kernel
/-- Table 5.9 and Table 4.8. -/
theorem test_words_corners : got userS [word0 0 0x1E 1 2 3 1] = .encodingTrap .short ∧ got userS [word0 0 0x26 1 1 0 6] = .encodingTrap .fn ∧
    got userV [word0 0 0x26 1 1 0 4] = .encodingTrap .reg ∧ got userV [word0 0 0x33 1 1 0 0] = .encodingTrap .opcode ∧
    got { userM with pantry := true } [word0 0 0xA0 0 0 0 0] = .encodingTrap .opcode ∧ got userS [word0 0 0xC5 0 0 0 1] = .encodingTrap .fn ∧
    got userS [word0 0 0xC5 0 0 0 9] = .encodingTrap .fn ∧ got userS [word0 0 0x38 0 0 0 0] = .encodingTrap .op ∧
    got userV [word0 0 0x60 1 2 3 10] = .encodingTrap .fn ∧ got userS [word0 0 0x4C 0 0 0 0] = (Instr.fence plain .natural .sys) := by decide +kernel
/-- Integer, field, selection and control opcodes (Table 5.4). -/
theorem test_words_scalar : got userS [word0 0 0x03 1 2 3 0] = (Instr.sub plain 1 2 3) ∧ got userS [word0 0 0x07 1 2 3 0] = (Instr.divs plain 1 2 3) ∧
    got userS [word0 0 0x11 1 2 3 0] = (Instr.andn plain 1 2 3) ∧ got userS [word0 0 0x17 1 2 3 15] = (Instr.sari plain 1 2 63) ∧
    got userS [word0 0 0x1D 1 2 0 0] = (Instr.brev plain 1 2) ∧ got userS [word0 2 0x1E 1 2 3 0, 4 * 2 ^ 10] = (Instr.bfx wide 1 2 (.regs 3 4)) ∧
    got userS [word0 2 0x25 1 2 3 0, 47 * 2 ^ 10] = (Instr.sel wide 1 2 3 47) ∧ got userS [word0 0 0x29 1 2 3 3] = (Instr.lea plain 1 2 3 3) ∧
    got userS [word0 2 0x2A 1 2 3 0, 9 * 2 ^ 16] = (Instr.cmp wide 1 2 3 .geu) ∧ got userS [word0 0 0x2C 1 2 3 8] = (Instr.plog plain 1 2 3 8) ∧
    got userS [word0 0 0x2E 0 9 0 0] = (Instr.jmpr plain 9) ∧ got userS [word0 0 0x34 1 2 0 7] = (Instr.tspc plain 1 2 7) ∧
    got userS [word0 0 0x35 1 5 0 0] = (Instr.mfs plain 1 5) := by decide +kernel
/-- Memory, synchronisation and system opcodes (Table 5.5). -/
theorem test_words_system : got userS [word0 0 0x41 1 2 3 6] = (Instr.st plain 1 2 3 .d 0) ∧
    got userS [word0 2 0x44 1 2 3 4, 27 * 2 ^ 16] = (Instr.aadd wide 1 2 3 .w .sc .die) ∧ got userS [word0 0 0x46 1 2 3 7] = (Instr.amax plain 1 2 3 .s64 .natural .sys) ∧
    got userS [word0 2 0x4B 1 2 3 6, 5 * 2 ^ 10] = (Instr.acas wide 1 2 3 5 .d .natural .sys) ∧ got userS [word0 0 0x4E 0 0 0 3] = (Instr.tksend plain .x) ∧
    got userS [word0 0 0x50 0 0 1 15] = (Instr.bara plain 15 .die) ∧ got userS [word0 0 0x52 1 2 3 1] = (Instr.launchCont plain 1 2 3) ∧
    got userS [word0 0 0x56 0 2 0 3] = (Instr.enq plain 2 .siphon) ∧ got userS [word0 0 0x58 1 2 3 9] = (Instr.waitev plain 1 2 3 true 1) ∧
    got userS [word0 0 0x5B 0 0 63 15] = (Instr.trap plain 1023) := by decide +kernel
/-- Vector opcodes (Table 5.6). -/
theorem test_words_vector : got userV [word0 2 0x60 1 2 3 8, 0x00A00000 + 2 ^ 16] = (Instr.vadd wide 1 2 3 .i8 .sat) ∧
    got userV [word0 2 0x63 1 2 3 2, 0x00A00000 + 4 * 2 ^ 16] = (Instr.vfma wide 1 2 3 .f16 .sto) ∧
    got userV [word0 2 0x6A 1 2 3 0, 0x00A00000 + 7 * 2 ^ 10] = (Instr.vsel wide 1 2 3 7 .f32) ∧ got userV [word0 0 0x71 1 2 3 6] = (Instr.vsar plain 1 2 3 .i16) ∧
    got userV [word0 2 0x72 1 2 0 9, 0x00A00000 + 0x40] = (Instr.vcvt wide 1 2 .u8 .e4m3 .fp32 .rne) ∧
    got userV [word0 2 0x7C 1 2 0 4, 0x00A00000 + 16 * 2 ^ 16] = (Instr.vred wide 1 2 .i32 .max .rne) ∧
    got userV [word0 0 0x89 1 2 3 5] = (Instr.vrngU32 plain 1 2 3) ∧ got userV [word0 0 0x8F 1 2 0 0] = (Instr.vheapr plain 1 2) ∧
    got userV [word0 2 0x92 1 2 0 1, 0x00A00000 + 2 ^ 16] = (Instr.vmovm wide 1 2 .bf16 true) := by decide +kernel
/-- Matrix, tile-move and serving opcodes (Tables 5.7 and 5.8). -/
theorem test_words_units : got userM [word0 0 0xA1 1 2 3 0] = (Instr.mmas plain 1 2 3) ∧ got userM [word0 0 0xA4 7 1 0 0] = (Instr.msta plain 7 1) ∧
    got userM [word0 2 0xA5 0 1 0 4, 0x01400000 + 8] = (Instr.mcvt wide 0 1 true .int8 .rne) ∧ got userX [word0 0 0xB2 1 2 3 0] = (Instr.xgath plain 1 2 3) ∧
    got userX [word0 0 0xB7 0 2 3 0] = (Instr.xapp plain 2 3) ∧ got userX [word0 2 0xB1 1 2 0 0, 0x01E00000 + 3 * 2 ^ 16] = (Instr.xmovs wide 1 2 .rdn) ∧
    got userX [word0 2 0xB1 1 2 0 0, 0x01E00000 + 4 * 2 ^ 16] = .encodingTrap .fn ∧ got userS [word0 0 0xC3 1 2 0 3] = (Instr.scur plain 1 2 3) ∧
    got userS [word0 0 0xC9 1 2 3 0] = (Instr.pfxq plain 1 2 3) ∧ got userS [word0 0 0xCE 1 2 3 0] = (Instr.dqrecv plain 1 2 3) ∧
    got userS [word0 0 0xD4 0 2 3 0] = (Instr.maskw plain 2 3) := by decide +kernel
/-- The table's numbering: the later word of a 64-bit row counts on from bit 32. -/
theorem test_table_word : decodeTableWord 64 0x00000014878518C1 = some (.bfx wide 5 6 (.imm 12 20)) ∧
    decodeTableWord 32 0x00430420 = some (.add plain 3 1 2) := by decide +kernel
/-- A program placed for its first fetch runs that instruction: LI g2, 0 of R156's list, with imm10 5. -/
theorem test_first_fetch : (after (step (State.reset.withFetchWord 32 0x09C20005))).map
    (fun t => ((t.slot placedSlot).s.gReg 2, (t.slot placedSlot).s.pc)) = some (5, 0x400008) := by decide +kernel

/-! ### A unit alone on cell 0, and checks that a statement's hypotheses hold there -/

/-- A stream in a line of fifteen words, at word 0. -/
def benchStream (st : Stream) : StreamSt :=
  { StreamSt.blank with
    pc := 0x400004, entry := .inLine, halted := false, line := { va := 0x400000, data := BitVec.ofNat 512 (st.code * 2 ^ 30 + 15) } }
/-- The slot of that unit, with every stream in its line. -/
def benchSlot : Slot :=
  { Slot.blank with bound := some placedBinding, s := benchStream .s, v := benchStream .v, m := benchStream .m, x := benchStream .x, activated := true }
/-- A module that serves, in which slot H0 of cell 0 is as given and a stream of it moves. The page at 0x400000 is mapped; the line there
has four words. -/
def benchOf (st : Stream) (l : Slot) : State :=
  { State.reset with
    cur := { slot := placedSlot, stream := st }, cells := [(0, { CellSt.blank with h0 := l })], phase := 2
    mem := (placedMemory st [0, 0, 0, 0]).foldl (fun m e => Memory.write m e.1 e.2) []
    launches := [(1, { placedLaunch with handle := 0x101 })], jobs := [(2, placedJob)], mcs := [(1, placedMc)], fresh := 3 }
def bench (st : Stream) : State := benchOf st benchSlot
/-- The bench with some registers of the stream that moves. -/
def benchG (st : Stream) (gs : List (Nat × Word)) : State := benchOf st (benchSlot.withStream st (fun t => { t with g := gs }))
/-- The bench with its slot changed. -/
def benchWith (st : Stream) (f : Slot → Slot) : State := benchOf st (f benchSlot)

/-- A check of a result that must be there. -/
def okWith {ε α : Type} (x : Except ε α) (p : α → Bool) : Bool :=
  match x with
  | .ok a => p a
  | .error _ => false

theorem okWith_elim {ε α : Type} {x : Except ε α} {p : α → Bool} (h : okWith x p = true) : ∃ a, x = .ok a ∧ p a = true := by
  cases x with
  | ok a => exact ⟨a, rfl, h⟩
  | error e => cases h

def someWith {α : Type} (x : Option α) (p : α → Bool) : Bool :=
  match x with
  | some a => p a
  | none => false

theorem someWith_elim {α : Type} {x : Option α} {p : α → Bool} (h : someWith x p = true) : ∃ a, x = some a ∧ p a = true := by
  cases x with
  | some a => exact ⟨a, rfl, h⟩
  | none => cases h

def readyCheck (h : Hdr) (s : State) : Bool :=
  s.here.bound.isSome && (decide (s.cur.stream ≠ .v) || ((s.landingTrap s.cur.slot).isNone && decide ((landed s).here.vflight.length < 32))) &&
  (match h.wait with
   | some p => decide ((landed s).here.tokens p s.cur.stream ≠ 0)
   | none => true) &&
  (match h.post with
   | some q => decide ((landed s).here.tokens s.cur.stream q + (landed s).here.reserved s.cur.stream q < 16)
   | none => true) &&
  (decide (s.cur.stream ≠ .m) || s.here.mflight.isNone)

theorem ready_of {h : Hdr} {s : State} (c : readyCheck h s = true) : Ready h s := by
  unfold readyCheck at c
  simp only [Bool.and_eq_true, Bool.or_eq_true, decide_eq_true_eq, Option.isNone_iff_eq_none] at c
  obtain ⟨⟨⟨⟨hb, hv⟩, hw⟩, hp⟩, hm⟩ := c
  refine ⟨hb, fun e => ?_, fun p e => ?_, fun q e => ?_, fun e => ?_, fun e => ?_⟩
  · rcases hv with n | n
    · exact absurd e n
    · exact n.1
  · rw [e] at hw; exact of_decide_eq_true hw
  · rw [e] at hp; exact of_decide_eq_true hp
  · rcases hv with n | n
    · exact absurd e n
    · exact n.2
  · rcases hm with n | n
    · exact absurd e n
    · exact n

def onwardCheck (h : Hdr) (s : State) : Bool :=
  !s.me.halted && (decide (wordIndex s.me.pc + h.words < s.me.line.count) || !s.me.line.last)

theorem onward_of {h : Hdr} {s : State} (c : onwardCheck h s = true) : Onward h s := by
  unfold onwardCheck at c
  simp only [Bool.and_eq_true, Bool.or_eq_true, decide_eq_true_eq, Bool.not_eq_true'] at c
  exact ⟨c.1, c.2⟩

def issuesCheck (h : Hdr) (s : State) : Bool := readyCheck h s && onwardCheck h (landed s) && (landed s).guardHolds h

theorem issues_of {h : Hdr} {s : State} (c : issuesCheck h s = true) : Issues h s := by
  unfold issuesCheck at c
  simp only [Bool.and_eq_true] at c
  exact ⟨ready_of c.1.1, onward_of c.1.2, c.2⟩

theorem vector_of {h : Hdr} {s : State} (c : (readyCheck h s && onwardCheck h (landed s) && decide (s.cur.stream = .v)) = true) : VectorIssues h s := by
  simp only [Bool.and_eq_true, decide_eq_true_eq] at c
  exact ⟨ready_of c.1.1, c.2, onward_of c.1.2⟩

theorem atOnce_of {s : State} {t : TrapInfo} (c : (!(landed s).trapHeld s.cur.slot s.cur.stream t.cause && !(landed s).defers t &&
    decide (t.cause ≠ causePoison)) = true) : TrapsAtOnce s t := by
  simp only [Bool.and_eq_true, Bool.not_eq_true', decide_eq_true_eq] at c
  exact ⟨c.1.1, c.1.2, c.2⟩

/-! ### Integer, logic, field and predicate instructions: states that meet the hypotheses -/

/-- Every plain instruction of a stream on the bench can issue. -/
theorem witness_issues (st : Stream) : Issues plain (bench st) := issues_of (by cases st <;> decide +kernel)

/-- A 64-bit form whose guard is an inverted q5, that waits for X and posts to M at the last free place of that FIFO. -/
def busy : Hdr := { len := .w2, guard := 5, sense := true, wait := some .x, post := some .m }
def busyBench : State := benchWith .s (fun l => (l.withTokens .x .s (fun _ => 1)).withTokens .s .m (fun _ => 15))
theorem witness_issues_tokens : Issues busy busyBench := issues_of (by decide +kernel)

theorem witness_IntegerArithmetic : ∀ st, Issues plain (bench st) := witness_issues
theorem witness_Division_zero : Issues plain (benchG .s [(1, 7)]) ∧ (landed (benchG .s [(1, 7)])).rg 2 = 0 :=
  ⟨issues_of (by decide +kernel), by decide +kernel⟩
theorem witness_Division_one : Issues plain (benchG .v [(1, 7), (2, 1)]) ∧ (landed (benchG .v [(1, 7), (2, 1)])).rg 2 ≠ 0 :=
  ⟨issues_of (by decide +kernel), by decide +kernel⟩
theorem witness_Division_wraps : let s := benchG .s [(1, BitVec.intMin 64), (2, BitVec.allOnes 64)]
    Issues plain s ∧ (landed s).rg 1 = BitVec.intMin 64 ∧ (landed s).rg 2 = BitVec.allOnes 64 :=
  ⟨issues_of (by decide +kernel), by decide +kernel⟩
theorem witness_LogicAndShifts : Issues plain (bench .x) ∧ 2 ^ 64 - 1 < 2 ^ 64 := ⟨witness_issues .x, by decide⟩
theorem witness_BitCountsAndFields : Issues wide (benchG .s [(1, 0), (2, BitVec.allOnes 64), (3, 63), (4, 64)]) := issues_of (by decide +kernel)
theorem witness_SelectionLiteralsAndMoves : (Issues plain (bench .m) ∧ (bench .m).cur.stream ≠ .v) ∧ (Issues plain (bench .v) ∧ (bench .v).cur.stream = .v) :=
  ⟨⟨witness_issues .m, by decide⟩, witness_issues .v, rfl⟩
theorem witness_PredicateResults : Issues plain (bench .s) ∧ Issues plain (bench .v) ∧ 15 < 16 := ⟨witness_issues .s, witness_issues .v, by decide⟩

/-! Steps, with the results of R158 to R169 worked by hand. -/

/-- An S instruction on g1 and g2. -/
def onS (i : Instr) (x y : Word) : Option Word := ran i (benchG .s [(1, x), (2, y), (3, 0x1122334455667788)]) (fun t => t.me.gReg 3)

theorem test_add_wraps : onS (.add plain 3 1 2) (BitVec.allOnes 64) 2 = some 1 := by decide +kernel
theorem test_addi_negative : onS (.addi plain 3 1 (-1)) 0 0 = some (BitVec.allOnes 64) := by decide +kernel
theorem test_sub_borrows : onS (.sub plain 3 1 2) 1 2 = some (BitVec.allOnes 64) := by decide +kernel
theorem test_mul_low : onS (.mul plain 3 1 2) 0x100000001 0x100000001 = some 0x200000001 := by decide +kernel
theorem test_mulhs_minus_one : onS (.mulhs plain 3 1 2) (BitVec.allOnes 64) 1 = some (BitVec.allOnes 64) := by decide +kernel
theorem test_mulhu_all_ones : onS (.mulhu plain 3 1 2) (BitVec.allOnes 64) 2 = some 1 := by decide +kernel
theorem test_divs_truncates : onS (.divs plain 3 1 2) (BitVec.ofInt 64 (-7)) 2 = some (BitVec.ofInt 64 (-3)) := by decide +kernel
theorem test_divu_by_zero : onS (.divu plain 3 1 2) 7 0 = some (BitVec.allOnes 64) := by decide +kernel
theorem test_rems_sign : onS (.rems plain 3 1 2) (BitVec.ofInt 64 (-7)) 2 = some (BitVec.ofInt 64 (-1)) := by decide +kernel
theorem test_remu_by_zero : onS (.remu plain 3 1 2) 7 0 = some 7 := by decide +kernel
theorem test_andn : onS (.andn plain 3 1 2) 0xFF 0x0F = some 0xF0 := by decide +kernel
theorem test_shl_64 : onS (.shl plain 3 1 2) 1 64 = some 0 := by decide +kernel
theorem test_sar_64 : onS (.sar plain 3 1 2) (BitVec.intMin 64) 64 = some (BitVec.allOnes 64) := by decide +kernel
theorem test_rol_65 : onS (.rol plain 3 1 2) 0x8000000000000000 65 = some 1 := by decide +kernel
theorem test_clz_zero : onS (.clz plain 3 1) 0 0 = some 64 := by decide +kernel
theorem test_ctz : onS (.ctz plain 3 1) 8 0 = some 3 := by decide +kernel
theorem test_popc : onS (.popc plain 3 1) 0xF0F 0 = some 8 := by decide +kernel
theorem test_brev : onS (.brev plain 3 1) 1 0 = some 0x8000000000000000 := by decide +kernel
/-- R163's worked word: bits 12 to 31. -/
theorem test_bfx : onS (.bfx wide 3 1 (.imm 12 20)) 0x0000_0000_ABCD_E123 0 = some 0xABCDE := by decide +kernel
theorem test_bfxs : onS (.bfxs wide 3 1 (.imm 4 4)) 0x80 0 = some (BitVec.ofInt 64 (-8)) := by decide +kernel
theorem test_bfi : onS (.bfi wide 3 1 (.imm 8 8)) 0xAB 0 = some 0x112233445566AB88 := by decide +kernel
theorem test_lih : onS (.lih long 3 0xABCDEF01) 0 0 = some 0xABCDEF0155667788 := by decide +kernel
theorem test_lea : onS (.lea plain 3 1 2 3) 0x1000 2 = some 0x1010 := by decide +kernel
theorem test_mins_signed : onS (.mins plain 3 1 2) (BitVec.ofInt 64 (-1)) 1 = some (BitVec.ofInt 64 (-1)) := by decide +kernel
theorem test_maxu_unsigned : onS (.maxu plain 3 1 2) (BitVec.ofInt 64 (-1)) 1 = some (BitVec.ofInt 64 (-1)) := by decide +kernel
theorem test_write_g0_discarded : ran (.add plain 0 1 2) (benchG .s [(1, 5), (2, 6)]) (fun t => t.me.gReg 0) = some 0 := by decide +kernel
theorem test_cmp_ltu : ran (.cmp wide 1 1 2 .ltu) (benchG .s [(1, 1), (2, BitVec.allOnes 64)]) (fun t => t.me.qReg 1) = some true := by decide +kernel
theorem test_plog_and : ran (.plog plain 1 0 2 8) (bench .s) (fun t => t.me.qReg 1) = some false := by decide +kernel

/-! ### Vector instructions -/

theorem witness_vector : VectorIssues plain (bench .v) := vector_of (by decide +kernel)
theorem witness_IntegerElements : ElemType.i8.format.kind = .int { width := 8, signed := true } := by decide
theorem witness_VectorArithmetic : VectorIssues plain (bench .v) ∧ ElemType.f32.format.kind = .float fp32 ∧
    (∃ s1, (begun plain (bench .v)).vRows [2, 3] [1] true = .ok s1 ∧ s1.cellRace s1.cur [] = none) := by
  refine ⟨witness_vector, by decide, ?_⟩
  obtain ⟨a, h, p⟩ := okWith_elim (x := (begun plain (bench .v)).vRows [2, 3] [1] true) (p := fun s1 => (s1.cellRace s1.cur []).isNone) (by decide +kernel)
  exact ⟨a, h, by simpa using p⟩
/-- Finite operands, an infinity, a zero and a NaN of FP32, and a place of last bit below all of them. -/
theorem witness_FloatElements : ElemType.f32.format.kind = .float fp32 ∧ (-200 : Int) ≤ 1 - (fp32.bias : Int) - fp32.frac ∧ ElemType.i32.format.kind = .int { width := 32, signed := true } ∧
    fp32.value 0x3F800000 = .fin false (2 ^ 23) (-23) ∧ fp32.value 0x7F800000 = .inf false ∧ fp32.value 0x7FC00000 = .nan ∧ (fp32.value 0x80000000).isZero = true ∧
    fp32.value 0xC0000000 = .fin true (2 ^ 23) (-22) ∧ (fp32.round .rne 0 (.fin false 1 200)).2.of = true ∧ (fp32.round .rne 0 (.fin false 3 (-150))).2.of = false ∧
    (fp32.round .rtz 5 (.fin false 3 (-1))).1 % 2 ^ 31 < fp32.maxMag := by decide +kernel
theorem witness_VectorElementOperations : VectorIssues wide (bench .v) := vector_of (by decide +kernel)
theorem witness_VectorFunctions : VectorIssues plain (bench .v) := witness_vector
theorem witness_VectorPredicates : VectorIssues plain (bench .v) ∧ ElemType.u8.width = 8 := ⟨witness_vector, by decide⟩
/-- Thirty-two elements, none of them masked. -/
theorem witness_allowed : Allowed plain (bench .v) 32 (0xFFFFFFFF : Mask) := by unfold Allowed; decide +kernel
theorem witness_VectorReductions : VectorIssues plain (bench .v) ∧ 1024 / ElemType.f32.width = 32 ∧ Allowed plain (bench .v) 32 (0xFFFFFFFF : Mask) :=
  ⟨witness_vector, by decide, witness_allowed⟩
theorem witness_VectorConversions : VectorIssues wide (bench .v) ∧ 1024 / max (CvtSource.e4m3.format .u8).width Format.fp32.width = 32 :=
  ⟨vector_of (by decide +kernel), by decide⟩
/-- An access to the first 128 bytes of the own store. -/
theorem witness_VectorAccess : let s := benchG .v [(1, 0x2000000000000000)]
    VectorIssues plain s ∧ Allowed plain s 32 (0xFFFFFFFF : Mask) ∧
    ∀ i, i < 32 → inOwnStore (begun plain s) s.cur.slot ((begun plain s).memAddr 1 0 0 + BitVec.ofNat 64 i * 4) 4 ∧
      offset ((begun plain s).memAddr 1 0 0 + BitVec.ofNat 64 i * 4) % 4 = 0 :=
  ⟨vector_of (by decide +kernel), by unfold Allowed; decide +kernel, by unfold inOwnStore; decide +kernel⟩
/-- A word that ends with the store, so that element 1 is outside it, and one that is aligned to 2 alone. -/
theorem witness_VectorAccess_traps : let s := benchG .v [(1, 0x20000000000FFFFC), (2, 0x2000000000000002)]
    let outside (i : Nat) : Prop := ¬ inOwnStore (begun plain s) s.cur.slot ((begun plain s).rg 1 + BitVec.ofNat 64 i * 4) 4
    VectorIssues plain s ∧ Allowed plain s 32 (0xFFFFFFFF : Mask) ∧ ¬ outside 0 ∧ outside 1 ∧
    TrapsAtOnce s { cause := 0x07, sub := 0, tval := (begun plain s).rg 1 + 4 } ∧
    (∀ j, j < 32 → inOwnStore (begun plain s) s.cur.slot ((begun plain s).rg 2 + BitVec.ofNat 64 j * 4) 4) ∧
    offset ((begun plain s).rg 2 + BitVec.ofNat 64 0 * 4) % 4 ≠ 0 ∧ TrapsAtOnce s { cause := 0x06, sub := 0, tval := (begun plain s).rg 2 + BitVec.ofNat 64 0 * 4 } :=
  ⟨vector_of (by decide +kernel), by unfold Allowed; decide +kernel, by unfold inOwnStore; decide +kernel, by unfold inOwnStore; decide +kernel,
   atOnce_of (by decide +kernel), by unfold inOwnStore; decide +kernel, by decide +kernel, atOnce_of (by decide +kernel)⟩

/-- A store of two elements in flight, and results for a g register, a predicate and a row. -/
def storeEntry : VEntry := { VEntry.bare with kind := .store, width := 4, mask := 3, addr := 0x2000000000000000, stride := 4, data := 0x0000000200000001 }
def rowEntry : VEntry := { VEntry.bare with kind := .vreg, dest := 63, width := 4, mask := 3, data := 0x0000000200000001, flags := 1, post := some .s }
theorem witness_Landing : storeEntry.kind = .store ∧ 0 < storeEntry.width ∧ storeEntry.elemAddr 1 = 4 ∧ rowEntry.kind = .vreg ∧ rowEntry.mask ≠ 0 ∧
    rowEntry.width = 4 ∧ rowEntry.dest < 64 ∧ (bench .v).accFirst placedSlot (rowEntry.dest / 32) = false ∧ rowEntry.post = some .s ∧
    (gResult plain 1 5).kind = .greg ∧ (qResult plain 1 5).kind = .qreg := by decide +kernel
/-- A load of two elements, and a heap pair whose second register is in the other tile, in flight. -/
def loadEntry : VEntry := { storeEntry with kind := .load, dest := 63 }
def pairEntry : VEntry := { rowEntry with kind := .heapPair, dest := 31, dest2 := 63, data2 := 0x0000000400000003 }
theorem witness_Landing_rows : (loadEntry.kind = .load ∧ loadEntry.mask ≠ 0 ∧ loadEntry.width = 4 ∧ loadEntry.dest < 64) ∧
    (pairEntry.kind = .heapPair ∧ pairEntry.mask ≠ 0 ∧ pairEntry.width = 4 ∧ pairEntry.dest < 64 ∧ pairEntry.dest2 < 64 ∧ pairEntry.dest ≠ pairEntry.dest2) ∧
    ∀ n, n < 2 → (bench .v).accFirst placedSlot n = false := by decide +kernel

/-- The mask stack at a depth. -/
def stacked (n : Nat) : State := benchWith .v (fun l => { l with mstack := List.replicate n Mask.full })
theorem witness_MaskStack_push : VectorIssues plain (stacked 15) ∧ (begun plain (stacked 15)).here.mstack.length < 16 ∧
    (((begun plain (stacked 15)).here.v.vqReg 0).getLsbD 0 != false) = true := ⟨vector_of (by decide +kernel), by decide +kernel, by decide +kernel⟩
theorem witness_MaskStack_full : VectorIssues plain (stacked 16) ∧ 16 ≤ (begun plain (stacked 16)).here.mstack.length ∧
    (landed (stacked 16)).trapHeld placedSlot .v 0x01 = false := ⟨vector_of (by decide +kernel), by decide +kernel, by decide +kernel⟩
theorem witness_MaskStack_empty : VectorIssues plain (stacked 0) ∧ (begun plain (stacked 0)).here.mstack = [] := ⟨vector_of (by decide +kernel), by decide +kernel⟩
theorem witness_MaskStack_pop : VectorIssues plain (stacked 1) ∧ (begun plain (stacked 1)).here.mstack ≠ [] := ⟨vector_of (by decide +kernel), by decide +kernel⟩
theorem witness_MaskStack_guard_false : VectorIssues { wide with sense := true } (stacked 1) ∧
    (((begun { wide with sense := true } (stacked 1)).here.v.vqReg 0).getLsbD 0 != true) = false := ⟨vector_of (by decide +kernel), by decide +kernel⟩
theorem witness_HeapGatherAndRead : (∃ s1, (begun plain (bench .v)).vRows [1] [] false = .ok s1) ∧ VectorIssues plain (bench .v) ∧
    Allowed plain (bench .v) 32 (0xFFFFFFFF : Mask) ∧ (begun plain (bench .v)).here.hloss = false ∧ (∃ s1, (begun plain (bench .v)).vRows [] [1, 2] true = .ok s1) := by
  refine ⟨?_, witness_vector, witness_allowed, by decide +kernel, ?_⟩
  · obtain ⟨a, h, _⟩ := okWith_elim (x := (begun plain (bench .v)).vRows [1] [] false) (p := fun _ => true) (by decide +kernel)
    exact ⟨a, h⟩
  · obtain ⟨a, h, _⟩ := okWith_elim (x := (begun plain (bench .v)).vRows [] [1, 2] true) (p := fun _ => true) (by decide +kernel)
    exact ⟨a, h⟩

/-- Two entries of a heap, 2.0 and 1.0, between which 1.5 goes. -/
def twoHeld : List (BitVec 32 × BitVec 32) := [(0x40000000, 9), (0x3F800000, 3)]
theorem witness_HeapInsertion : HeapOrdered twoHeld ∧ (fp32.value (0x3FC00000 : BitVec 32).toNat).isNan = false ∧
    heapGreater (0x3F800000, 2) (0x3F800000, 3) := by
  refine ⟨⟨?_, by decide, ?_⟩, by decide +kernel, by unfold heapGreater; decide +kernel⟩
  · rw [twoHeld, List.pairwise_pair]
    unfold heapGreater
    decide +kernel
  · intro p m
    simp only [twoHeld, List.mem_cons, List.not_mem_nil] at m
    rcases m with rfl | rfl | m
    · decide +kernel
    · decide +kernel
    · exact m.elim
/-- An empty heap that has lost an entry. -/
def heapLost : State := benchWith .v (fun l => { l with hloss := true, hpopped := 256 })
theorem witness_HeapInstructions : VectorIssues plain heapLost ∧ Allowed plain heapLost 32 (0xFFFFFFFF : Mask) ∧ (begun plain heapLost).here.heap = [] ∧
    (begun plain heapLost).here.hloss = true ∧ TrapsAtOnce heapLost { cause := 0x0D, sub := 0, tval := BitVec.ofNat 64 (begun plain heapLost).here.hpopped } ∧
    HeapOrdered (begun plain heapLost).here.heap := by
  refine ⟨vector_of (by decide +kernel), by unfold Allowed; decide +kernel, by decide +kernel, by decide +kernel, atOnce_of (by decide +kernel), ?_⟩
  rw [show (begun plain heapLost).here.heap = [] by decide +kernel]
  exact ⟨.nil, by decide, by simp⟩

/-- A V instruction on rows 1 and 2 of 32-bit elements, landed. -/
def onV (i : Instr) (x y : Row) (gs : List (Nat × Word)) (f : State → Nat) : Option Nat :=
  let s := (((benchG .v gs).setVReg placedSlot 1 x).setVReg placedSlot 2 y)
  (after (exec i s)).map (fun t => f (match t.here.vflight with
    | e :: _ => t.landEntry placedSlot e
    | [] => t))
/-- Element i of row 3. -/
def elemOf (w i : Nat) (t : State) : Nat := (t.vReg placedSlot 3).elem w i

theorem test_vadd_f32 : onV (.vadd plain 3 1 2 .f32 (.round .rne)) 0x3F800000 0x40000000 [] (elemOf 32 0) = some 0x40400000 := by decide +kernel
theorem test_vadd_saturates : onV (.vadd wide 3 1 2 .i8 .sat) 0x7F 0x01 [] (elemOf 8 0) = some 0x7F := by decide +kernel
theorem test_vsub_wraps : onV (.vsub plain 3 1 2 .u16 .wrap) 0 1 [] (elemOf 16 0) = some 0xFFFF := by decide +kernel
theorem test_vmul_f32 : onV (.vmul plain 3 1 2 .f32 (.round .rne)) 0x40000000 0x40400000 [] (elemOf 32 0) = some 0x40C00000 := by decide +kernel
theorem test_vmin_signed : onV (.vmin plain 3 1 2 .i32) 0xFFFFFFFF 1 [] (elemOf 32 0) = some 0xFFFFFFFF := by decide +kernel
theorem test_vsar_wide_amount : onV (.vsar plain 3 1 2 .i16) 0x8000 200 [] (elemOf 16 0) = some 0xFFFF := by decide +kernel
theorem test_vcvt_e4m3 : onV (.vcvt wide 3 1 .u8 .e4m3 .fp32 .rne) 0x38 0 [] (elemOf 32 0) = some 0x3F800000 := by decide +kernel
theorem test_vrcp_two : onV (.vrcp plain 3 1) 0x40000000 0 [] (elemOf 32 0) = some 0x3F000000 := by decide +kernel
theorem test_vsqrt_four : onV (.vsqrt plain 3 1) 0x40800000 0 [] (elemOf 32 0) = some 0x40000000 := by decide +kernel
theorem test_vrot : onV (.vrot plain 3 1 5 .u32) 0x0000000200000001 0 [(5, 1)] (elemOf 32 0) = some 2 := by decide +kernel
theorem test_viota : onV (.viota plain 3 .u8) 0 0 [] (elemOf 8 127) = some 127 := by decide +kernel
theorem test_vred_sum : onV (.vred plain 3 1 .i32 .sum .rne) 0x0000000200000001 0 [] (fun t => (t.me.gReg 3).toNat) = some 3 := by decide +kernel
theorem test_vscan_sum : onV (.vscan plain 3 1 .i32 .sum .rne) 0x0000000200000001 0 [] (elemOf 32 31) = some 3 := by decide +kernel
theorem test_vcmp_nan : onV (.vcmp wide 3 1 2 .f32 .un) 0x7FC00000 0 [] (fun t => (t.here.v.vqReg 3).toNat) = some 1 := by decide +kernel
theorem test_vld_row : onV (.vld plain 3 5 0 .u8 0) 0 0 [(5, 0x2000000000100000 - 128)] (elemOf 8 127) = some 0 ∧
    onV (.vld plain 3 5 0 .u32 0) 0 0 [(5, 0x2000000000100000 - 124)] (fun t => t.here.sr.tval.toNat) = some 0x2000000000100000 := by decide +kernel
theorem test_vst_own_store : onV (.vst plain 1 5 0 .u32 0) 0xAABBCCDD 0 [(5, 0x2000000000000010)]
    (fun t => (Memory.byte t.mem (cellStoreAt 0 + 0x10)).toNat) = some 0xDD := by decide +kernel
theorem test_vheap_order : onV (.vheap plain 1 5) 0x40000000_3F800000 0 [(5, 100)]
    (fun t => (t.here.heap.headD (0, 0)).2.toNat) = some 101 := by decide +kernel

/-! ### Guards, control and special registers -/

theorem witness_FalseGuardLeavesTokensOnly : let h := { wide with sense := true }
    (Instr.add h 1 2 3).hdr = some h ∧ guardByParts (.add h 1 2 3) = false ∧ Ready h (bench .s) ∧ Onward h (landed (bench .s)) ∧
    (landed (bench .s)).guardHolds h = false :=
  ⟨rfl, rfl, ready_of (by decide +kernel), onward_of (by decide +kernel), by decide +kernel⟩

/-- The last word of the placed line, and the first. -/
theorem witness_Branches_taken : let s := benchG .s [(9, 0x400004)]
    Ready wide s ∧ (landed s).guardHolds wide = true ∧ ((begun wide s).me.line.va : Int) + 64 * 0 = 0x400000 ∧
    (∃ l, (landed s).enterAt s.cur (0x400000 + 4 + 4 * 3) = .ok l) ∧ ((begun wide s).rg 9).toNat / 2 ^ 61 % 8 = 0 ∧
    ((begun wide s).rg 9).toNat % 4 = 0 ∧ 4 ≤ ((begun wide s).rg 9).toNat % 64 ∧ (∃ l, (landed s).enterAt s.cur ((begun wide s).rg 9).toNat = .ok l) := by
  refine ⟨ready_of (by decide +kernel), by decide +kernel, by decide +kernel, ?_, by decide +kernel, by decide +kernel, by decide +kernel, ?_⟩
  · obtain ⟨l, h, _⟩ := okWith_elim (x := (landed (benchG .s [(9, 0x400004)])).enterAt (benchG .s [(9, 0x400004)]).cur (0x400000 + 4 + 4 * 3))
      (p := fun _ => true) (by decide +kernel)
    exact ⟨l, h⟩
  · obtain ⟨l, h, _⟩ := okWith_elim (x := (landed (benchG .s [(9, 0x400004)])).enterAt (benchG .s [(9, 0x400004)]).cur
      ((begun wide (benchG .s [(9, 0x400004)])).rg 9).toNat) (p := fun _ => true) (by decide +kernel)
    exact ⟨l, h⟩
/-- LOOP at 0, at 1 and at 2. -/
def looping (n : BitVec 32) : State := benchWith .s (fun l => l.withStream .s (fun t => { t with l := [(1, n)] }))
theorem witness_Branches_loop : (Ready wide (looping 0) ∧ (begun wide (looping 0)).me.lReg 1 = 0 ∧ Onward wide (looping 0)) ∧
    (Ready wide (looping 1) ∧ (begun wide (looping 1)).me.lReg 1 = 1 ∧ Onward wide (looping 1)) ∧
    (Ready wide (looping 2) ∧ (begun wide (looping 2)).me.lReg 1 ≠ 0 ∧ (begun wide (looping 2)).me.lReg 1 ≠ 1) :=
  ⟨⟨ready_of (by decide +kernel), by decide +kernel, onward_of (by decide +kernel)⟩,
   ⟨ready_of (by decide +kernel), by decide +kernel, onward_of (by decide +kernel)⟩,
   ready_of (by decide +kernel), by decide +kernel, by decide +kernel⟩
theorem witness_Branches_space : let s := benchG .s [(9, 0x2000000000400004)]
    Ready plain s ∧ (landed s).guardHolds plain = true ∧ TrapsAtOnce s { cause := 0x07, sub := 0, tval := (begun plain s).rg 9 } ∧
    ((begun plain s).rg 9).toNat / 2 ^ 61 % 8 ≠ 0 := ⟨ready_of (by decide +kernel), by decide +kernel, atOnce_of (by decide +kernel), by decide +kernel⟩
theorem witness_Branches_align : let s := benchG .s [(9, 0x400003)]
    TrapsAtOnce s { cause := 0x06, sub := 0, tval := (begun plain s).rg 9 } ∧ ((begun plain s).rg 9).toNat / 2 ^ 61 % 8 = 0 ∧
    (((begun plain s).rg 9).toNat % 4 ≠ 0 ∨ ((begun plain s).rg 9).toNat % 64 < 4) := ⟨atOnce_of (by decide +kernel), by decide +kernel, by decide +kernel⟩
theorem witness_Branches_outside : let s := bench .s
    TrapsAtOnce s { cause := 0x07, sub := 0, tval := BitVec.ofNat 64 (landed s).me.line.va } ∧ ((landed s).me.line.va : Int) + 64 * (-65537) < 0 :=
  ⟨atOnce_of (by decide +kernel), by decide +kernel⟩
theorem witness_Branches_vector : let s := bench .v
    VectorIssues wide s ∧ (((begun wide s).here.v.vqReg 0).getLsbD 0 != false) = true ∧ (begun wide s).me.vqReg 0 &&& (begun wide s).here.maskTop ≠ 0 ∧
    (begun wide s).me.vqReg 1 &&& (begun wide s).here.maskTop = 0 ∧ (∃ l, (landed s).enterAt s.cur (0x400000 + 4) = .ok l) := by
  refine ⟨vector_of (by decide +kernel), by decide +kernel, by decide +kernel, by decide +kernel, ?_⟩
  obtain ⟨l, h, _⟩ := okWith_elim (x := (landed (bench .v)).enterAt (bench .v).cur (0x400000 + 4)) (p := fun _ => true) (by decide +kernel)
  exact ⟨l, h⟩

/-- S before the only word of a line with LAST set. -/
def lastWord : State := benchWith .s (fun l => l.withStream .s (fun t => { t with line := { va := 0x400000, data := 0x11 } }))
theorem witness_Halting : Ready plain lastWord ∧ lastWord.cur.stream ≠ .v ∧ lastWord.guardHolds plain = true ∧
    (∃ st, st ≠ lastWord.cur.stream ∧ (lastWord.here.stream st).halted = false) ∧ lastWord.me.line.count ≤ wordIndex lastWord.me.pc + plain.words ∧
    lastWord.me.line.last = true :=
  ⟨ready_of (by decide +kernel), by decide +kernel, by decide +kernel, ⟨.x, by decide, by decide +kernel⟩, by decide +kernel, by decide +kernel⟩

/-- A unit on pantry cell 512. -/
def pantryBench : State :=
  { bench .s with cur := { slot := { cell := 512, h1 := false }, stream := .s }, cells := [(512, { CellSt.blank with h0 := benchSlot })] }
theorem witness_Addresses_compute : Issues plain (benchG .s [(1, 0x2000000000000010)]) ∧ (benchG .s []).cur.slot.cell < 512 ∧
    ((landed (benchG .s [(1, 0x2000000000000010)])).rg 1).toNat / 2 ^ 61 = 1 ∧ ((landed (benchG .s [(1, 0x6000000000000010)])).rg 1).toNat / 2 ^ 61 = 3 ∧
    ((landed (benchG .s [(1, 0x4000000000000010)])).rg 1).toNat / 2 ^ 61 = 2 := ⟨issues_of (by decide +kernel), by decide +kernel⟩
theorem witness_Addresses_pantry : Issues plain pantryBench ∧ 512 ≤ pantryBench.cur.slot.cell := ⟨issues_of (by decide +kernel), by decide +kernel⟩
/-- S in supervisor mode. -/
def supBench : State := benchWith .s (fun l => { l with s := { l.s with sup := true } })
theorem witness_Specials_modes : (Issues plain supBench ∧ (begun plain supBench).userMode supBench.cur = false) ∧
    (begun plain (bench .s)).userMode (bench .s).cur = true ∧ TrapsAtOnce (bench .s) { cause := 0x05, sub := 0, tval := BitVec.ofNat 64 0x0D } ∧
    (begun plain (bench .s)).foreignNeighbour (bench .s).cur.slot = false :=
  ⟨⟨issues_of (by decide +kernel), by decide +kernel⟩, by decide +kernel, atOnce_of (by decide +kernel), by decide +kernel⟩

/-- S in supervisor mode in a pantry cell. -/
def supPantry : State := { pantryBench with cells := [(512, { CellSt.blank with h0 := { benchSlot with s := { benchSlot.s with sup := true } } })] }
theorem witness_Specials_cells : (Issues plain supPantry ∧ (begun plain supPantry).userMode supPantry.cur = false ∧ 512 ≤ supPantry.cur.slot.cell) ∧
    supBench.cur.slot.cell < 512 := ⟨⟨issues_of (by decide +kernel), by decide +kernel, by decide +kernel⟩, by decide +kernel⟩
theorem test_mts_aown : ran (.mts plain 0x0C 1) { supBench with cells := [(0, { supBench.cell 0 with h0 := (supBench.slot placedSlot).withStream .s (fun t => { t with g := [(1, 0x12A)] }) })] }
    (fun t => (((t.cell 0).tile 0).dirty, ((t.cell 0).tile 1).held, t.here.sr.img0, t.here.sr.img1)) = some (true, true, true, false) := by decide +kernel

theorem test_call_links : ran (.call wide { line := 0, word := 3 }) (bench .s) (fun t => (t.me.pc, (t.me.gReg 63).toNat)) = some (0x400010, 0x40000C) := by
  decide +kernel
theorem test_callr_reads_first : ran (.callr plain 63) (benchG .s [(63, 0x400010)]) (fun t => (t.me.pc, (t.me.gReg 63).toNat)) = some (0x400010, 0x400008) := by
  decide +kernel
theorem test_loop_last : ran (.loop wide 1 { line := 0, word := 3 }) (looping 1) (fun t => (t.me.pc, (t.me.lReg 1).toNat)) = some (0x40000C, 0) := by decide +kernel
theorem test_loop_taken : ran (.loop wide 1 { line := 0, word := 3 }) (looping 2) (fun t => (t.me.pc, (t.me.lReg 1).toNat)) = some (0x400010, 1) := by decide +kernel
theorem test_false_guard : ran (.add { wide with sense := true } 3 1 2) (benchG .s [(1, 1)]) (fun t => (t.me.gReg 3, t.me.pc)) = some (0, 0x40000C) := by decide +kernel
theorem test_cvta_own : ran (.cvta plain 3 1 0) (benchG .s [(1, 0x2000000000000010)]) (fun t => t.me.gReg 3) = some 0x4000000000000010 := by decide +kernel
theorem test_mts_tvec : ran (.mts plain 0x08 1) (benchG .s [(1, BitVec.allOnes 64)]) (fun t => t.here.sr.tvec) = some 0x001FEFFEFFFFFFC0 := by decide +kernel
theorem test_mfs_unit : ran (.mfs plain 3 0) pantryBench (fun t => t.me.gReg 3) = some 0x8000 := by decide +kernel
theorem test_halt : ran (.halt plain) (bench .s) (fun t => (t.here.s.halted, t.here.v.halted)) = some (true, false) := by decide +kernel

/-- Numbers of either sign, a NaN and a zero; an element below 2^−12, one of 16 and one between them. -/
theorem witness_ElementValues : ElemType.i8.format.kind = .int { width := 8, signed := true } ∧ ElemType.f32.format.kind = .float fp32 ∧
    (∃ m e, fp32.value 0x30000000 = .fin false m e ∧ m ≠ 0 ∧ (unitsOf (min e (-12)) (fp32.value 0x30000000)).natAbs < 2 ^ (-12 - min e (-12)).toNat) ∧
    (∃ m e, fp32.value 0x41800000 = .fin false m e ∧ 16 * 2 ^ 12 * 2 ^ (-12 - min e (-12)).toNat ≤ (unitsOf (min e (-12)) (fp32.value 0x41800000)).natAbs) ∧
    (∃ m e, fp32.value 0x3F800000 = .fin false m e ∧ 2 ^ (-12 - min e (-12)).toNat ≤ (unitsOf (min e (-12)) (fp32.value 0x3F800000)).natAbs ∧
      (unitsOf (min e (-12)) (fp32.value 0x3F800000)).natAbs < 16 * 2 ^ 12 * 2 ^ (-12 - min e (-12)).toNat) ∧
    valueLt (fp32.value 0xBF800000) (fp32.value 0x3F800000) ∧ (fp32.value 0x7FC00001).isNan = true ∧ (fp32.value 0x80000000).isZero = true :=
  ⟨by decide +kernel, by decide +kernel, ⟨2 ^ 23, -54, by decide +kernel⟩, ⟨2 ^ 23, -19, by decide +kernel⟩, ⟨2 ^ 23, -23, by decide +kernel⟩,
   by change _ < _; decide +kernel, by decide +kernel, by decide +kernel⟩
/-- Halves of a tree, and candidates of VMAXI without a number and with one. -/
theorem witness_ReductionValues : ([Lane.plain 3, Lane.plain 5] : List Lane).length = 2 ^ 1 ∧ ElemType.f32.format.kind = .float fp32 ∧
    (∀ p ∈ ([(0x7FC00001, 0)] : List (Nat × Nat)), (ElemType.f32.format.value 0 p.1).isNan = true) ∧
    ¬ (∀ p ∈ ([(0x7FC00001, 0), (0x3F800000, 1)] : List (Nat × Nat)), (ElemType.f32.format.value 0 p.1).isNan = true) := by decide +kernel

/-- MCVT under a false guard in M, and VBRZ in V. -/
theorem witness_FalseGuard_parts : let h := { wide with sense := true }
    (Ready h (bench .m) ∧ (bench .m).cur.stream ≠ .v ∧ Onward h (bench .m) ∧ (bench .m).guardHolds h = false) ∧
    (VectorIssues h (bench .v) ∧ ((begun h (bench .v)).here.v.vqReg h.guard).getLsbD 0 = h.sense) :=
  ⟨⟨ready_of (by decide +kernel), by decide +kernel, onward_of (by decide +kernel), by decide +kernel⟩, vector_of (by decide +kernel), by decide +kernel⟩

/-- LOOP of V at 0 and 1, and of S at 2 to a target below the first line. -/
def loopingV (n : BitVec 32) : State := benchWith .v (fun l => l.withStream .v (fun t => { t with l := [(1, n)] }))
theorem witness_Branches_vector_loop : ∀ n ∈ ([0, 1] : List (BitVec 32)), Ready wide (loopingV n) ∧ (landed (loopingV n)).guardHolds wide = true ∧
    (loopingV n).cur.stream = .v ∧ Onward wide (landed (loopingV n)) ∧ (begun wide (loopingV n)).me.lReg 1 = n := by
  intro n m
  simp only [List.mem_cons, List.not_mem_nil] at m
  rcases m with rfl | rfl | m
  · exact ⟨ready_of (by decide +kernel), by decide +kernel, rfl, onward_of (by decide +kernel), by decide +kernel⟩
  · exact ⟨ready_of (by decide +kernel), by decide +kernel, rfl, onward_of (by decide +kernel), by decide +kernel⟩
  · exact m.elim
theorem witness_Branches_loop_outside : let s := looping 2
    Ready wide s ∧ (landed s).guardHolds wide = true ∧ TrapsAtOnce s { cause := 0x07, sub := 0, tval := BitVec.ofNat 64 (landed s).me.line.va } ∧
    ((landed s).me.line.va : Int) + 64 * (-65537) < 0 ∧ (begun wide s).me.lReg 1 ≠ 0 ∧ (begun wide s).me.lReg 1 ≠ 1 :=
  ⟨ready_of (by decide +kernel), by decide +kernel, atOnce_of (by decide +kernel), by decide +kernel, by decide +kernel, by decide +kernel⟩

/-- A unit of two in its launch whose last stream runs alone. -/
def lastStream (st : Stream) (l : Slot → Slot) : State :=
  { benchWith st (fun k => l { k with s := { k.s with halted := decide (st ≠ .s) }, v := { k.v with halted := decide (st ≠ .v) }
                                      m := { k.m with halted := true }, x := { k.x with halted := true } }) with
    launches := [(1, { placedLaunch with handle := 0x101, units := [{ UnitSt.blank with status := .bound placedSlot }, UnitSt.blank] })] }
theorem witness_Halting_vector : (Ready plain (bench .v) ∧ (landed (bench .v)).guardHolds plain = true ∧ ((bench .v).here.stream .x).halted = false) ∧
    (let s := lastStream .v (fun l => { l with vflight := [{ gResult plain 1 5 with offset := 4 }] })
     Ready plain s ∧ (landed s).guardHolds plain = true ∧ (begun plain s).here.vflight ≠ []) :=
  ⟨⟨ready_of (by decide +kernel), by decide +kernel, by decide +kernel⟩, ready_of (by decide +kernel), by decide +kernel, by decide +kernel⟩
theorem witness_UnitEnds : ∀ st ∈ [Stream.s, .v], ∀ took ∈ [false, true], let s := lastStream st (fun l => { l with tookCancel := took })
    Ready plain s ∧ (landed s).guardHolds plain = true ∧ (∀ p, p ≠ s.cur.stream → ((begun plain s).here.stream p).halted = true) ∧
    (begun plain s).here.vflight = [] ∧ (begun plain s).here.mflight = none ∧ (begun plain s).here.xqueue = [] ∧
    (begun plain s).here.bound = some placedBinding ∧
    (∃ l x, Map.find (begun plain s).launches 1 = some l ∧ l.units[0]? = some x ∧ x.status = .bound placedSlot ∧ l.state = 0 ∧
      l.ended + 1 < l.units.length) := by
  intro st hs took ht
  have m : (st = .s ∨ st = .v) ∧ (took = false ∨ took = true) := ⟨by simpa using hs, by cases took <;> simp⟩
  rcases m with ⟨rfl | rfl, rfl | rfl⟩ <;>
  · refine ⟨ready_of (by decide +kernel), by decide +kernel, fun p hp => ?_, by decide +kernel, by decide +kernel, by decide +kernel, by decide +kernel,
      { placedLaunch with handle := 0x101, units := [{ UnitSt.blank with status := .bound placedSlot }, UnitSt.blank] },
      { UnitSt.blank with status := .bound placedSlot }, by decide +kernel⟩
    cases p <;> first | rfl | exact absurd rfl hp

/-- Reserved numbers in both modes, a unit of one micro-context alone in its cell, and a window that it may set. -/
theorem witness_Specials_reserved : (∀ n, n = 0x06 ∨ n = 0x07 ∨ n = 0x10 → reservedSpecial n) ∧
    TrapsAtOnce (bench .s) { cause := 0x04, sub := 0, tval := BitVec.ofNat 64 (bench .s).me.pc } ∧
    TrapsAtOnce supBench { cause := 0x04, sub := 0, tval := BitVec.ofNat 64 supBench.me.pc } ∧
    (begun plain supBench).foreignNeighbour supBench.cur.slot = false ∧ supBench.cur.slot.cell < 512 := by
  refine ⟨fun n h => ?_, atOnce_of (by decide +kernel), atOnce_of (by decide +kernel), by decide +kernel, by decide +kernel⟩
  unfold reservedSpecial; omega

/-! ### Memory, synchronisation and system instructions -/

/-- The first doubleword of the own store. -/
def own : Word := 0x2000000000000000
/-- The bench with registers and with bytes in the own store. -/
def stored (gs : List (Nat × Word)) (off : Nat) (bs : List Byte) : State :=
  let s := benchG .s gs
  { s with mem := Memory.write s.mem (cellStoreAt 0 + off) bs }

theorem witness_LoadsStores : let s := benchG .s [(1, own), (2, 0xFFFF8)]
    Issues plain s ∧ s.cur.stream = .s ∧ (∃ r, (begun plain s).sAccess .load true (s.rg 1 + s.rg 2 + 0) 8 8 = .ok r) ∧
    (∃ r, (begun plain s).sAccess .load false (s.rg 1 + s.rg 2 + 0) 8 8 = .ok r) ∧ (begun plain s).sideCheck (s.rg 1 + s.rg 2 + 0) 8 = none ∧
    (∃ r, (begun plain s).sAccess .store true (s.rg 1 + s.rg 2 + 0) 8 8 = .ok r) ∧
    (∃ r, (begun plain s).sAccess .store false (s.rg 1 + s.rg 2 + 0) 8 8 = .ok r) := by
  let s := benchG .s [(1, own), (2, 0xFFFF8)]
  have ok (k : Access) (p : Bool) (c : okWith ((begun plain s).sAccess k p (s.rg 1 + s.rg 2 + 0) 8 8) (fun _ => true) = true) :
      ∃ r, (begun plain s).sAccess k p (s.rg 1 + s.rg 2 + 0) 8 8 = .ok r := (okWith_elim c).imp (fun _ h => h.1)
  exact ⟨issues_of (by decide +kernel), rfl, ok _ _ (by decide +kernel), ok _ _ (by decide +kernel), by decide +kernel, ok _ _ (by decide +kernel),
    ok _ _ (by decide +kernel)⟩
/-- One byte past the store, and one byte off a word. -/
theorem witness_LoadsStores_traps : let s := benchG .s [(1, own), (2, 0xFFFFD), (3, 1)]
    Ready plain s ∧ s.guardHolds plain = true ∧ s.here.window = none ∧ TrapsAtOnce s { cause := 0x07, sub := 0, tval := s.rg 1 + s.rg 2 + 0 } ∧
    TrapsAtOnce s { cause := 0x06, sub := 0, tval := s.rg 1 + s.rg 3 + 0 } ∧
    (begun plain s).spaceOk s.cur ((begun plain s).binding s.cur.slot) (s.rg 1 + s.rg 2 + 0) 4 = false ∧
    (begun plain s).spaceOk s.cur ((begun plain s).binding s.cur.slot) (s.rg 1 + s.rg 3 + 0) 4 = true ∧ (s.rg 1 + s.rg 3 + 0).toNat % 2 ^ 57 % 4 ≠ 0 :=
  ⟨ready_of (by decide +kernel), by decide +kernel, by decide +kernel, atOnce_of (by decide +kernel), atOnce_of (by decide +kernel), by decide +kernel,
   by decide +kernel, by decide +kernel⟩
theorem witness_Atomics : let s := benchG .s [(1, own), (2, 0xFFFFFFFF)]
    Issues wide s ∧ (begun wide s).sideCheck (s.rg 1) 4 = none ∧ (∃ r, (begun wide s).sAccess .atomic false (s.rg 1) 4 4 = .ok r) ∧
    natOf (s.load (cellStoreAt 0) 4) ≠ (s.rg 2).toNat % 2 ^ 32 ∧ natOf (s.load (cellStoreAt 0) 4) = (s.rg 0).toNat % 2 ^ 32 ∧
    signed 32 ((s.rg 2).toNat % 2 ^ 32) < signed 32 (natOf (s.load (cellStoreAt 0) 4)) ∧ natOf (s.load (cellStoreAt 0) 4) < (s.rg 2).toNat % 2 ^ 32 :=
  ⟨issues_of (by decide +kernel), by decide +kernel,
   (okWith_elim (x := (begun wide (benchG .s [(1, own), (2, 0xFFFFFFFF)])).sAccess .atomic false ((benchG .s [(1, own), (2, 0xFFFFFFFF)]).rg 1) 4 4)
      (p := fun _ => true) (by decide +kernel)).imp (fun _ h => h.1), by decide +kernel, by decide +kernel, by decide +kernel, by decide +kernel⟩

/-- Fifteen tokens before S for M, and one from X. -/
theorem witness_Tokens : let s := busyBench
    Issues plain s ∧ s.here.tokens .s .m + s.here.reserved .s .m < 16 ∧ s.here.tokens .x .s ≠ 0 ∧ (begun plain (bench .v)).here.vflight.length < 32 ∧ (s.cur.stream = .x → (begun plain s).here.xqueue = []) ∧
    (Issues plain (bench .v) ∧ (begun plain (bench .v)).here.tokens .v .m + (begun plain (bench .v)).here.reserved .v .m + 0 < 16) ∧
    (Issues plain (bench .x) ∧ (begun plain (bench .x)).here.xqueue = []) :=
  ⟨issues_of (by decide +kernel), by decide +kernel, by decide +kernel, by decide +kernel, fun _ => by decide +kernel, ⟨witness_issues .v, by decide +kernel⟩,
   witness_issues .x, by decide +kernel⟩
theorem witness_Barriers : let s := bench .s
    Issues plain s ∧ (∃ l, (begun plain s).myLaunch = some l ∧ Map.find (l.barrier 15).arrived (begun plain s).myUnit.index ≠ some (l.barrier 15).phase) ∧
    (begun plain s).childOf (s.rg 1) = none ∧ (s.rg 2).toNat ≤ ((begun plain s).counterOf 1 false 1).toNat % 2 ^ 30 := by
  refine ⟨witness_issues .s, ?_, by decide +kernel, by decide +kernel⟩
  obtain ⟨l, h, p⟩ := someWith_elim (x := (begun plain (bench .s)).myLaunch)
    (p := fun l => decide (Map.find (l.barrier 15).arrived (begun plain (bench .s)).myUnit.index ≠ some (l.barrier 15).phase)) (by decide +kernel)
  exact ⟨l, h, of_decide_eq_true p⟩

/-- A launch record: its S entry, one item, a team of 2^n cells. -/
def launchBytes (n : Nat) : List Byte := bytesOf 8 0x400004 ++ List.replicate 32 0 ++ bytesOf 8 1 ++ [BitVec.ofNat 8 n] ++ List.replicate 15 0
/-- The bench with that record in the own store, in a partition of all clusters, with a quota and with launches under it. -/
def launching (n quota : Nat) (used : List (Nat × Launch)) : State :=
  let s := stored [(1, own)] 0 (launchBytes n)
  { s with partitions := [(0, { Partition.blank with clusters := 2 ^ 64 - 1, enable := true })], mcs := [(1, { placedMc with quota := quota })]
           launches := s.launches ++ used }
def childLaunch (n state : Nat) : Launch := { newLaunch n 1 2 0 (LaunchRec.ofBytes (launchBytes 0)) n 0 with handle := 0x303, device := true, quota := true, state := state }
theorem witness_Launch_created : let s := launching 0 1 []
    Issues plain s ∧ (∃ l, (begun plain s).myLaunch = some l ∧ l.record.gsize = 0 ∧ l.contTaken = false) ∧
    okWith ((begun plain s).sRead (s.rg 1) 64 64) (fun x => !(begun plain s).recordInvalid 0 x.1 && decide ((LaunchRec.ofBytes x.1).gsize = 0)) = true ∧
    (begun plain s).quotaUsed 1 < ((begun plain s).mc 1).quota ∧ (begun plain s).poolUsed 0 < poolSize := by
  refine ⟨issues_of (by decide +kernel), ?_, by decide +kernel, by decide +kernel, by decide +kernel⟩
  obtain ⟨l, h, p⟩ := someWith_elim (x := (begun plain (launching 0 1 [])).myLaunch) (p := fun l => decide (l.record.gsize = 0 ∧ l.contTaken = false)) (by decide +kernel)
  exact ⟨l, h, of_decide_eq_true p⟩
theorem witness_Launch_refused : (okWith ((begun plain (launching 10 1 [])).sRead own 64 64) (fun x => (begun plain (launching 10 1 [])).recordInvalid 0 x.1) = true) ∧
    ((begun plain (launching 0 1 [(3, childLaunch 3 0)])).mc 1).quota ≤ (begun plain (launching 0 1 [(3, childLaunch 3 0)])).quotaUsed 1 := by decide +kernel
/-- The handle of child 3 is in g5. -/
def withChild (state : Nat) : State :=
  let s := benchG .s [(5, 0x303)]
  { s with launches := s.launches ++ [(3, childLaunch 3 state)] }
theorem witness_Cancel : (∃ c, (begun plain (withChild 0)).childOf ((withChild 0).rg 5) = some c ∧ c.2.state = 0) ∧
    (∃ c, (begun plain (withChild 1)).childOf ((withChild 1).rg 5) = some c ∧ c.2.state ≠ 0) ∧ (begun plain (withChild 0)).childOf ((withChild 0).rg 6) = none ∧
    Issues plain (withChild 0) ∧ (withChild 0).here.window = none := by
  refine ⟨?_, ?_, by decide +kernel, issues_of (by decide +kernel), rfl⟩
  · obtain ⟨c, h, p⟩ := someWith_elim (x := (begun plain (withChild 0)).childOf ((withChild 0).rg 5)) (p := fun c => decide (c.2.state = 0)) (by decide +kernel)
    exact ⟨c, h, of_decide_eq_true p⟩
  · obtain ⟨c, h, p⟩ := someWith_elim (x := (begun plain (withChild 1)).childOf ((withChild 1).rg 5)) (p := fun c => decide (c.2.state ≠ 0)) (by decide +kernel)
    exact ⟨c, h, of_decide_eq_true p⟩

/-- A command's bytes in the own store, with seven others outstanding. -/
def pendingCommand (n : Nat) : Command :=
  { id := n, die := 0, engine := .walker, unit := { launch := 1, index := 0 }, slot := placedSlot, user := true, handle := 1, bytes := [], direct := false,
    ordinal := none, vf := 0, route := none }
def enqueueing (n : Nat) (rs : List Result) : State := { benchG .s [(1, own)] with commands := (List.range n).map pendingCommand, results := rs }
def readyResult : Result := { id := 9, engine := .walker, unit := { launch := 1, index := 0 }, bytes := zeros 16, direct := false }
theorem witness_EngineQueues : Issues plain (enqueueing 7 []) ∧ ((enqueueing 7 []).rg 1).toNat / 2 ^ 61 = 1 ∧
    okWith ((begun plain (enqueueing 7 [])).sRead own 32 32) (fun x => decide (x.1.length = 32)) = true ∧
    (begun plain (enqueueing 7 [])).outstanding (begun plain (enqueueing 7 [])).myUnit .walker < 8 ∧
    (begun plain (enqueueing 0 [readyResult])).readyResult { launch := 1, index := 0 } .walker = some readyResult ∧
    okWith ((begun plain (enqueueing 0 [readyResult])).sWrite own readyResult.bytes 16) (fun _ => true) = true ∧
    (begun plain (enqueueing 0 [])).readyResult { launch := 1, index := 0 } .walker = none ∧
    (begun plain (enqueueing 0 [])).outstanding { launch := 1, index := 0 } .walker = 0 := ⟨issues_of (by decide +kernel), by decide +kernel⟩
theorem witness_EngineQueues_space : TrapsAtOnce (benchG .s [(1, 0x400000)]) { cause := 0x07, sub := 0, tval := (benchG .s [(1, 0x400000)]).rg 1 } ∧
    ((benchG .s [(1, 0x400000)]).rg 1).toNat / 2 ^ 61 ≠ 1 := ⟨atOnce_of (by decide +kernel), by decide +kernel⟩

/-- S in supervisor mode, in a handler and out of one. -/
def handling (h : Option Handler) : State := benchWith .s (fun l => { l with s := { l.s with sup := true }, handler := h })
theorem witness_Traps : (Issues plain (bench .s) ∧ (bench .s).me.sup = false ∧
      TrapsAtOnce (bench .s) { cause := 0x05, sub := 0, tval := BitVec.ofNat 64 (bench .s).me.pc }) ∧
    (Issues plain (handling none) ∧ (handling none).me.sup = true ∧ (handling none).here.handler = none) ∧
    (Issues plain (handling (some { firmware := true, sMode := false, since := 0, retired := 0 })) ∧ (handling (some { firmware := true, sMode := false, since := 0, retired := 0 })).here.handler ≠ none ∧
      plain.post = none) :=
  ⟨⟨witness_issues .s, rfl, atOnce_of (by decide +kernel)⟩, ⟨issues_of (by decide +kernel), rfl, rfl⟩, issues_of (by decide +kernel), by decide +kernel, rfl⟩
/-- A boundary requested, with the unit quiet, at the graph position in g1. -/
def atBoundary (request : Option Nat) : State :=
  let rests (t : StreamSt) : StreamSt := { t with halted := true }
  let s := benchOf .s { benchSlot with s := { benchSlot.s with g := [(1, 0x400004)] }, v := rests benchSlot.v, m := rests benchSlot.m, x := rests benchSlot.x }
  { s with launches := [(1, { placedLaunch with request := request })] }
theorem witness_Gpos : (atBoundary none).rg 1 = 0x400004 ∧ (∀ l, (begun plain (atBoundary none)).myLaunch = some l → l.request = none) ∧
    (∃ l, (begun plain (atBoundary (some 5))).myLaunch = some l ∧ l.request ≠ none ∧ (begun plain (atBoundary (some 5))).here.quietForGpos = true) := by
  refine ⟨by decide +kernel, fun l h => ?_, ?_⟩
  · have e : (begun plain (atBoundary none)).myLaunch = some { placedLaunch with request := none } := rfl
    rw [e] at h; cases h; rfl
  · exact ⟨{ placedLaunch with request := some 5 }, rfl, by simp, by decide +kernel⟩
/-- S whose save area is at 0x410000, on the page that memory maps, and the same in a handler: the area holds a record of zeros. -/
def saving (h : Option Handler) : State := benchWith .s (fun l => { l with sr := { l.sr with tsave := 0x410000 }, handler := h })
theorem witness_TrapRecord : ((saving none).slot placedSlot).handler = none ∧ (saving none).trapHeld placedSlot .s 0x12 = false ∧
    (saving none).savePages placedSlot .store ((saving none).slot placedSlot).sr.tsave.toNat 0x5800 =
      [some (0x410000, 0), some (0x411000, 0x1000), some (0x412000, 0x2000), some (0x413000, 0x3000), some (0x414000, 0x4000), some (0x415000, 0x5000)] ∧
    (∀ k ∈ [0x410000, 0x411000, 0x412000, 0x413000, 0x414000, 0x415000], (saving none).keyed k = true) ∧
    benchSlot.vflight.length ≤ 32 ∧ benchSlot.xqueue.length ≤ 16 ∧ benchSlot.mstack.length ≤ 16 ∧ benchSlot.heap.length ≤ 256 := by decide +kernel
def returning : State := saving (some { firmware := true, sMode := false, since := 0, retired := 0 })
theorem witness_ReturnRestores : (returning.slot placedSlot).handler.isSome = true ∧
    someWith (returning.savedBytes placedSlot (returning.slot placedSlot).sr.tsave.toNat (recordSize placedSlot.cell)) (fun bs =>
      someWith (RecordHeader.ofBytes bs) (fun h => !h.pend) && (slotFrom (isPantry placedSlot.cell) bs (returning.slot placedSlot)).isSome &&
      decide (byteAt bs (0x60 + 64 * Stream.s.code) % 2 = 0)) = true := by decide +kernel
/-- A trap and the return from it leave the registers and the place of S. -/
theorem test_trap_and_return : let s := saving none
    let t := (s.takeTrap placedSlot .s { cause := 0x12, sub := 0, tval := 7 } TrapMode.precise)
    (t.slot placedSlot).handler.isSome = true ∧ (t.returnFrom placedSlot).here.handler = none ∧ (t.returnFrom placedSlot).me.pc = s.me.pc ∧
    (t.returnFrom placedSlot).me.gReg 3 = 0 := by decide +kernel
theorem witness_TrapEntry : ((bench .v).slot placedSlot).handler = none ∧ (bench .v).trapHeld placedSlot .v 31 = false ∧ (31 : Nat) < 256 ∧
    (benchWith .s (fun l => { l with sr := { l.sr with tvec := BitVec.allOnes 64 &&& 0x001FEFFEFFFFFFC0 } })).trapHeld placedSlot .s 0x12 = false := by decide +kernel

theorem test_ld_sign : ran (.ld plain 3 1 0 .bs 0) (stored [(1, own)] 0 [0x80]) (fun t => t.me.gReg 3) = some (BitVec.ofInt 64 (-128)) := by decide +kernel
theorem test_ld_little_endian : ran (.ld plain 3 1 0 .w 0) (stored [(1, own)] 0 [0x11, 0x22, 0x33, 0x44]) (fun t => t.me.gReg 3) = some 0x44332211 := by decide +kernel
theorem test_st_low_bytes : ran (.st wide 3 1 0 .h 2) (benchG .s [(1, own), (3, 0x1234)]) (fun t => Memory.read t.mem (cellStoreAt 0) 5) = some [0, 0, 0x34, 0x12, 0] := by
  decide +kernel
theorem test_ld_space : ran (.ld plain 3 1 0 .d 0) (benchG .s [(1, 0x20000000000FFFFC)]) (fun t => (t.here.sr.tcause.toNat % 256, t.here.sr.tval)) =
    some (7, 0x20000000000FFFFC) := by decide +kernel
theorem test_aadd_wraps : ran (.aadd plain 3 1 2 .w .natural .sys) (stored [(1, own), (2, 1)] 0 [0xFF, 0xFF, 0xFF, 0xFF, 7])
    (fun t => (t.me.gReg 3, Memory.read t.mem (cellStoreAt 0) 5)) = some (0xFFFFFFFF, [0, 0, 0, 0, 7]) := by decide +kernel
theorem test_acas_fails : ran (.acas wide 3 1 2 4 .w .natural .sys) (stored [(1, own), (2, 1), (4, 9)] 0 [2])
    (fun t => (t.me.gReg 3, Memory.read t.mem (cellStoreAt 0) 1)) = some (2, [2]) := by decide +kernel
theorem test_amin_signed : ran (.amin plain 3 1 2 .s32 .natural .sys) (stored [(1, own), (2, 0xFFFFFFFF)] 0 [5])
    (fun t => Memory.read t.mem (cellStoreAt 0) 4) = some [0xFF, 0xFF, 0xFF, 0xFF] := by decide +kernel
theorem test_tkwait_waits : ran (.tkwait plain .x) (bench .s) (fun t => (t.me.pc, (t.me.waiting.map (·.on)))) = some (0x400004, some (.token .x)) := by decide +kernel
theorem test_bara_alone : ran (.bara plain 3 .team) (bench .s) (fun t => ((Map.find t.launches 1).map (fun l => (l.barrier 3).phase))) = some (some 1) := by decide +kernel
theorem test_launch_quota : ran (.launch plain 3 1 2) (launching 0 0 []) (fun t => (t.me.gReg 3, t.me.qReg 2)) = some (2, false) := by decide +kernel
theorem test_cancel_none : ran (.cancel plain 3 6 true 1) (withChild 0) (fun t => t.me.gReg 3) = some 2 := by decide +kernel
theorem test_trap_immediate : ran (.trap plain 0x155) (bench .s) (fun t => (t.here.sr.tcause.toNat % 256, t.here.sr.tval, t.me.gReg 3, t.me.sup)) =
    some (0x12, 0x155, 0x155, true) := by decide +kernel

/-- The unit of the bench in a job whose graph runs, or has ended; its launch with a second unit that was saved. -/
def inJob (state : Nat) : State :=
  { bench .s with jobs := [(2, { placedJob with graphs := [{ phase := 0, count := { Counter.one with state := state } }], phases := [{ Counter.one with state := state }]
                                                job := { Counter.one with state := state } })] }
def halfSaved : State :=
  { bench .s with launches := [(1, { placedLaunch with units := [{ UnitSt.blank with status := .bound placedSlot }, { UnitSt.blank with status := .saved 0x400004 }] })] }
theorem witness_Cancel_levels : ∀ level ∈ [2, 3, 4], ∀ state ∈ [0, 1], ∃ j, (begun plain (inJob state)).myJob = some (2, j) ∧ Issues plain (inJob state) ∧
    (inJob state).cur.stream = .s ∧ (inJob state).here.window = none ∧ (j.counter (begun plain (inJob state)).myGraph level).state = state := by
  intro level hl state hs
  have m : (level = 2 ∨ level = 3 ∨ level = 4) ∧ (state = 0 ∨ state = 1) := ⟨by simpa using hl, by simpa using hs⟩
  rcases m with ⟨rfl | rfl | rfl, rfl | rfl⟩ <;>
  · refine ⟨_, rfl, issues_of (by decide +kernel), by decide +kernel, by decide +kernel, by decide +kernel⟩
theorem witness_Cancellation : (∃ l, Map.find halfSaved.launches 1 = some l ∧ l.state = 0 ∧ (∃ x ∈ l.units, x.status ≠ .waiting) ∧
      (l.units.map (·.status)) = [.bound placedSlot, .saved 0x400004]) ∧
    (∀ level ∈ [2, 3, 4], ∃ j, Map.find (inJob 0).jobs 2 = some j ∧ 0 < j.graphs.length ∧ (j.graph 0).phase < j.phases.length ∧ (j.counter 0 level).state = 0 ∧
      (inJob 0).launchesIn 2 j 0 level = [1] ∧ ∃ l, Map.find (inJob 0).launches 1 = some l ∧ l.state = 0 ∧ ∃ x ∈ l.units, x.status ≠ .waiting) := by
  refine ⟨⟨_, rfl, by decide +kernel, ⟨{ UnitSt.blank with status := .bound placedSlot }, by decide +kernel, by decide +kernel⟩, by decide +kernel⟩, ?_⟩
  intro level hl
  have m : level = 2 ∨ level = 3 ∨ level = 4 := by simpa using hl
  rcases m with rfl | rfl | rfl <;>
  · refine ⟨_, rfl, by decide +kernel, by decide +kernel, by decide +kernel, by decide +kernel, _, rfl, by decide +kernel,
      { UnitSt.blank with status := .bound placedSlot }, by decide +kernel, by decide +kernel⟩

/-! ### The matrix and the tile-move stream -/

/-- The 64 bytes of a record (Table 2.11): base, format, one or two dimensions, extents, stride of dimension 1. -/
def shapeBytes (base : Word) (fmt scaled e0 e1 str1 : Nat) : List Byte :=
  bytesOf 64 (base.toNat + (fmt + scaled * 2 ^ 9 + 2 ^ 10) * 2 ^ 64 + e0 * 2 ^ 128 + e1 * 2 ^ 160 + (own.toNat + 0x800) * 2 ^ 256 + str1 * 2 ^ 320)
/-- The bench of a stream with five records in the own store, from offset 0x1000 on, in e1 to e5: FP32, FP32, scaled E4M3, INT32, UINT32 of
one dimension of 16. -/
def shaped (st : Stream) : State :=
  let e (k : Nat) : Nat × Word := (k, own + BitVec.ofNat 64 (0x1000 + 64 * (k - 1)))
  let s := benchWith st (fun l => l.withStream st (fun t => { t with e := [e 1, e 2, e 3, e 4, e 5], g := [(1, own + 0x2000)] }))
  let bs := shapeBytes own 0 0 32 32 128 ++ shapeBytes (own + 0x4000) 0 0 32 32 128 ++ shapeBytes own 11 1 32 32 32 ++ shapeBytes own 4 0 32 32 128 ++
    shapeBytes (own + 0x6000) 5 0 16 1 64
  { s with mem := Memory.write s.mem (cellStoreAt 0 + 0x1000) bs }
/-- What a record gives. -/
def takes (s : State) (n : Nat) (p : Shape → Bool) : Bool := okWith (s.takeShape s.cur (s.re n)) (fun x => p x.1)
theorem takes_elim {s : State} {n : Nat} {p : Shape → Bool} (h : takes s n p = true) : ∃ sh rec r, s.takeShape s.cur (s.re n) = .ok (sh, rec, r) ∧ p sh = true := by
  obtain ⟨⟨sh, rec, r⟩, e, c⟩ := okWith_elim h
  exact ⟨sh, rec, r, e, c⟩

theorem witness_Matrix_single : let s := shaped .m
    Issues plain s ∧ s.cur.stream = .m ∧ (∃ sh rec r, (begun plain s).takeShape s.cur (s.re 1) = .ok (sh, rec, r) ∧ sh.scaled = false ∧ sh.fmt = .fp32) ∧
    (∃ sh rec r, (begun plain s).takeShape s.cur (s.re 4) = .ok (sh, rec, r) ∧ sh.scaled = false ∧ sh.fmt = .int32) := by
  refine ⟨issues_of (by decide +kernel), rfl, ?_, ?_⟩
  · obtain ⟨sh, rec, r, e, c⟩ := takes_elim (s := begun plain (shaped .m)) (n := 1) (p := fun sh => decide (sh.scaled = false ∧ sh.fmt = .fp32)) (by decide +kernel)
    exact ⟨sh, rec, r, e, of_decide_eq_true c⟩
  · obtain ⟨sh, rec, r, e, c⟩ := takes_elim (s := begun plain (shaped .m)) (n := 4) (p := fun sh => decide (sh.scaled = false ∧ sh.fmt = .int32)) (by decide +kernel)
    exact ⟨sh, rec, r, e, of_decide_eq_true c⟩
/-- A product of two records, plain or scaled. -/
def pairTakes (s : State) (a b : Nat) (p : Shape → Shape → Bool) : Bool :=
  okWith (s.takeShape s.cur (s.re a)) (fun x => okWith (x.2.2.takeShape x.2.2.cur (s.re b)) (fun y => p x.1 y.1))
theorem witness_Matrix_pairs :
    pairTakes (begun plain (shaped .m)) 1 2 (fun x y => !x.scaled && !y.scaled && (dotClass false x.fmt y.fmt).isSome) = true ∧
    pairTakes (begun plain (shaped .m)) 3 3 (fun x y => (dotClass true x.fmt y.fmt).isSome) = true := by decide +kernel
/-- No tile is held, so MMA can begin. -/
theorem witness_Matrix_begins : okWith ((begun plain (shaped .m)).ownTiles placedSlot (tilesNamed (.mma plain 1 1 2)))
    (fun s1 => (s1.accRaceM placedSlot (.mma plain 1 1 2)).isNone && (s1.cellRace s1.cur []).isNone) = true := by decide +kernel

/-- MMA of two FP32 tiles in progress at its last row of step 0, and ended. -/
def multiplying (step row : Nat) : State :=
  let rec_ (a : Word) : BitVec 512 := BitVec.ofNat 512 (natOf (shapeBytes a 0 0 32 32 128))
  benchWith .m (fun l => { l with mflight := some { instr := .mma plain 1 1 2, recA := rec_ own, recB := rec_ (own + 0x4000), step := step, row := row, wait := none,
                                                    post := none, poisoned := 0, total := 16 } })
theorem witness_MatrixUpdate : ∃ m shA shB x ys, ((multiplying 0 31).slot placedSlot).mflight = some m ∧ m.ended = false ∧ m.row = 31 ∧
    m.instr = .mma plain 1 1 2 ∧ shapeOf m.recA = some shA ∧ shapeOf m.recB = some shB ∧ dotClass false shA.fmt shB.fmt = some (.group 2) ∧
    (multiplying 0 31).dotOperand { slot := placedSlot, stream := .m } shA m.step (DotClass.group 2).unit m.row = .ok x ∧
    (multiplying 0 31).dotColumns { slot := placedSlot, stream := .m } shB m.step (DotClass.group 2).unit (List.range 32) = .ok ys ∧
    x.upset = false ∧ (∀ y ∈ ys, y.upset = false) := by
  let rec_ (a : Word) : BitVec 512 := BitVec.ofNat 512 (natOf (shapeBytes a 0 0 32 32 128))
  let s := multiplying 0 31
  let c : Cursor := { slot := placedSlot, stream := .m }
  obtain ⟨shA, hA, pA⟩ := someWith_elim (x := shapeOf (rec_ own)) (p := fun sh => decide (sh.fmt = .fp32) &&
    okWith (s.dotOperand c sh 0 2 31) (fun x => !x.upset)) (by decide +kernel)
  obtain ⟨shB, hB, pB⟩ := someWith_elim (x := shapeOf (rec_ (own + 0x4000))) (p := fun sh => decide (sh.fmt = .fp32) &&
    okWith (s.dotColumns c sh 0 2 (List.range 32)) (fun ys => ys.all (fun y => !y.upset))) (by decide +kernel)
  simp only [Bool.and_eq_true, decide_eq_true_eq] at pA pB
  obtain ⟨x, hx, px⟩ := okWith_elim pA.2
  obtain ⟨ys, hy, py⟩ := okWith_elim pB.2
  refine ⟨_, shA, shB, x, ys, rfl, by decide +kernel, rfl, rfl, hA, hB, by rw [pA.1, pB.1]; rfl, hx, hy, by simpa using px, ?_⟩
  intro y m
  have := List.all_eq_true.mp py y m
  simpa using this
theorem witness_MatrixRetirement : ((multiplying 16 0).slot placedSlot).bound ≠ none ∧ ((multiplying 16 0).slot placedSlot).mflight.any (fun m => m.ended && decide (m.poisoned = 0)) ∧
    ((multiplying 16 0).slot placedSlot).m.halted = false ∧
    wordIndex ((multiplying 16 0).slot placedSlot).m.pc + plain.words < ((multiplying 16 0).slot placedSlot).m.line.count ∧
    Issues plain (bench .m) := ⟨by decide +kernel, by decide +kernel, by decide +kernel, by decide +kernel, issues_of (by decide +kernel)⟩

/-- An M instruction of rows in progress on the last row, its record of FP32 or INT32 in the own store; tile 0 has some poison bits. -/
def rowFlight (i : Instr) (fmt : Nat) : MInFlight :=
  { instr := i, recA := BitVec.ofNat 512 (natOf (shapeBytes own fmt 0 32 32 128)), recB := 0, step := 0, row := 31, wait := none, post := none, poisoned := 0, total := 1 }
def rowing (i : Instr) (fmt : Nat) (poison : BitVec 32) : State :=
  { bench .m with cells := [(0, { CellSt.blank with h0 := { benchSlot with mflight := some (rowFlight i fmt) }, a0 := { Tile.blank with poison := poison } })] }
def rowRecord (fmt : Format) : Shape :=
  { addr := 0, base := own, fmt := fmt, scaled := false, pad := 0, ext := (32, 32, 1, 1), str1 := 128, str2 := 0, str3 := 0, scale := own + 0x800 }
theorem witness_MatrixRows (i : Instr) (fmt : Nat) (poison : BitVec 32) : ((rowing i fmt poison).slot placedSlot).mflight = some (rowFlight i fmt) ∧
    (rowFlight i fmt).row = 31 ∧ (((rowing i fmt poison).cell 0).tile 0).poison = poison := ⟨rfl, rfl, rfl⟩
theorem witness_MatrixRows_records : shapeOf (rowFlight (.mzero plain 0) 0).recA = some (rowRecord .fp32) ∧
    shapeOf (rowFlight (.mzero plain 0) 4).recA = some (rowRecord .int32) ∧ (rowFlight (.mbias plain 0 1) 0).ended = false ∧ (rowFlight (.mzero plain 0) 0).ended = false ∧
    Format.bf16.width ≤ 32 := by decide +kernel
theorem witness_MatrixRows_placed (r : Nat) (h : r = 0 ∨ r = 31) : rowInStore (rowing (.mbias plain 0 1) 0 0) placedSlot (rowRecord .fp32) r := by
  have a : ∀ r ∈ [0, 31], ∀ c, c < 32 → ((rowRecord .fp32).locate (tileElem c r)).1.toNat / 2 ^ 57 = 16 ∧
      ((rowRecord .fp32).locate (tileElem c r)).1.toNat % 2 ^ 57 + 4 ≤ 2 ^ 20 := by decide +kernel
  have f : (rowing (.mbias plain 0 1) 0 0).foreignNeighbour placedSlot = false := by decide +kernel
  have m : r ∈ [0, 31] := by simpa using h
  exact fun c hc _ => ⟨(a r m c hc).1, (a r m c hc).2, fun n => by rw [f] at n; cases n⟩
theorem witness_MatrixRows_sound (sh : Shape) (r : Nat) : rowSound (rowing (.mbias plain 0 1) 0 0) placedSlot sh r := fun _ _ _ _ _ => rfl
/-- MSTA of a poisoned row traps with the tile and its poison bits. -/
theorem test_msta_poison : (((rowing (.msta plain 1 0) 0 0x80000000).mUpdate placedSlot).slot placedSlot).sr.tval = 0x80000000 := by decide +kernel

/-- Whether a command's records are taken and agree. -/
def recordsAgree (s : State) (i : Instr) (u v w : Word) : Bool := okWith (s.takeRecords s.cur i u v w) (fun x => (recordFault i x.1).isNone)
theorem witness_TileMoves : let s := shaped .x
    Issues plain s ∧ s.cur.stream = .x ∧ s.here.xqueue.length < 16 ∧ s.here.window = none ∧
    recordsAgree (begun plain s) (.xmov plain 2 1) (s.re 2) (s.re 1) 0 = true ∧ recordsAgree (begun plain s) (.xmovs plain 4 1 .rne) (s.re 4) (s.re 1) 0 = true ∧
    recordsAgree (begun plain s) (.xunpk plain 1 3) (s.re 1) (s.re 3) 0 = true ∧ recordsAgree (begun plain s) (.xfill plain 1 1) (s.re 1) (s.rg 1) 0 = true ∧
    recordsAgree (begun plain s) (.xgath plain 2 1 4) (s.re 2) (s.re 1) (s.re 4) = true ∧
    recordsAgree (begun plain s) (.xscat plain 2 1 4) (s.re 2) (s.re 1) (s.re 4) = true ∧
    recordsAgree (begun plain s) (.xhash plain 1 5 0) (s.rg 1) (s.re 5) (s.rg 0) = true ∧ (s.rg 1).toNat % 16 = 0 ∧ (s.rg 0).toNat % 16 = 0 :=
  ⟨issues_of (by decide +kernel), by decide +kernel⟩

/-- A stream record of the micro-context, with room for one more entry of 64 bytes in region 0. -/
def liveRec : StreamRec :=
  { StreamRec.blank with owner := 1, regions := [(own + 0x8000, 64, 8), (own, 0, 0), (0, 8, 4), (own + 0x9000, 8, 4)], len0 := 7, c := 3, p := 2 }
/-- The bench with that record as record 4095 and its number in g2. -/
def serving (st : Stream) (r : StreamRec) (gs : List (Nat × Word)) : State :=
  let s := shaped st
  ({ s with streams := [(4095, r)] }).withHere (fun l => { l.withStream st (fun t => { t with g := t.g ++ gs }) with attached := some 4095 })
theorem witness_Appends : let s := serving .x liveRec []
    Issues plain s ∧ s.here.xqueue.length < 16 ∧ s.here.window = none ∧ s.here.attached = some 4095 ∧
    okWith ((begun plain s).takeRecords s.cur (.xapp plain 5 6) 0 (s.re 5) (s.rg 6)) (fun x => someWith x.1.a (fun sh => decide (sh.packedBytes = 64))) = true ∧
    (s.rg 6).toNat = 0 ∧ (s.srec 4095).cap 0 ≠ 0 ∧ (s.srec 4095).esize 0 = 64 ∧ (s.srec 4095).len 0 < (s.srec 4095).cap 0 :=
  ⟨issues_of (by decide +kernel), by decide +kernel⟩
/-- Two commands in the queue, the first ended or not; both fill the same tile. -/
def moving (cursor : Nat) : State :=
  let rec_ : BitVec 512 := BitVec.ofNat 512 (natOf (shapeBytes own 0 0 32 32 128))
  let k (n : Nat) : XCommand := { instr := .xfill plain 1 1, words := [0], pc := 0x400004, cursor := n, opD := own + 0x1000, opA := 0, opB := 0, recD := rec_, recA := 0
                                  recB := 0, post := none, fresh := false, fault := none, parked := none, total := 1024, void := false }
  benchWith .x (fun l => { l with xqueue := [k cursor, k 0] })
/-- A command under a false guard, behind two others, and in an empty queue. -/
theorem witness_FalseGuard_queue : let h := { wide with sense := true }
    (Instr.xfill h 1 1).hdr = some h ∧ entersQueue (.xfill h 1 1) = true ∧ guardByParts (.xfill h 1 1) = false ∧ Ready h (moving 0) ∧
    (landed (moving 0)).guardHolds h = false ∧ (begun h (moving 0)).here.xqueue.length = 2 ∧ Ready h (bench .x) ∧ Onward h (landed (bench .x)) ∧
    (landed (bench .x)).guardHolds h = false ∧ (begun h (bench .x)).here.xqueue = [] :=
  ⟨rfl, rfl, rfl, ready_of (by decide +kernel), by decide +kernel, by decide +kernel, ready_of (by decide +kernel), onward_of (by decide +kernel),
   by decide +kernel, by decide +kernel⟩
theorem witness_TileMove_retires : ((moving 1024).slot placedSlot).xqueue.head?.any (fun k => k.ended && !k.fresh && k.fault.isNone &&
      decide (k.total = drivingCount k.instr k.shapes)) ∧
    ((moving 1024).slot placedSlot).bound ≠ none ∧ ((moving 1024).slot placedSlot).handler = none ∧ ((moving 1024).cell 0).active = false ∧
    ((moving 1024).slot placedSlot).s.halted = false := by decide +kernel
theorem witness_TileMove_held : (moving 0).commandsRun placedSlot = true ∧
    ((moving 0).slot placedSlot).xqueue.head?.any (fun e => !e.ended && ((moving 0).commandSpans placedSlot e).any (fun x => x.write && decide (x.lo < x.hi))) := by
  decide +kernel

/-- A command on element 0 with records at 0, 0x4000 and 0x6000 of the own store, of formats `d`, `a` and `b`, block-scaled or not. -/
def elementCommand (i : Instr) (d a b scaled : Nat) (opD opB : Word) : XCommand :=
  let rec_ (base : Word) (fmt sc : Nat) : BitVec 512 := BitVec.ofNat 512 (natOf (shapeBytes base fmt sc 32 32 128))
  { instr := i, words := [0], pc := 0x400004, cursor := 0, opD := opD, opA := 0, opB := opB, recD := rec_ own d scaled, recA := rec_ (own + 0x4000) a scaled
    recB := rec_ (own + 0x6000) b 0, total := 1024, post := none, fresh := false, fault := none, parked := none, void := false }
def xCursor : Cursor := { slot := placedSlot, stream := .x }
/-- The own store with −1 at 0x6000. -/
def elementBench : State := { bench .x with mem := Memory.write (bench .x).mem (cellStoreAt 0 + 0x6000) (List.replicate 4 0xFF) }
/-- What element 0 of a record reads as, and whether element 0 of another can be written. -/
def moves (k : XCommand) : Bool :=
  someWith k.shapes.d (fun d => okWith (elementBench.touch xCursor true (d.locate (d.index 0)).1 (d.locate (d.index 0)).2.2) (fun _ => d.holds (d.index 0))) &&
  someWith k.shapes.a (fun a => okWith (elementBench.readElem xCursor a { i0 := 0, i1 := 0, i2 := 0, i3 := 0 }) (fun _ => true))
theorem witness_TileElements : moves (elementCommand (.xmov plain 1 2) 0 0 0 0 0 0) = true ∧ moves (elementCommand (.xmovs plain 1 2 .rne) 1 0 0 0 0 0) = true ∧
    someWith (elementCommand (.xfill plain 1 2) 0 0 0 0 0 0).shapes.d (fun d =>
      okWith (elementBench.touch xCursor true (d.locate (d.index 0)).1 (d.locate (d.index 0)).2.2) (fun _ => true)) = true ∧
    (∀ b ∈ [4, 5], moves (elementCommand (.xgath plain 1 2 3) 0 0 b 0 0 0) = true ∧ moves (elementCommand (.xscat plain 1 2 3) 0 0 b 0 0 0) = true ∧
      someWith (elementCommand (.xgath plain 1 2 3) 0 0 b 0 0 0).shapes.b (fun sh =>
        okWith (elementBench.readElem xCursor sh { i0 := 0, i1 := 0, i2 := 0, i3 := 0 }) (fun x => decide (x.1 = 0xFFFFFFFF) && decide (sh.fmt = .int32 ↔ b = 4))) = true) ∧
    (let k := elementCommand (.xmov plain 1 2) 11 11 0 1 0 0
     moves k = true ∧ someWith k.shapes.a (fun a => okWith (elementBench.readScale xCursor a 0 (a.index 0)) (fun _ => a.scaled)) = true ∧
       someWith k.shapes.d (fun d => d.scaled && decide ((d.scaleAt 0 (d.index 0)).toNat % 2 = 0) &&
         okWith (elementBench.touch xCursor true (d.scaleAt 0 (d.index 0)) 2) (fun _ => true)) = true) ∧
    (let k := elementCommand (.xunpk plain 1 2) 0 11 0 0 0 0
     moves k = true) := by decide +kernel
theorem witness_HashAndAppend : (let k := elementCommand (.xhash plain 1 2 3) 0 4 0 0 own (own + 16)
      someWith k.shapes.a (fun a => okWith (elementBench.readTokens xCursor a 0 16) (fun x =>
        okWith (x.2.touch xCursor false k.opB 16) (fun y => okWith (y.2.touch xCursor true k.opD 16) (fun z => decide z.1.Nodup && z.1.all elementBench.keyed)))) = true) ∧
    (let k := elementCommand (.xapp plain 1 2) 0 0 0 0 own 0
     someWith k.shapes.a (fun a => decide (k.cursor < a.count) && okWith (elementBench.readElem xCursor a (a.index 0)) (fun x =>
       okWith (x.2.1.touch xCursor true k.opD 4) (fun _ => true))) = true) := by decide +kernel
/-- Commands that may proceed: one that ends its element, and one whose store is beyond the own store, behind another. -/
theorem witness_ElementSteps : let bad := elementCommand (.xfill plain 1 1) 0 0 0 0 0 0
    let s := benchWith .x (fun l => { l with xqueue := [bad, { bad with recD := BitVec.ofNat 512 (natOf (shapeBytes (own + 0x100000) 0 0 32 32 128)) }] })
    (∀ n ∈ [0, 1], (s.slot placedSlot).xqueue[n]?.any (fun k => !k.fresh && !k.void && k.fault.isNone && !k.ended && decide (k.total = drivingCount k.instr k.shapes) &&
      !s.heldBack placedSlot n k)) ∧ s.commandsRun placedSlot = true ∧ okWith (s.elemOf xCursor bad) (fun _ => true) = true ∧
    okWith (s.elemOf xCursor { bad with recD := BitVec.ofNat 512 (natOf (shapeBytes (own + 0x100000) 0 0 32 32 128)) }) (fun _ => true) = false := by decide +kernel

/-- No read of the save area waits for the host link, and its record lies below host memory. -/
theorem witness_Saving_flows : (handling (some { firmware := true, sMode := false, since := 0, retired := 0 })).areaHeld placedSlot = false ∧
    (saving none).linkHeld ((saving none).binding placedSlot).part .store = false ∧ 0x410000 < 2 ^ 55 := by decide +kernel
/-- Two vectors of integers, whose products are integers too, and two of FP32 with an infinity. -/
def intOperand (xs : List Nat) : DotOperand := { vals := xs.map (fun x => .fin (signed 32 x < 0) (signed 32 x).natAbs 0), scale := .fin false 1 0, upset := false }
theorem witness_DotStep : ∀ p ∈ List.zipWith (fun x y => (x.mul y).1) (intOperand [3, 0xFFFFFFFF]).vals (intOperand [5, 7]).vals, ∃ neg m, p = .fin neg m 0 := by
  intro p m
  have h : List.zipWith (fun x y => (x.mul y).1) (intOperand [3, 0xFFFFFFFF]).vals (intOperand [5, 7]).vals = [.fin false 15 0, .fin true 7 0] := by decide +kernel
  rw [h] at m
  simp only [List.mem_cons, List.not_mem_nil] at m
  rcases m with rfl | rfl | m
  · exact ⟨_, _, rfl⟩
  · exact ⟨_, _, rfl⟩
  · exact m.elim

/-! ### Serving instructions -/

theorem witness_StreamRecords : let s := serving .s liveRec [(2, 4095), (3, 3 * 2 ^ 32 + 9), (4, 6 * 2 ^ 32), (5, 7 * 2 ^ 32), (6, 7)]
    Issues plain s ∧ (s.rg 2).toNat < 4096 ∧ (s.srec (s.rg 2).toNat).owner = (s.binding s.cur.slot).handle ∧ s.here.window = none ∧
    s.dieServes (s.binding s.cur.slot).part ((s.rg 2).toNat / 1024) = true ∧
    (liveRec.c ≤ (s.rg 3).toNat / 2 ^ 32 ∧ (s.rg 3).toNat / 2 ^ 32 < liveRec.len0 ∧ liveRec.delivery.length < liveRec.cap 3) ∧
    (s.rg 4).toNat / 2 ^ 32 < liveRec.len0 ∧ liveRec.len0 ≤ (s.rg 5).toNat / 2 ^ 32 ∧
    ((s.rg 6).toNat ≤ liveRec.len0 ∧ ¬ (0 < (s.rg 6).toNat ∧ (s.rg 6).toNat < liveRec.floor)) ∧
    (liveRec.cap 2 ≠ 0 ∧ (s.rg 6).toNat % 2 ^ 32 ≤ liveRec.len0 ∧ liveRec.ckpts = []) ∧ liveRec.queue = [] := ⟨issues_of (by decide +kernel), by decide +kernel⟩
/-- A record whose delivery region is full, and one with a barge-in queued, on time and late. -/
def bargedRec (ckpts : List Nat) : StreamRec := { liveRec with queue := [{ play := 2, kind := 1, len := 0, buf := 1 }], ckpts := ckpts }
def fullRec : StreamRec := { liveRec with delivery := List.replicate 4 { token := 0, pos := 0, tag := none, prov := false, sent := false } }
theorem witness_Frames : ((serving .s (bargedRec [2]) []).popFrame 4095 false).any (fun x => !x.2.2 && decide (x.2.1.kind = 1)) ∧
    ((serving .s (bargedRec [3]) []).popFrame 4095 false).any (fun x => x.2.2) ∧ (serving .s (bargedRec [3]) []).trapHeld placedSlot .s 0x0F = false ∧
    fullRec.cap 3 ≤ fullRec.delivery.length := by decide +kernel

/-- A record that keeps checkpoints, of 16 bytes from 0x411000 on and STATE at 0x410000, two of them made; all of it on the page that memory
maps. -/
def checkpointed : State :=
  { bench .s with
    mcs := [(1, placedMc)]
    streams := [(4095, { liveRec with regions := [(own, 0, 0), (own, 0, 0), (0x411000, 16, 8), (own, 0, 0)], live := 0x410000, ckpts := [2, 5], knext := 2 })] }
theorem witness_Truncation : ((checkpointed.srec 4095).cap 2 = 8 ∧ (∀ e ∈ (checkpointed.srec 4095).delivery, e.pos < 2 ^ 32) ∧
      okWith (checkpointed.mcPlaces 1 .store 0x410000 16) (fun ks => decide ks.Nodup && ks.all checkpointed.keyed) = true ∧
      okWith (checkpointed.mcPlaces 1 .load 0x411000 16) (fun _ => true) = true) ∧ (checkpointed.srec 4095).esize 2 = 16 ∧
    (checkpointed.srec 4095).ringAt 2 2 = 0x411020 ∧ okWith (checkpointed.mcPlaces 1 .store 0x411020 16) (fun ks => decide ks.Nodup && ks.all checkpointed.keyed) = true := by
  decide +kernel
/-- A truncation to 3 of the record with checkpoints 2 and 5 leaves the first. -/
theorem test_truncate_checkpoints : (((checkpointed.truncate 4095 3).srec 4095).ckpts, ((checkpointed.truncate 4095 3).srec 4095).knext) = ([2], 1) := by decide +kernel

/-- A window block at offset 0xA000 of the own store, with V, M and X halted; g4 its address, g5 the guess routine. -/
def windowed (w : Option Window) : State :=
  let rests (t : StreamSt) : StreamSt := { t with halted := true }
  let s := benchOf .s { benchSlot with s := { benchSlot.s with g := [(4, own + 0xA000), (5, 0x400004)] }, v := rests benchSlot.v, m := rests benchSlot.m,
                                       x := rests benchSlot.x, window := w }
  { s with mem := Memory.write s.mem (cellStoreAt 0 + 0xA000) [8, 0] }
/-- A window of eight iterations. -/
def openWindow (i : Nat) (verdict : Bool) : Window :=
  { block := own + 0xA000, w := 8, i := i, verdict := verdict, carryPending := false, faulted := 0, cause := 0, accepted := 1, acmpAt := 0, acmpD := 0, body := 0x400008,
    at_ := 0x400004, pcV := 0, pcM := 0, pcX := 0, handle := none, len0 := 0, len1 := 0, app0 := 0, app1 := 0, id := 0, appends := [] }
theorem witness_Windows_open : let s := windowed none
    Issues plain s ∧ s.here.window = none ∧ (begun plain s).windowBlock (s.rg 4) = true ∧ (s.rg 5).toNat / 2 ^ 61 = 0 ∧ (s.rg 5).toNat % 4 = 0 ∧ 4 ≤ (s.rg 5).toNat % 64 ∧
    okWith (s.enterAt s.cur (s.rg 5).toNat) (fun _ => true) = true ∧ restsForWindow (begun plain s).here := by
  refine ⟨issues_of (by decide +kernel), rfl, by decide +kernel, by decide +kernel, by decide +kernel, by decide +kernel, by decide +kernel, rfl, rfl, rfl, rfl, ?_⟩
  intro t h
  left
  rcases h with h | h | h <;> rw [h] <;> decide +kernel
theorem witness_Windows_closed : Issues plain (windowed (some (openWindow 6 false))) ∧ okWith ((windowed (some (openWindow 6 false))).enterAt
      (windowed none).cur (openWindow 6 false).body) (fun _ => true) = true ∧ (openWindow 6 false).i + 1 < 8 ∧
    Issues plain (windowed (some (openWindow 7 false))) ∧ 8 ≤ (openWindow 7 false).i + 1 ∧ Issues plain (windowed (some (openWindow 7 true))) ∧
    (∀ i ∈ [6, 7], ∀ v ∈ [true, false], let s := windowed (some (openWindow i v))
      let k := begun plain s
      k.cellRace s.cur (k.acmpSpans s.cur.slot (openWindow i v)) = none ∧ k.cellRace s.cur (k.carrySpans s.cur.slot (openWindow i v) (prodAt 0)) = none ∧
      k.cellRace s.cur (k.carrySpans s.cur.slot (openWindow i v) (guessAt 0)) = none) :=
  ⟨issues_of (by decide +kernel), by decide +kernel, by decide, issues_of (by decide +kernel), by decide, issues_of (by decide +kernel), by decide +kernel⟩
/-- A window that has appended to record 5, with an entry of its iteration 1 in record 4095 and none in record 6. -/
theorem witness_WindowRecords : let w : Window := { openWindow 7 true with appends := [{ record := 5, region := 0, index := 0, iteration := 2 }] }
    let s : State := { bench .s with streams := [(6, liveRec), (4095, { liveRec with delivery := [{ token := 1, pos := 2, tag := some (0, 1), prov := true, sent := false }] })] }
    5 ∈ s.windowRecords w ∧ 4095 ∈ s.windowRecords w ∧ 6 ∉ s.windowRecords w := by decide +kernel

/-- A chain of one digest 5 at offset 0 and an image of it at 0x100, with some prefix entries; g1 and g2 the addresses, g3 a page set. -/
def prefixed (ps : List (Nat × PrefixEntry)) : State :=
  let s := stored [(1, own), (2, own + 0x100), (3, own + 0x400), (4, 2 ^ 16 + 63)] 0 ([1] ++ zeros 15 ++ [5] ++ zeros 15)
  { s with mem := Memory.write s.mem (cellStoreAt 0 + 0x100) ([5] ++ zeros 15 ++ [1]), prefixes := ps }
def pinned : PrefixEntry := { PrefixEntry.blank with used := true, digest := 5, blocks := 1, gen := 1, pins := 1 }
theorem witness_Prefix : let s := prefixed [(63, pinned)]
    Issues plain s ∧ okWith ((begun plain s).sReadEach (s.rg 1) 16) (fun x => decide (natAt x.1 0 4 = 1) && zeroAt x.1 4 12 &&
      okWith (x.2.sReadEach (s.rg 1 + 16) 16) (fun y => decide (natAt y.1 0 16 = 5) && okWith (y.2.buffer .store (s.rg 3) 256) (fun _ => true))) = true ∧
    (s.prefixEntry 0 63).used = true ∧ (s.prefixEntry 0 63).digest = 5 ∧ (s.prefixEntry 0 63).blocks = 1 ∧ (s.rg 4).toNat = (s.prefixEntry 0 63).gen * 2 ^ 16 + 63 ∧
    okWith ((begun plain s).imageAccess (s.rg 2)) (fun x => decide (natAt (x.2.load x.1 256) 0 16 = 5) && decide (natAt (x.2.load x.1 256) 16 4 = 1)) = true ∧
    (∀ i, i < 64 → (prefixed []).prefixEntry 0 i = PrefixEntry.blank) := ⟨issues_of (by decide +kernel), by decide +kernel, by decide +kernel, by decide +kernel,
      by decide +kernel, by decide +kernel, by decide +kernel, by decide +kernel⟩

/-- Queue 7 from die 0 to die 3 with one place left, and queue 0 from die 3 with an entry numbered n. -/
def queued (n : Nat) : State :=
  let s := benchG .s [(1, own), (2, 31), (3, 3)]
  { s with queues := [(queueNo 0 3 7, { DieQueue.blank with sender := some 1, entries := List.replicate 63 [] }),
                      (queueNo 3 0 0, { DieQueue.blank with receiver := some 1, entries := [bytesOf 8 n ++ zeros 248], receives := 6 })] }
theorem witness_DieQueues : Issues plain (queued 6) ∧ (dieOf (queued 6).cur.slot.cell = 0) ∧ ((queued 6).rg 2).toNat < 32 ∧ ((queued 6).rg 2).toNat % 4 ≠ 0 ∧
    (queued 6).dieServes ((queued 6).binding (queued 6).cur.slot).part 3 = true ∧ ((queued 6).dq (queueNo 0 3 7)).sender = some 1 ∧ ((queued 6).dq (queueNo 0 3 7)).entries.length < 64 ∧
    okWith ((begun plain (queued 6)).buffer .load ((queued 6).rg 1) 256) (fun _ => true) = true ∧
    okWith ((begun plain (queued 6)).buffer .store ((queued 6).rg 1) 256) (fun _ => true) = true ∧ ((queued 6).dq (queueNo 3 0 0)).receiver = some 1 ∧
    natAt ((((queued 6).dq (queueNo 3 0 0)).entries).headD []) 0 4 = 6 ∧ natAt ((((queued 7).dq (queueNo 3 0 0)).entries).headD []) 0 4 ≠ 6 ∧
    (queued 7).trapHeld placedSlot .s 0x10 = false := ⟨issues_of (by decide +kernel), by decide +kernel⟩

/-- A collective descriptor naming group 255, whose member the unit is. -/
def descriptor : List Byte := zeros 24 ++ bytesOf 8 255 ++ zeros 32
def grouped (x : Option Submission) (rs : List Result) : State :=
  let s := stored [(1, own)] 0 descriptor
  ({ s with groups := [(255, { handle := 1, members := [{ team := 0, die := 0, next := 0 }], rank := 0, peers := [], contribs := [], sent := [], lost := [] })], results := rs }).withHere
    (fun l => { l with submitted := x })
theorem witness_Collectives : Issues plain (grouped none []) ∧
    okWith ((begun plain (grouped none [])).buffer .load own 64) (fun x => decide (natOf (x.2.load (x.1 + 24) 8) = 255)) = true ∧
    (Map.find (grouped none []).groups 255).map (fun g => g.handle) = some ((grouped none []).binding placedSlot).handle ∧ (grouped none []).here.submitted = none ∧
    (let s := grouped (some { pc := 0x400004, id := 9 }) [{ readyResult with engine := .collective, direct := true }]
     s.here.submitted.any (fun x => decide (x.pc = s.me.pc)) ∧ (s.results.find? (fun r => decide (r.id = 9))).isSome ∧
     okWith ((begun plain s).sWrite (s.rg 1 + 48) (zeros 16) 16) (fun _ => true) = true) := ⟨issues_of (by decide +kernel), by decide +kernel⟩

/-- A SEG page at 0x600000 onto frame 3; g1 an address there, g2 a plain one, g3 the urgency 7, g4 a mask number and a deadline passed. -/
def segmented : State :=
  let s := benchG .s [(1, 0x600010), (2, 0x400100), (3, 7), (4, 5 * 2 ^ 32)]
  { s with mem := Memory.write (Memory.write s.mem (0x4000 + 24) (bytesOf 8 (0x600000 + 0x57))) 0x400200 (bytesOf 8 (2 ^ 63 + 5)) }
theorem witness_Segments : Issues plain segmented ∧ (begun plain segmented).absentSegment (segmented.rg 1) = some 3 ∧ (begun plain segmented).absentSegment (segmented.rg 2) = none ∧
    (segmented.rg 3).toNat < 8 ∧ okWith ((begun plain segmented).access segmented.cur .load (segmented.rg 2) 1 1) (fun _ => true) = true ∧
    okWith ((begun plain segmented).sAccess .load false (segmented.rg 2) 16 16) (fun _ => true) = true ∧
    okWith ((begun plain segmented).sAccess .store true (segmented.rg 2) 16 16) (fun _ => true) = true ∧
    natOf (segmented.load 0x400200 8) / 2 ^ 63 = 1 ∧ natOf (segmented.load 0x400200 8) % 2 ^ 32 = (segmented.rg 4).toNat / 2 ^ 32 ∧
    natOf (segmented.load 0x400100 8) / 2 ^ 63 ≠ 1 ∧ maskLate segmented.cyc (segmented.rg 4) = true := ⟨issues_of (by decide +kernel), by decide +kernel⟩

theorem test_mma_update : (((multiplying 0 31).mUpdate placedSlot).slot placedSlot).mflight.map (fun m => (m.step, m.row)) = some (1, 0) := by decide +kernel
theorem test_mprg_clears : ran (.mprg plain 3 1) (benchWith .m (fun l => { l with sr := { l.sr with mprog := 0x800000000000013D } })) (fun t => (t.me.gReg 3, t.here.sr.mprog)) =
    some (0x800000000000013D, 0x8000000000000100) := by decide +kernel
theorem test_xqry_cursor : ran (.xqry plain 3 1) (moving 17) (fun t => t.me.gReg 3) = some 17 := by decide +kernel
theorem test_scommit_order : ran (.scommit plain 3 2 7) (serving .s liveRec [(2, 4095), (7, 2 * 2 ^ 32)]) (fun t => (t.me.gReg 3, (t.srec 4095).c)) = some (3, 3) := by decide +kernel
theorem test_scommit_ok : ran (.scommit plain 3 2 7) (serving .s liveRec [(2, 4095), (7, 3 * 2 ^ 32 + 9)]) (fun t => (t.me.gReg 3, (t.srec 4095).c)) = some (0, 4) := by decide +kernel
theorem test_sframe_barge_in : ran (.sframe plain 3 2 4) (serving .s (bargedRec [2]) [(2, 4095)]) (fun t => ((t.me.gReg 3).toNat / 2 ^ 32, t.me.qReg 4, (t.srec 4095).len0)) =
    some (2, true, 2) := by decide +kernel
theorem test_acmp_last : ran (.acmp plain 3) (windowed (some (openWindow 7 false))) (fun t => t.me.gReg 3) = some 8 := by decide +kernel
theorem test_pfxpin : ran (.pfxpin plain 4) (prefixed [(63, pinned)]) (fun t => (t.prefixEntry 0 63).pins) = some 2 := by decide +kernel
theorem test_dqrecv_number : ran (.dqrecv plain 4 1 3) (queued 6) (fun t => ((t.me.gReg 4).toNat, (t.dq (queueNo 3 0 0)).receives)) = some (6, 7) := by decide +kernel
theorem test_maskw_late : ran (.maskw plain 2 4) segmented (fun t => (Memory.byte t.mem 0x400108).toNat) = some 1 := by decide +kernel

/-- No access of the records' micro-context waits for the host link. -/
theorem witness_Records_flow : LinkFlows (serving .s liveRec []) 1 ∧ LinkFlows checkpointed 1 ∧ (serving .s liveRec []).recordHeld 4095 = false ∧
    checkpointed.recordHeld 4095 = false := by unfold LinkFlows; decide +kernel
/-- A full prefix table, all of it pinned, or but for entry 7. -/
def crowded (free : Bool) : State :=
  prefixed ((List.range 64).map (fun i => (i, { pinned with digest := 9, pins := if free ∧ i = 7 then 0 else 1, matched := i })))
theorem witness_Prefix_full : (∀ i, i < 64 → ((crowded false).prefixEntry 0 i).used = true ∧ ((crowded false).prefixEntry 0 i).pins ≠ 0 ∧
      ((crowded false).prefixEntry 0 i).digest ≠ 5) ∧ ((crowded true).prefixEntry 0 7).pins = 0 ∧
    ran (.pfxi plain 2) (crowded true) (fun t => ((t.prefixEntry 0 7).digest, (t.prefixEntry 0 7).gen)) = some (5, 2) := by decide +kernel
/-- A page of host memory at 0x800000 while the sub-stream of reads has stopped. -/
def unread : State :=
  { benchG .s [(1, 0x800010)] with mem := Memory.write (bench .s).mem (0x4000 + 32) (bytesOf 8 (0x800000 + 0x8F))
                                   ide := [(1, { IdeStream.blank with stop := [false, true, false] })] }
theorem hold_of {α : Type} (r : Except Stop α) (h : (match r with
    | .error .hold => true
    | _ => false) = true) : r = .error .hold := by
  cases r with
  | ok a => cases h
  | error e => cases e <;> first | rfl | cases h
theorem witness_Segments_held : (begun plain unread).access unread.cur .load (unread.rg 1) 1 1 = .error .hold ∧ Issues plain unread :=
  ⟨hold_of _ (by decide +kernel), issues_of (by decide +kernel)⟩

/-! ### Events of a slot and of the engines -/

theorem benchRuns (st : Stream) (f : Slot → Slot) (hb : (f benchSlot).bound ≠ none) (hh : (f benchSlot).handler = none) : SlotRuns (benchWith st f) placedSlot :=
  ⟨hb, rfl, hh⟩
/-- A line whose first word has an opcode that no row holds. -/
def badLine : State :=
  benchWith .s (fun l => { l with s := { l.s with line := { va := 0x400000, data := BitVec.ofNat 512 (15 + word0 0 0xF0 0 0 0 0 * 2 ^ 32) } } })
theorem witness_SlotEvents_trap : badLine.here.bound ≠ none ∧ badLine.rejects .op = true ∧ badLine.rejects .len = false ∧ (bench .m).here.bound ≠ none ∧
    (bench .m).rejects .op = false := by decide +kernel
theorem test_encoding_trap : ran (.encodingTrap .op) badLine (fun t => (t.here.sr.tcause.toNat % 256, t.here.sr.tval)) = some (1, 0x400004) ∧
    ran (.encodingTrap .len) badLine (fun t => t.here.sr.tcause) = some 0 := by decide +kernel
/-- Two results in flight, the second due. -/
def flying : State := benchWith .v (fun l => { l with vflight := [{ gResult plain 1 5 with offset := 1 }, gResult plain 2 6] })
theorem witness_SlotEvents_landing : SlotRuns flying placedSlot ∧ (flying.slot placedSlot).vflight = [{ gResult plain 1 5 with offset := 1 }] ++ gResult plain 2 6 :: [] ∧
    (gResult plain 2 6).offset = 0 ∧ flying.landingTrap placedSlot = none ∧ (flying.slot placedSlot).s.halted = false :=
  ⟨benchRuns _ _ (by decide +kernel) rfl, rfl, rfl, by decide +kernel, rfl⟩
/-- CANCEL and DEADLINE pending. -/
def signalled (c d : Bool) : State := benchWith .s (fun l => { l with cancel := c, deadline := d })
theorem witness_SlotEvents_async : (SlotRuns (signalled true true) placedSlot ∧ ((signalled true true).slot placedSlot).cancel = true ∧
      ((signalled true true).slot placedSlot).window = none ∧ (signalled true true).trapHeld placedSlot .s 0x14 = false) ∧
    SlotRuns (signalled false true) placedSlot ∧ ((signalled false true).slot placedSlot).deadline = true ∧ (signalled false true).trapHeld placedSlot .s 0x11 = false :=
  ⟨⟨benchRuns _ _ (by decide +kernel) rfl, rfl, rfl, by decide +kernel⟩, benchRuns _ _ (by decide +kernel) rfl, rfl, by decide +kernel⟩
/-- V parked on frame 3, which has become resident; S waiting in MASKW. -/
def parkedV : State :=
  let s := benchWith .v (fun l => { l with v := { l.v with waiting := some { on := .segment 3, since := 0 } } })
  { s with residency := [(3, .resident)] }
theorem witness_SlotEvents_park : SlotRuns parkedV placedSlot ∧ ((parkedV.slot placedSlot).stream .v).waiting = some { on := .segment 3, since := 0 } ∧
    Map.find parkedV.residency 3 = some .resident := ⟨⟨by decide +kernel, rfl, rfl⟩, rfl, rfl⟩
def maskWaits : State :=
  benchWith .s (fun l => { l with s := { l.s with g := [(2, 0x400100), (4, 5 * 2 ^ 32)], waiting := some { on := .mask, since := 0 },
                                                    line := { va := 0x400000, data := BitVec.ofNat 512 (15 + word0 0 0xD4 0 2 4 0 * 2 ^ 32) } } })
theorem witness_SlotEvents_mask : SlotRuns maskWaits placedSlot ∧ (maskWaits.slot placedSlot).s.waiting = some { on := .mask, since := 0 } ∧
    maskWaits.instrAt { slot := placedSlot, stream := .s } = .maskw plain 2 4 ∧ maskLate maskWaits.cyc ((maskWaits.slot placedSlot).s.gReg 4) = true ∧
    (∃ t, exec (.maskw plain 2 4) { maskWaits with cur := { slot := placedSlot, stream := .s } } = .next t) :=
  ⟨benchRuns _ _ (by decide +kernel) rfl, rfl, by decide +kernel, by decide +kernel, ⟨_, rfl⟩⟩
theorem witness_SlotEvents_deadline : Issues plain { maskWaits with cur := { slot := placedSlot, stream := .s } } ∧ (maskWaits.slot placedSlot).window = none ∧
    (0x400100 : Word).toNat / 2 ^ 61 = 0 ∧ okWith ((begun plain maskWaits).sAccess .load false 0x400100 16 16) (fun _ => true) = true ∧
    okWith ((begun plain maskWaits).sAccess .store true 0x400100 16 16) (fun _ => true) = true ∧ maskWaits = { maskWaits with cur := { slot := placedSlot, stream := .s } } :=
  ⟨issues_of (by decide +kernel), rfl, by decide, by decide +kernel, by decide +kernel, rfl⟩
theorem test_maskw_deadline : ran (.maskwDeadline placedSlot) maskWaits (fun t => (t.me.pc, (Memory.byte t.mem 0x400108).toNat)) = some (0x400008, 1) := by decide +kernel

theorem witness_PageWalks : ((bench .s).slot placedSlot).bound = some placedBinding ∧ (0x400123 : Word).toNat < 2 ^ 57 ∧
    (∃ x, (bench .s).walk placedBinding.part placedBinding.root 0x400123 = .ok x ∧ bitOf x.2 6 = false) ∧
    (∃ e, (bench .s).walk placedBinding.part placedBinding.root 0x800000 = .error e) := by
  refine ⟨rfl, by decide, ?_, ?_⟩
  · obtain ⟨x, h, p⟩ := okWith_elim (x := (bench .s).walk placedBinding.part placedBinding.root 0x400123) (p := fun x => !bitOf x.2 6) (by decide +kernel)
    exact ⟨x, h, by simpa using p⟩
  · have h : Except.isOkay ((bench .s).walk placedBinding.part placedBinding.root 0x800000) = false := by decide +kernel
    cases e : (bench .s).walk placedBinding.part placedBinding.root 0x800000 with
    | ok x => rw [e] at h; cases h
    | error k => exact ⟨k, rfl⟩

/-- A module whose dies run, with one command outstanding. -/
def engineCommand (e : Engine) (bs : List Byte) (route : Option (Word × Nat)) : Command :=
  { pendingCommand 5 with engine := e, bytes := bs, route := route }
def fleet : State :=
  let d : Die := { Die.blank with up := true }
  { bench .s with dies := [(0, d), (1, d), (2, d), (3, d)] }
def commanded (c : Command) : State := { fleet with commands := [c] }
/-- A walker command: OP, handle 1, a page, a TAG. -/
def walkBytes (op : Nat) : List Byte := [BitVec.ofNat 8 op, 1, 0, 0, 0, 0, 0, 0] ++ bytesOf 8 0x400000 ++ bytesOf 8 1 ++ bytesOf 8 77
theorem witness_Walkers : ∀ op ∈ [1, 2, 3], let c := { engineCommand .walker (walkBytes op) none with user := false }
    (commanded c).waitingAt 0 .walker = c :: [] ∧ c.vf = 0 ∧ (commanded c).unitLives c.unit = true ∧ walkBad c.bytes = false ∧ (commanded c).walkDenied c = false ∧
    byteAt c.bytes 0 = op := by decide +kernel
theorem witness_Walkers_host : (Map.get VfWalker.blank fleet.vfs 16).wgo = false := by decide +kernel

/-- A Siphon command for the SEG page of `segmented`, with the segment registered and its state given. -/
def siphonBytes (op urgency : Nat) (va : Nat) : List Byte := [BitVec.ofNat 8 op, BitVec.ofNat 8 urgency] ++ zeros 6 ++ bytesOf 8 va ++ zeros 8 ++ bytesOf 8 77
def seg3 : Segment :=
  { hash := 0, frame := 3, order := 0, src := 7, drive := 1, peer := 0, lba := 9, urgency := 2, reading := none, since := 0, failed := [], asked := false }
def siphoned (c : Command) (r : Map Residency) : State :=
  { fleet with mem := segmented.mem, mcs := [(1, placedMc)], commands := [c], segments := [(0, [seg3])], residency := r }
theorem witness_Siphon : (∀ c ∈ [engineCommand .siphon (siphonBytes 1 0 0x600010) none, engineCommand .siphon (siphonBytes 2 7 0x600010) none],
      ((siphoned c []).waitingAt 0 .siphon)[0]? = some c ∧ c.vf = 0 ∧ (siphoned c []).unitLives c.unit = true ∧ (siphoned c []).behindAnother c (fun _ => true) = false ∧
      siphonBad c.bytes = false ∧ (siphoned c []).segFrame c.handle (BitVec.ofNat 64 (natAt c.bytes 8 8)) = some 3 ∧ Map.find (siphoned c []).residency 3 = none ∧
      (siphoned c []).segmentAt 3 = some seg3 ∧ Map.find (siphoned c [(3, .failed)]).residency 3 ≠ none) ∧
    (siphoned (engineCommand .siphon (siphonBytes 1 0 0x400010) none) []).segFrame 1 0x400010 = none := by decide +kernel

/-- A reply of four bytes at 0x400000 on route 9. -/
def replyBytes : List Byte := [1] ++ zeros 7 ++ bytesOf 8 9 ++ bytesOf 8 3 ++ bytesOf 8 0x400000 ++ bytesOf 4 4 ++ zeros 4 ++ bytesOf 8 77 ++ zeros 16
theorem witness_Egress : let c := engineCommand .egress replyBytes (some (9, 1))
    ((commanded c).waitingAt 0 .egress)[0]? = some c ∧ c.vf = 0 ∧ (commanded c).unitLives c.unit = true ∧ (commanded c).behindAnother c (fun _ => true) = false ∧
    egressBad c.bytes = false ∧ natAt c.bytes 8 8 = (9 : Word).toNat ∧
    (commanded c).commandRange c .load (BitVec.ofNat 64 (natAt c.bytes 24 8)) (natAt c.bytes 32 4) = .ok [0x400000, 0x400001, 0x400002, 0x400003] ∧
    (commanded c).portIsDown 1 = false ∧ ({ commanded c with portDown := [(1, true)] } : State).portIsDown 1 = true := by decide +kernel
theorem witness_Egress_streams : let r := { liveRec with delivery := [{ token := 9, pos := 2, tag := none, prov := false, sent := false }] }
    ({ fleet with streams := [(4095, r)] } : State).streamPort 4095 = some 6 ∧ r.owner ≠ 0xFFFF ∧ r.notices = [] ∧ r.toSend (min 1 1016) ≠ [] ∧
    ({ r with notices := [2] } : StreamRec).notices = 2 :: [] := by decide +kernel

/-- Two members of group 255 with a command each for one element at 0x400000. -/
def pair : Group := { handle := 1, members := [{ team := 0, die := 0, next := 4 }, { team := 1, die := 0, next := 4 }], rank := 0, peers := [], contribs := [], sent := [], lost := [] }
def collBytes (op type group : Nat) : List Byte :=
  [BitVec.ofNat 8 op, BitVec.ofNat 8 type, 0, 0] ++ bytesOf 4 1 ++ bytesOf 8 0x400000 ++ bytesOf 8 0x400000 ++ bytesOf 8 group ++ bytesOf 8 77 ++ zeros 24
def submitted (op : Nat) (group : Nat) : Command := engineCommand .collective (collBytes op 0 group) none
theorem witness_Collective_submit : ∀ op ∈ [1, 2, 3], let c := submitted op 255
    let s : State := { commanded c with groups := [(255, pair)] }
    (s.waitingAt 0 .collective)[0]? = some c ∧ c.ordinal = none ∧ s.behindAnother c (fun x => x.ordinal.isNone) = false ∧ collOp c.bytes = op ∧
    Map.find s.groups (collGroup c.bytes) = some pair ∧ pair.handle = c.handle ∧ collBad pair c.unit.index c.bytes = false ∧
    pair.members.find? (fun m => decide (m.team = c.unit.index)) = some { team := 0, die := 0, next := 4 } ∧ s.dieServes (s.mc c.handle).part c.die = true ∧
    s.commandRange c .load (collSrc c.bytes) (collSize c.bytes) ≠ .faults ∧ s.commandRange c .store (collDst c.bytes) (collDstSize pair c.bytes) ≠ .faults ∧
    Map.find s.groups (collGroup (submitted op 254).bytes) = none ∧ s.unitLives c.unit = true := by decide +kernel
def member (team type id : Nat) : Command :=
  { submitted 1 255 with bytes := collBytes 1 type 255, unit := { launch := 1, index := team }, ordinal := some 3, id := id }
def completing (type : Nat) : State := { fleet with groups := [(255, pair)], commands := [member 0 0 5, member 1 type 6] }
theorem witness_Collective_complete : Map.find (completing 2).groups 255 = some pair ∧ pair.peers = [] ∧ pair.lost = [] ∧ pair.contribs = [] ∧
    (∀ x ∈ [member 0 0 5, member 1 0 6], ((completing 0).commandRange x .store (collDst x.bytes) (collDstSize pair x.bytes)).isWait = false) ∧
    (∀ type ∈ [0, 2], (∀ m ∈ pair.ranked, (completing type).memberCommand pair 255 3 m ≠ none) ∧
      pair.ranked.filterMap ((completing type).memberCommand pair 255 3) = [member 0 0 5, member 1 type 6]) ∧
    mismatched [member 0 0 5, member 1 2 6] = true ∧ mismatched [member 0 0 5, member 1 0 6] = false ∧
    (∀ x ∈ [member 0 0 5, member 1 0 6], (completing 0).commandRange x .load (collSrc x.bytes) (collSize x.bytes) = .ok [0x400000, 0x400001, 0x400002, 0x400003]) := by
  decide +kernel

/-! Sources of a segment. -/

theorem bytesOf_natOf (bs : List Byte) : bytesOf bs.length (natOf bs) = bs := by
  induction bs with
  | nil => rfl
  | cons b t ih =>
    have h : b.toNat < 256 := b.isLt
    simp only [List.length_cons, bytesOf, natOf]
    congr 1
    · apply BitVec.eq_of_toNat_eq; simp; omega
    · rw [show (b.toNat + 256 * natOf t) / 256 = natOf t by omega]; exact ih
theorem carryLanes_length (a b : List Word) (i t n : Nat) : (carryLanes a b i t n).length = b.length := by
  induction n generalizing b i t with
  | zero => rfl
  | succ n ih => simp [carryLanes, ih]
theorem keccak_length (a : List Word) : (keccak a).length = a.length := by
  have h (rs : List Nat) (a : List Word) : (rs.foldl keccakRound a).length = a.length := by
    induction rs generalizing a with
    | nil => rfl
    | cons r rs ih => rw [List.foldl_cons, ih]; simp [keccakRound, mixRows, mixColumns, carryLanes_length]
  exact h _ a
theorem absorb_length (a : List Word) (bs : List Byte) (n : Nat) (h : a.length = 25) : (absorb a bs n).length = 25 := by
  induction n generalizing a bs with
  | zero => exact h
  | succ n ih => unfold absorb; exact ih _ _ (by simp [absorbBlock, keccak_length, h])
theorem shake256_length (bs : List Byte) : (shake256 bs 32).length = 32 := by
  have h : ∀ w : Word, (bytesOf 8 w.toNat).length = 8 := fun w => rfl
  unfold shake256
  simp only [show ceilDiv 32 136 = 1 by decide, squeeze, List.append_nil, List.length_take, List.length_flatMap, h]
  rw [List.map_const', List.sum_replicate_nat, List.length_take, absorb_length _ _ _ (by decide)]
  decide
theorem shake256_number (bs : List Byte) : shake256 bs 32 = bytesOf 32 (natOf (shake256 bs 32)) := by
  have := bytesOf_natOf (shake256 bs 32)
  rw [shake256_length] at this
  exact this.symm

/-- A segment whose flash source is being read, and data of a frame of zeros. -/
def reading (k : Nat) (e : Segment) : State := { fleet with segments := [(0, [{ e with reading := some k, asked := true }])], cyc := 100000000 }
def frameData : List Byte := List.replicate (2 ^ 21) 0
def drive1 (ready : Bool) : Map Drive := [(1, { block := 512, ready := ready })]
theorem witness_Segment_start : let s : State := { fleet with segments := [(0, [{ seg3 with urgency := 0, asked := true }])], drives := drive1 true }
    (s.segmentsOn 0).find? (fun x => decide (x.frame = 3)) = some { seg3 with urgency := 0, asked := true } ∧
    s.isNext 0 { seg3 with urgency := 0, asked := true } = true ∧ s.nextSource { seg3 with urgency := 0, asked := true } = some 0 ∧
    s.nextSource { seg3 with src := 2 } = some 1 ∧
    s.sourceRoom { seg3 with src := 2 } 1 = true := by decide +kernel
/-- A drive with 64 reads under way, and one that is not ready. -/
theorem witness_Segment_held : (let s : State := { fleet with drives := drive1 true, segments := [(0, List.replicate 64 { seg3 with reading := some 1, frame := 4 } ++ [{ seg3 with src := 2 }])] }
      (s.segmentsOn 0).find? (fun x => decide (x.frame = 3)) = some { seg3 with src := 2 } ∧ s.nextSource { seg3 with src := 2 } = some 1 ∧
      s.sourceRoom { seg3 with src := 2 } 1 = false) ∧
    (let s : State := { fleet with drives := drive1 false, segments := [(0, [{ seg3 with src := 2 }])] }
     (s.segmentsOn 0).find? (fun x => decide (x.frame = 3)) = some { seg3 with src := 2 } ∧ bitOf 2 0 = false ∧ bitOf 2 2 = false ∧
      ∀ v, Map.find s.drives seg3.drive = some v → v.ready = false) := by
  refine ⟨by decide +kernel, rfl, by decide, by decide, fun v h => ?_⟩
  cases h; rfl
theorem reading_find (k h : Nat) : ((reading k { seg3 with hash := h }).segmentsOn 0).find? (fun x => decide (x.frame = 3)) =
    some { seg3 with hash := h, reading := some k, asked := true } := rfl
theorem hashed_segment (k : Nat) (data : List Byte) : ∃ e : Segment, ((reading k e).segmentsOn 0).find? (fun x => decide (x.frame = 3)) = some e ∧ e.reading = some k ∧
    e.asked = true ∧ shake256 data 32 = bytesOf 32 e.hash ∧ e.since + 100000000 ≤ (reading k e).cyc :=
  ⟨{ seg3 with hash := natOf (shake256 data 32), reading := some k, asked := true }, reading_find _ _, rfl, rfl, shake256_number data, by
    show 0 + 100000000 ≤ 100000000
    decide⟩
/-- Some data of a frame, and the segment whose hash they have. -/
theorem witness_Segment_check : frameData.length = 2 ^ 21 ∧ 3 < 2 ^ 19 ∧
    ∃ e : Segment, ((reading 1 e).segmentsOn 0).find? (fun x => decide (x.frame = 3)) = some e ∧ e.reading = some 1 ∧ e.asked = true ∧
      shake256 frameData 32 = bytesOf 32 e.hash ∧ e.since + 100000000 ≤ (reading 1 e).cyc :=
  ⟨List.length_replicate .., by decide, hashed_segment 1 frameData⟩
theorem witness_Segment_mismatch : ∃ hash, shake256 frameData 32 ≠ bytesOf 32 hash := by
  by_cases h : shake256 frameData 32 = bytesOf 32 0
  · exact ⟨1, by rw [h]; decide⟩
  · exact ⟨0, h⟩
theorem witness_Segment_host : ∃ e : Segment, ((reading 0 e).segmentsOn 0).find? (fun x => decide (x.frame = 3)) = some e ∧ e.reading = some 0 ∧ e.asked = true ∧
    shake256 (Memory.read fleet.mem (3 * 2 ^ 21) (2 ^ 21)) 32 = bytesOf 32 e.hash ∧ e.since + 100000000 ≤ (reading 0 e).cyc := hashed_segment 0 _

/-! Frames and queues. -/

/-- A service frame as the network carries it to port 0, to the service address of zeros but UDP port 1. -/
def netFrameOf (sport dport : Byte) (payload : List Byte) : List Byte :=
  zeros 12 ++ [0x86, 0xDD] ++ ([0x60, 0, 0, 0] ++ [BitVec.ofNat 8 ((payload.length + 8) / 256), BitVec.ofNat 8 (payload.length + 8)] ++ [17, 64] ++ zeros 32) ++
    ([0, sport, 0, dport] ++ [BitVec.ofNat 8 ((payload.length + 8) / 256), BitVec.ofNat 8 (payload.length + 8), 0, 0] ++ payload)
def netFrame (payload : List Byte) : List Byte := netFrameOf 2 1 payload
/-- A sealed frame of a type for handle 1, number 64, under the key of zeros in slot 0. -/
def sealed (type stream : Nat) (plain : List Byte) : List Byte :=
  let head := frameHeader type stream 1 64
  head ++ gcmSeal (zeros 32) (frameNonce type stream 1 64) head plain
def receiving (w : Option Replay) : State :=
  { fleet with ports := [(0, { udp := 1, mac := 0, ipv6 := 0 })], keys := [(0, 0)], streams := [(4095, liveRec)]
               replay := (match w with
                 | some r => [(1, r)]
                 | none => []) }
theorem witness_Frames_request : ((receiving none).arrives 0 (netFrame (sealed 1 0 []))).any (fun d => decide (d.payload = sealed 1 0 []) && frameFormed 1 d.payload &&
      decide (frameHandle d.payload = 1) && decide ((receiving none).openFrame 1 d.payload = some [])) ∧
    (receiving none).openFrame 1 (sealed 1 0 [] ++ [0]) = none ∧ ((receiving none).mc 1).state ≠ .invalid ∧ ((receiving none).mc 1).state ≠ .drain ∧
    windowAccepts (Map.find (receiving none).replay 1) 64 = true ∧ ((receiving none).mc 1).freeRing = some 0 ∧
    windowAccepts (Map.find (receiving (some { high := 64, seen := 0 })).replay 1) 64 = false := by decide +kernel
theorem witness_Frames_stream : let plain : List Byte := bytesOf 4 2 ++ [3] ++ zeros 3
    ((receiving none).arrives 0 (netFrame (sealed 3 4095 plain))).any (fun d => frameFormed 3 d.payload && decide (frameStream d.payload = 4095) &&
      decide ((receiving none).openFrame 1 d.payload = some plain)) ∧ ((receiving none).srec 4095).owner = 1 ∧ byteAt plain 4 < 4 ∧ zeroAt plain 5 3 = true ∧
    windowAccepts (Map.find (receiving none).replayStream 4095) 64 = true ∧ ((receiving none).srec 4095).freeBuffer = some 0 ∧ ((receiving none).mc 1).wake = false := by
  decide +kernel
theorem witness_Replay : windowAccepts none 5 = true ∧ windowAccepts (some { high := 100, seen := 0 }) 36 = true ∧ windowAccepts (some { high := 100, seen := 0 }) 35 = false ∧
    windowAccepts (some { high := 100, seen := 0 }) 164 = true ∧ 100 < 101 ∧ 164 ≤ 101 + 64 := by decide
/-- Micro-context 4095, with a queue, and with PEND set. -/
def pending (pend : Bool) : State := { fleet with mcs := [(1, placedMc), (4095, { placedMc with qsrc := 1, pend := pend, job := none, state := .idle })] }
theorem witness_Queues : ((pending false).mc 4095).state = .idle ∧ ((pending false).mc 4095).qsrc = 1 ∧ ((pending false).mc 4095).mapped = false ∧
    ((pending true).mc 4095).pend = true ∧ (pending true).remapsFirst 4095 = true ∧ (pending true).queueHeld 4095 = false ∧ ((pending true).mcs.filter (fun e => e.2.mapped)).length < 512 := by decide +kernel

/-- Micro-context 1, with its request ring at 0x420000 and a job in progress. -/
theorem witness_RequestPlacement : let s : State := { fleet with mcs := [(1, { placedMc with rqring := 0x420000 })] }
    (s.mc 1).job.isSome = true ∧ okWith (s.mcPlaces 1 .store ((s.mc 1).rqring + BitVec.ofNat 64 (8192 * 15)) (64 + [7, 8, 9].length))
      (fun ks => decide ks.Nodup && ks.all s.keyed) = true ∧
    ((s.placeRequest 1 7 15 64 [7, 8, 9]).mc 1).ring = [15] := by decide +kernel

/-- The published digest of the empty message, first 8 bytes (FIPS 202). -/
theorem test_shake256_empty : shake256 [] 8 = [0x46, 0xB9, 0xDD, 0x2B, 0x0B, 0xA8, 0x8D, 0x13] := by decide +kernel
/-- Test case 13 of the GCM specification: key and nonce of zeros, nothing sealed. -/
theorem test_gcm_empty : gcmSeal (zeros 32) (zeros 12) [] [] = [0x53, 0x0F, 0x8A, 0xFB, 0xC7, 0x45, 0x36, 0xB9, 0xA9, 0x63, 0xB4, 0xF1, 0xC4, 0xCB, 0x73, 0x8B] := by
  decide +kernel
theorem test_landing : ran (.vResultLand placedSlot) flying (fun t => (t.slot placedSlot).v.gReg 2) = some 6 := by decide +kernel
theorem test_walker_answer : ran (.walkerInvalidateHandle 0 0) (commanded (engineCommand .walker (walkBytes 2) none)) (fun t => (t.results.map (·.bytes), t.commands)) =
    some ([bytesOf 8 77 ++ zeros 8], []) := by decide +kernel
theorem test_siphon_urge : ran (.siphonUrge 0 0) (siphoned (engineCommand .siphon (siphonBytes 2 7 0x600010) none) []) (fun t => (t.segmentAt 3).map (·.urgency)) = some (some 7) := by
  decide +kernel
theorem test_queue_notify_unmapped : ran (.queueNotify 1 (256 * 4095) 2) (pending false) (fun t => ((t.mc 4095).pend, (t.mc 4095).tail)) = some (true, 2) := by decide +kernel


/-! ### The Ladles, the host and Lid -/

/-- The module with one launch of one unit that waits for a cell; no cell has run anything. -/
def waitingLaunch : Launch := { placedLaunch with group := none, units := [UnitSt.blank], request := some 0 }
def waitingState : State :=
  { fleet with
    cells := [], launches := [(3, waitingLaunch)]
    mcs := [(1, { placedMc with state := .ready })], partitions := [(0, { Partition.blank with clusters := 2 ^ 64 - 1, enable := true })], cyc := 25000 }
theorem witness_Binding : (waitingState.die 0).up = true ∧ (∀ c, dieOf c = 0 → waitingState.settleCell c = waitingState) ∧
    (∀ e ∈ waitingState.mcs, e.2.home = 0 → e.2.waiting = []) ∧ (waitingState.readyQueue 0).flatMap waitingState.waitingLaunches = 3 :: [] ∧
    let l := waitingLaunch
    Map.find waitingState.launches 3 = some l ∧ l.areasWanted ≤ (waitingState.areasFree l.mc).length ∧ waitingState.placeFor 3 l = some 0 ∧
      l.record.gsize = 0 ∧ l.units = [UnitSt.blank] ∧ UnitSt.blank.status = .waiting ∧ (waitingState.slot { cell := 0, h1 := false }).bound = none ∧
      (waitingState.slot { cell := 0, h1 := true }).bound = none ∧ (waitingState.cell 0).lastMc ≠ some l.mc ∧ l.request = some 0 ∧ 0 + 25000 ≤ waitingState.cyc ∧
      waitingState.forcing l.job = false ∧ l.record.sentry ≠ 0 :=
  ⟨by decide +kernel, fun _ _ => rfl, by decide +kernel, by decide +kernel, rfl, by decide +kernel, by decide +kernel, rfl, rfl, rfl, rfl, rfl,
   by decide +kernel, rfl, by decide +kernel, by decide +kernel, by decide +kernel⟩

/-- Two units on cell 0 at two levels, the first active since cycle 0. -/
def sharedCell (l0 l1 : Nat) (f : Slot → Slot) : State :=
  let at_ (l : Slot) (n : Nat) : Slot := { l with sr := { l.sr with level := n } }
  { fleet with cells := [(0, { CellSt.blank with h0 := at_ (f benchSlot) l0, h1 := at_ benchSlot l1 })], cyc := 100000 }
/-- S in JOIN for 2,000 c, the other streams halted. -/
def joining (l : Slot) : Slot :=
  { l with s := { l.s with waiting := some { on := .counter, since := 98000 } }, v := { l.v with halted := true }, m := { l.m with halted := true }
           x := { l.x with halted := true } }
/-- Both units wait: H0 in JOIN, H1 without a token from V. -/
def bothWait : State :=
  let h1 : Slot := joining benchSlot
  { fleet with cells := [(0, { CellSt.blank with h0 := joining benchSlot, h1 := { h1 with s := { h1.s with waiting := some { on := .token .v, since := 98000 } } } })], cyc := 100000 }
theorem witness_Slices : (∀ s ∈ [sharedCell 5 5 id, sharedCell 4 5 id, sharedCell 5 5 joining], ((s.cell 0).slot false).bound = some placedBinding ∧
      ((s.cell 0).slot true).bound ≠ none ∧ ((s.cell 0).slot false).handler = none ∧ ((s.cell 0).slot false).window = none ∧ (s.cell 0).active = false ∧
      (s.partition placedBinding.part).tslice ≠ 0 ∧ (s.cell 0).activeSince + 1000 * (s.partition placedBinding.part).tslice ≤ s.cyc) ∧
    (((sharedCell 5 5 joining).cell 0).slot false).idles 100000 = true ∧ (sharedCell 5 5 joining).restIdles { cell := 0, h1 := true } = false ∧
    (((sharedCell 5 5 id).cell 0).slot false).idles 100000 = false ∧ (((bothWait).cell 0).slot false).idles 100000 = true ∧
    bothWait.restIdles { cell := 0, h1 := true } = true := by
  decide +kernel
/-- Table 18.5, step 8: a released tile that was dirty leaves AOWN at 0x002. -/
theorem test_release_keeps_dirty :
    aownWord ({ CellSt.blank with a0 := { Tile.blank with held := true, dirty := true } }.releaseTiles false) Slot.blank = 0x002 := by decide +kernel
/-- Micro-context 4095 ready since cycle 0, below and at the ceiling of 31. -/
def aged (level : Nat) : State := { fleet with mcs := [(4095, { placedMc with state := .ready, level := level })], cyc := 2000000 }
theorem witness_Ages : ((aged 30).mc 4095).state = .ready ∧ 1000 * ((aged 30).partition ((aged 30).mc 4095).part).age ≠ 0 ∧
    ((aged 30).mc 4095).risenAt + 1000 * ((aged 30).partition ((aged 30).mc 4095).part).age ≤ (aged 30).cyc ∧ ((aged 30).mc 4095).level < (aged 30).ceiling 4095 ∧
    (aged 31).ceiling 4095 ≤ ((aged 31).mc 4095).level ∧ (∃ j, Map.find ({ fleet with jobs := [(2, { placedJob with deadline := some 0 })] } : State).jobs 2 = some j ∧
      j.deadline = some 0) := ⟨by decide +kernel, by decide +kernel, by decide +kernel, by decide +kernel, by decide +kernel, _, rfl, rfl⟩

/-- A die with a Jalcen switch, a recalibration and a record outstanding, at a cycle. -/
def busyDie (cyc : Nat) : State :=
  { fleet with dies := [(0, { Die.blank with up := true, effCap := 60, throttled := true, jalcenSwitch := some 0, recal := some { stack := 1, slices := 0, last := 0 }
                                             records := [{ bytes := zeros 32, rings := [0] }] })]
               rings := [(0, { base := 0, log2n := 0, produced := 0 })], cyc := cyc }
theorem witness_FleetEvents : (∀ c ∈ [0, 1000001], ((busyDie c).die 0).up = true ∧ ((busyDie c).die 0).rampOff = false ∧ ((busyDie c).die 0).effCap < ((busyDie c).die 0).cap ∧
      ((busyDie c).die 0).jalcenSwitch = some 0 ∧ (busyDie c).firmwareBusy 0 = false ∧ ((busyDie c).die 0).recal = some { stack := 1, slices := 0, last := 0 } ∧
      ((busyDie c).link 7).down = false) ∧
    (({ busyDie 0 with cells := [(127, { CellSt.blank with h1 := { benchSlot with handler := some { firmware := true, sMode := false, since := 0, retired := 0 } } })] } : State).firmwareBusy 0 = true) ∧
    (((busyDie 0).partition 15).holdsDie 0 = false) ∧
    (({ fleet with partitions := [(15, { Partition.blank with dies := 1, enable := true, prot := true })] } : State).partition 15).holdsDie 0 = true := by decide +kernel
/-- A die without ramps, held in reset with a switch outstanding, and a link at the end of an epoch. -/
theorem witness_FleetEvents_others : let s : State := { fleet with dies := [(0, { Die.blank with up := true, rampOff := true }), (3, { Die.blank with jalcenSwitch := some 0 })],
                                                                    links := [(7, { DieLink.blank with counter := 2 ^ 36 })] }
    (s.die 0).up = true ∧ (s.die 0).rampOff = true ∧ (s.die 3).up = false ∧ (s.die 3).jalcenSwitch = some 0 ∧ (s.link 7).down = false ∧ 2 ^ 36 ≤ (s.link 7).counter ∧
    (fleet.link 7).counter < 2 ^ 36 := by decide +kernel
theorem witness_HostEvents : fleet.serving = true ∧ (fleet.partition 15).enable = false ∧
    (({ fleet with partitions := [(15, { Partition.blank with enable := true })] } : State).partition 15).enable = true ∧ fleet.cgo = false ∧ fleet.ccmd.length ≤ 64 ∧
    (1 : Word).getLsbD 0 = true ∧ controlKnown fleet.command = false ∧
    controlKnown ({ fleet with ccmd := [9] } : State).command = true ∧ ladderCommandOk ({ fleet with ccmd := [9] } : State).command = true ∧
    (((busyDie 0).die 0).records = { bytes := zeros 32, rings := [0] } :: [] ∧ (busyDie 0).ringRoom 0 = true ∧ (zeros 32).length = ringEntry 0 ∧
      Map.find (busyDie 0).rings 0 = some { base := 0, log2n := 0, produced := 0 }) ∧ ({ fleet with hostUp := false } : State).hostUp = false := by decide +kernel
/-- A message of class 0 in the mailbox of VF 16. -/
def posted (delivered : Bool) : State := { fleet with mailboxes := [(16, { Mailbox.blank with go := true, delivered := delivered })] }
theorem witness_Mailboxes : ∀ d ∈ [true, false], ((posted d).mailbox 16).go = true ∧ ((posted d).mailbox 16).cls = 0 ∧ ((posted d).mailbox 16).delivered = d ∧
    ((posted d).ideStream 0).stop.getD 0 false = false := by decide +kernel
theorem witness_Ide : (fleet.ideStream 16).want.length = 3 ∧ (fleet.ideStream 16).stop.length = 3 ∧ (fleet.ideStream 16).refreshes.length = 3 ∧
    (fleet.ideStream 16).thr.length = 3 ∧ (fleet.ideStream 16).want.getD 2 true = false ∧ fleet.serving = true ∧
    (({ fleet with ide := [(16, { IdeStream.blank with want := [false, false, true] })] } : State).ideStream 16).want.getD 2 false = true := by decide +kernel

/-- Partition 0 protected, with every die and key slots 1 to 1023, and a call of its VF in the mailbox. -/
def calling (code : Nat) (bs : List Byte) : State :=
  { fleet with
    partitions := [(0, { Partition.blank with dies := 15, enable := true, prot := true, keyBase := 1, keyCount := 1023 })]
    mailboxes := [(1, { Mailbox.blank with go := true, cls := 1, code := code, data := (List.range bs.length).zip bs })]
    mcs := [(1, placedMc), (3, { placedMc with state := .idle, root := 0x1000, job := none })], tables := [(3, [0x1000, 0x2000, 0x3000, 0x4000, 0x5000])]
    mem := [0x1000, 0x2000, 0x3000, 0x4000].foldl (fun m a => Memory.write m a (bytesOf 8 (a + 0x1001))) [], frameKeys := [(1, 5)] }
def callBytes (s : State) : List Byte := (s.mailbox 1).bytes 0 1600
theorem called (code : Nat) (bs : List Byte) : (calling code bs).lidCall 1 code = some (callBytes (calling code bs)) := by
  simp [State.lidCall, callBytes, calling, State.mailbox, Map.get, fleet, bench, benchOf]
theorem witness_Lid_root : let s := calling 1 [7]
    let a := callBytes s
    natAt a 0 2 < 4096 ∧ zeroAt a 2 6 = true ∧ s.mayEdit 1 (natAt a 0 2) = true ∧ bitOf (s.partition 0).dies (s.homeOf (natAt a 0 2)) = true := by decide +kernel
theorem witness_Lid_table : ∃ root, ({ calling 1 [7] with tables := [], frameKeys := [] } : State).newTable 3 = some root := by
  generalize hs : ({ calling 1 [7] with tables := [], frameKeys := [] } : State) = s
  have h1 : s.tables = [] := by rw [← hs]
  have h2 : s.frameKeys = [] := by rw [← hs]
  have h3 : (s.die 3).stackCount = 4 := by rw [← hs]; decide +kernel
  have h4 : s.tablesOn 3 = [] := by rw [State.tablesOn, h1]; rfl
  have hr : ∀ x, x < 2 ^ 26 → s.reserved (3 * 2 ^ 38 + x * 4096) = false := by
    intro x h
    unfold State.reserved
    rw [if_pos (by omega), show (3 * 2 ^ 38 + x * 4096) / 2 ^ 38 = 3 by omega, h3]
    simp; omega
  refine ⟨3 * 2 ^ 38 + (Config.tableAddress 3 ([] : List Nat).length).toNat % 2 ^ 26 * 4096, ?_⟩
  unfold State.newTable
  rw [h4]
  show (if ([] : List Nat).contains (3 * 2 ^ 38 + (Config.tableAddress 3 ([] : List Nat).length).toNat % 2 ^ 26 * 4096) = true ∨
    s.reserved (3 * 2 ^ 38 + (Config.tableAddress 3 ([] : List Nat).length).toNat % 2 ^ 26 * 4096) = true ∨
    Map.get 0 s.frameKeys (frameOf (3 * 2 ^ 38 + (Config.tableAddress 3 ([] : List Nat).length).toNat % 2 ^ 26 * 4096)) ≠ 0 then none
    else some (3 * 2 ^ 38 + (Config.tableAddress 3 ([] : List Nat).length).toNat % 2 ^ 26 * 4096)) = _
  have h5 := hr ((Config.tableAddress 3 ([] : List Nat).length).toNat % 2 ^ 26) (Nat.mod_lt _ (by decide))
  generalize 3 * 2 ^ 38 + (Config.tableAddress 3 ([] : List Nat).length).toNat % 2 ^ 26 * 4096 = a at h5 ⊢
  rw [h5, h2]
  rfl
/-- The lowest entry of the tree's lowest table, a page of the frame under slot 5; micro-context 7 has no tree. -/
def leafEntry : Nat := 0x200000 + 0x101
theorem witness_Lid_entry : let s := calling 2 (bytesOf 8 3 ++ bytesOf 8 0x5000 ++ bytesOf 8 511 ++ bytesOf 8 leafEntry)
    let a := callBytes s
    natAt a 0 2 < 4096 ∧ zeroAt a 2 6 = true ∧ natAt a 16 2 < 512 ∧ zeroAt a 18 6 = true ∧ s.mayEdit 1 (natAt a 0 2) = true ∧
    (s.treeOf (natAt a 0 2)).find? (fun x => decide (x.1 = natAt a 8 8)) = some (natAt a 8 8, 0, 0) ∧ s.entryFault 0 (natAt a 24 8) = none ∧
    s.leafAllowed 0 0 (natAt a 24 8) = true ∧ bitOf (natAt a 24 8) 0 = true ∧
    s.mayEdit 1 7 = true ∧ (s.treeOf 7).find? (fun x => decide (x.1 = natAt a 8 8)) = none ∧ s.mayEdit 1 1 = false := by decide +kernel
/-- A key for slot 1023 under a ciphertext of zeros, with a check value of sixteen bytes. -/
def keyData (c0 c1 c2 c3 c4 c5 c6 c7 c8 c9 c10 c11 c12 c13 c14 c15 : Byte) : Map Byte :=
  [(0, 0xFF), (1, 3), (1576, c0), (1577, c1), (1578, c2), (1579, c3), (1580, c4), (1581, c5), (1582, c6), (1583, c7), (1584, c8), (1585, c9), (1586, c10), (1587, c11), (1588, c12), (1589, c13), (1590, c14), (1591, c15)]
def keyCall (d : Map Byte) : State := { calling 3 [] with mailboxes := [(1, { Mailbox.blank with go := true, cls := 1, code := 3, data := d })] }
theorem range_slice {α : Type} (f : Nat → α) (n off k : Nat) (h : off + k ≤ n) :
    (((List.range n).map f).drop off).take k = (List.range k).map (fun i => f (off + i)) :=
  List.ext_getElem (by simp; omega) (by simp)
theorem keyCall_bytes (d : Map Byte) : callBytes (keyCall d) = (List.range 1600).map (fun i => Map.get 0 d (0 + i)) := rfl
theorem keyCall_zeros (c0 c1 c2 c3 c4 c5 c6 c7 c8 c9 c10 c11 c12 c13 c14 c15 : Byte) :
    ((callBytes (keyCall (keyData c0 c1 c2 c3 c4 c5 c6 c7 c8 c9 c10 c11 c12 c13 c14 c15))).drop 8).take 1568 = zeros 1568 := by
  rw [keyCall_bytes, range_slice _ _ _ _ (by decide)]
  refine List.eq_replicate_iff.mpr ⟨by simp, fun b hb => ?_⟩
  obtain ⟨k, hk, rfl⟩ := List.mem_map.mp hb
  rw [List.mem_range] at hk
  simp only [keyData, Map.get, Map.find]
  repeat rw [if_neg (by omega)]
  rfl
theorem keyBytes_call (c0 c1 c2 c3 c4 c5 c6 c7 c8 c9 c10 c11 c12 c13 c14 c15 : Byte) :
    let s := keyCall (keyData c0 c1 c2 c3 c4 c5 c6 c7 c8 c9 c10 c11 c12 c13 c14 c15)
    s.lidCall 1 3 = some (callBytes s) ∧ natAt (callBytes s) 0 2 = 1023 ∧ zeroAt (callBytes s) 2 6 = true ∧ s.maySlot 1 1023 = true ∧ s.keys = [] ∧
    ((callBytes s).drop 1576).take 16 = [c0, c1, c2, c3, c4, c5, c6, c7, c8, c9, c10, c11, c12, c13, c14, c15] := by
  refine ⟨rfl, ?_, ?_, ?_, rfl, ?_⟩
  · rw [natAt, keyCall_bytes, range_slice _ _ _ _ (by decide)]; rfl
  · rw [zeroAt, natAt, keyCall_bytes, range_slice _ _ _ _ (by decide)]; rfl
  · have h : (calling 3 []).maySlot 1 1023 = true := by decide +kernel
    exact h
  · rw [keyCall_bytes, range_slice _ _ _ _ (by decide)]; rfl
theorem sixteen (l : List Byte) (h : l.length = 16) : ∃ c0 c1 c2 c3 c4 c5 c6 c7 c8 c9 c10 c11 c12 c13 c14 c15, l = [c0, c1, c2, c3, c4, c5, c6, c7, c8, c9, c10, c11, c12, c13, c14, c15] := by
  match l, h with
  | [c0, c1, c2, c3, c4, c5, c6, c7, c8, c9, c10, c11, c12, c13, c14, c15], _ => exact ⟨c0, c1, c2, c3, c4, c5, c6, c7, c8, c9, c10, c11, c12, c13, c14, c15, rfl⟩
theorem keyCheck_length (key : List Byte) : (keyCheck key).length = 16 := by
  have h : shake256 (key ++ asciiBytes "PK4 key check") 16 = (shake256 (key ++ asciiBytes "PK4 key check") 32).take 16 := by
    simp [shake256, ceilDiv, List.take_take]
  rw [keyCheck, h, List.length_take, shake256_length]; decide
/-- A check value that holds, and one that does not, for any decapsulation. -/
theorem witness_Lid_keyload (good : Bool) : ∃ d, let s := keyCall d
    s.lidCall 1 3 = some (callBytes s) ∧ 1 ≤ natAt (callBytes s) 0 2 ∧ natAt (callBytes s) 0 2 < 1024 ∧ zeroAt (callBytes s) 2 6 = true ∧ s.maySlot 1 (natAt (callBytes s) 0 2) = true ∧
    Map.find s.keys (natAt (callBytes s) 0 2) = none ∧
    (keyCheck (slotKey (Config.kemDecapsulate (((callBytes s).drop 8).take 1568)) (natAt (callBytes s) 0 2)) = ((callBytes s).drop 1576).take 16 ↔ good = true) := by
  obtain ⟨c0, c1, c2, c3, c4, c5, c6, c7, c8, c9, c10, c11, c12, c13, c14, c15, h⟩ := sixteen _ (keyCheck_length (slotKey (Config.kemDecapsulate (zeros 1568)) 1023))
  refine ⟨keyData (if good then c0 else c0 + 1) c1 c2 c3 c4 c5 c6 c7 c8 c9 c10 c11 c12 c13 c14 c15, ?_⟩
  obtain ⟨h0, h1, h2, h3, h4, h6⟩ := keyBytes_call (if good then c0 else c0 + 1) c1 c2 c3 c4 c5 c6 c7 c8 c9 c10 c11 c12 c13 c14 c15
  simp only [h0, h1, h2, h3, h4, keyCall_zeros, h6, h, Map.find]
  cases good
  · simp
  · simp
/-- Slot 5 is named by a frame, slot 0 by the control blocks, and slot 9 by nothing. -/
theorem witness_Lid_keyclr : ∀ k ∈ [5, 9], let s := calling 4 (bytesOf 2 k)
    natAt (callBytes s) 0 2 = k ∧ s.maySlot 1 k = true ∧ s.blockNames k = false ∧ (s.frameNames k = true ↔ k = 5) ∧ s.sweeps = [] := by decide +kernel
theorem witness_Lid_frames : let s := calling 5 (bytesOf 8 1 ++ bytesOf 8 1 ++ bytesOf 8 1023)
    let a := callBytes s
    natAt a 0 8 = 1 ∧ natAt a 8 8 = 1 ∧ natAt a 16 2 = 1023 ∧ s.framesExist 1 1 = true ∧ s.maySlot 1 1023 = true ∧ s.mayFrame 1 1 = true ∧ s.foreignFrame 1 1 = false ∧
    s.sweeping 1 1 = false ∧ Map.get 0 s.frameKeys 1 = 5 ∧ (∀ d ∈ framesDies 1 1, s.sweepsOn d < 16) ∧
    (Map.find ({ s with keys := [(5, 0)] } : State).keys 5).isSome = true := by decide +kernel
/-- A sweep one line before its end. -/
def sweepOne : Sweep := { die := 0, first := 1, count := 1, oldSlot := 5, newSlot := 9, sp := 2 ^ 22 - 64 }
theorem witness_Lid_sweep : let s : State := { calling 6 (bytesOf 8 1) with sweeps := [sweepOne], keys := [(5, 0)] }
    natAt (callBytes s) 8 8 = 0 ∧ s.sweeps.find? (fun w => decide (w.first ≤ natAt (callBytes s) 0 8) && decide (natAt (callBytes s) 0 8 < w.first + w.count)) = some sweepOne ∧
    s.mayFrame 1 1 = true ∧ s.sweeps[0]? = some sweepOne ∧ sweepOne.sp < (sweepOne.first + sweepOne.count) * 2 ^ 21 ∧ sweepOne.oldSlot ≠ 0 ∧
    (Map.find s.keys sweepOne.oldSlot).isSome = true := by decide +kernel

theorem test_ramp_cap : ran (.rampWindow 0 0 95) (busyDie 0) (fun t => (t.die 0).effCap) = some 60 ∧ ran (.rampWindow 0 0 94) (busyDie 0) (fun t => (t.die 0).effCap) = some 64 ∧
    ran (.rampWindow 0 0 100) (busyDie 0) (fun t => (t.die 0).effCap) = some 52 ∧
    [48, 64].map (fun c => ({ Die.blank with cap := c, effCap := 56 } : Die).nextCap 0) = [48, 64] := by decide +kernel
theorem test_age : ran (.ageExpiry 4095) (aged 30) (fun t => (t.mc 4095).level) = some 31 ∧ ran (.ageExpiry 4095) { aged 30 with cyc := 1999999 } (fun t => (t.mc 4095).level) = some 30 := by
  decide +kernel
theorem test_ring : ran (.ringWrite 0) (busyDie 0) (fun t => ((Map.find t.rings 0).map (·.produced), Memory.byte t.mem (2 ^ 55))) = some (some 1, 1) := by decide +kernel

/-- The commands of `completing 0`, whose destinations are made distinct, and lie in keyed lines. -/
def outcomeMember (team id dst : Nat) : Command :=
  { member team 0 id with bytes := ([1, 0, 0, 0] : List Byte) ++ bytesOf 4 1 ++ bytesOf 8 0x400000 ++ bytesOf 8 dst ++ bytesOf 8 255 ++ bytesOf 8 77 ++ zeros 24 }
theorem witness_CollectiveOutcome : let s : State := { fleet with groups := [(255, pair)], commands := [outcomeMember 0 5 0x400100, outcomeMember 1 6 0x400200] }
    let cs : List Command := [outcomeMember 0 5 0x400100, outcomeMember 1 6 0x400200]
    (pair.rank < 256 ∧ (∀ m ∈ pair.ranked, (s.memberCommand pair 255 3 m).isSome = true) ∧ pair.ranked.filterMap (s.memberCommand pair 255 3) = cs ∧ mismatched cs = false) ∧
    (∀ x ∈ cs, s.commandRange x .load (collSrc x.bytes) (collSize x.bytes) = .ok [0x400000, 0x400001, 0x400002, 0x400003]) ∧
    (∀ x ∈ cs, s.commandRange x .store (collDst x.bytes) (collDstSize pair x.bytes) =
      .ok (if x.id = 5 then [0x400100, 0x400101, 0x400102, 0x400103] else [0x400200, 0x400201, 0x400202, 0x400203])) ∧
    s.keyed 0x400100 = true ∧ s.keyed 0x400200 = true := by decide +kernel
/-- Host-placed data alone before SEGCHK, and entries whose region is not in host memory. -/
theorem witness_Segment_untried : (let s : State := { fleet with segments := [(0, [{ seg3 with src := 1 }])] }
      (s.segmentsOn 0).find? (fun x => decide (x.frame = 3)) = some { seg3 with src := 1 } ∧ ({ seg3 with src := 1 } : Segment).asked = false ∧ bitOf 1 1 = false ∧
        bitOf 1 2 = false) ∧
    fleet.readHeld 1 ((liveRec.region 3).1) = false := by decide +kernel
/-- Nothing waits for the host link at a bind, a request's placement or a switch. -/
theorem witness_Bind_flows : waitingState.bindHeld waitingLaunch 0 = false ∧ LinkFlows waitingState 1 ∧
    LinkFlows { fleet with mcs := [(1, { placedMc with rqring := 0x420000 })] } 1 ∧ (sharedCell 5 5 id).cellHeld 0 = false ∧ bothWait.cellHeld 0 = false := by
  unfold LinkFlows; decide +kernel
/-- A cap that the temperature has lowered, and one that it has not. -/
theorem witness_Throttled : ((busyDie 0).die 0).throttled = true ∧ (fleet.die 0).throttled = false ∧ (fleet.die 0).up = true := by decide +kernel
/-- Two writes of function 16 to host memory that wait. -/
def drainState : State := { fleet with posted := [(16, [(hostAt 0x40, 7), (hostAt 0x41, 8)])] }
theorem witness_Ide_drain : drainState.posted = [(16, [(hostAt 0x40, 7), (hostAt 0x41, 8)])] ∧ ([hostAt 0x40, hostAt 0x41] : List Nat).Nodup ∧
    drainState.keyed (hostAt 0x40) = true ∧ drainState.keyed (hostAt 0x41) = true ∧ (drainState.ideStream 16).want.length = 3 ∧
    (∀ e ∈ drainState.posted, e.1 ≠ 15) := by decide +kernel

/-! ### Control commands, peers, starts and resets -/

/-- A command in CCMD while the module serves. -/
def control (c : List Byte) (s : State) : State := { s with cgo := true, ccmd := c }
theorem control_in {s : State} (c : List Byte) (h : s.serving = true) (u : s.ctlRuns = false) (f : (s.ideStream 0).stop.getD 0 false = false ∧ (s.ideStream 0).stop.getD 1 false = false) :
    CommandIn (control c s) (byteAt (control c s).command 0) (control c s).command := by
  refine ⟨h, rfl, u, ?_, rfl, rfl⟩
  have f0 : ((control c s).ideStream 0).stop.getD 0 false = false := f.1
  have f1 : ((control c s).ideStream 0).stop.getD 1 false = false := f.2
  simp only [State.controlHeld, f0, f1, Bool.and_false, Bool.or_false]
/-- Partition 0 enabled with every key slot, some bytes at bus address 0, and micro-context 4095. -/
def hosted (bs : List Byte) (m : MicroContext) : State :=
  { fleet with mem := Memory.write fleet.mem (2 ^ 55) bs, mcs := [(1, placedMc), (4095, m)]
               partitions := [(0, { Partition.blank with clusters := 2 ^ 64 - 1, enable := true, keyBase := 1, keyCount := 1023 })] }
theorem hosted_serves (bs : List Byte) (m : MicroContext) : (hosted bs m).serving = true ∧ (hosted bs m).ctlRuns = false ∧
    ((hosted bs m).ideStream 0).stop.getD 0 false = false ∧ ((hosted bs m).ideStream 0).stop.getD 1 false = false := ⟨rfl, rfl, rfl, rfl⟩
def image : List Byte := zeros 24 ++ [0xFF, 3] ++ zeros 230
theorem witness_ControlBlocks : let s := hosted image MicroContext.blank
    let c := ([1] ++ zeros 7 ++ bytesOf 2 4095 : List Byte)
    byteAt (control c s).command 0 = 1 ∧ natAt (control c s).command 8 2 < 4096 ∧ unused (control c s).command [(1, 7), (10, 6), (24, 32)] = true ∧
    (s.mc 4095).state = .invalid ∧ (s.mc 1).state ≠ .invalid ∧ (s.mc 1).state ≠ .idle ∧ s.imageBad (s.hostLoad 0 256) = false ∧ fleet.imageBad (fleet.hostLoad 0 256) = true := by
  decide +kernel
theorem witness_ControlBlocks_state : (∀ op ∈ [0, 1], ∀ m ∈ [{ MicroContext.blank with written := true }, { MicroContext.blank with state := .idle }],
      let s := control ([2] ++ zeros 7 ++ bytesOf 2 4095 ++ [BitVec.ofNat 8 op]) (hosted [] m)
      byteAt s.command 0 = 2 ∧ natAt s.command 8 2 < 4096 ∧ unused s.command [(1, 7), (11, 45)] = true ∧ byteAt s.command 10 = op ∧
      (s.partition (s.mc 4095).part).enable = true ∧ (s.mc 4095).ring = [] ∧ (s.mc 4095).waiting = [] ∧ (s.mc 4095).head = (s.mc 4095).tail ∧ (s.mc 4095).pend = false) := by
  decide +kernel
theorem witness_ControlBlocks_copy : ∀ dir ∈ [0, 1], let s := control ([3, BitVec.ofNat 8 dir] ++ zeros 6 ++ bytesOf 8 0 ++ bytesOf 8 (2 ^ 40 - 64) ++ bytesOf 8 64) fleet
    let c := s.command
    byteAt c 0 = 3 ∧ byteAt c 1 = dir ∧ unused c [(2, 6), (32, 24)] = true ∧ natAt c 24 8 = 64 ∧ natAt c 16 8 % 64 = 0 ∧ natAt c 16 8 + 64 ≤ 2 ^ 40 ∧
    ∀ i, i < 64 / 64 → s.reserved (natAt c 16 8 + 64 * i) = false ∧ s.protector (homeDie (natAt c 16 8 + 64 * i)) = none ∧ s.keyed (natAt c 16 8 + 64 * i) = true := by
  decide +kernel
/-- A stream record of micro-context 4095: entries of 16 bytes, one of each region. -/
def geometry : List Byte := bytesOf 2 4095 ++ zeros 38 ++ bytesOf 4 16 ++ bytesOf 4 16 ++ bytesOf 4 8 ++ bytesOf 4 8 ++ bytesOf 4 1 ++ bytesOf 4 1 ++ bytesOf 4 8 ++ bytesOf 4 1 ++ zeros 56
theorem witness_ControlBlocks_stream : let s := control ([4] ++ zeros 7 ++ bytesOf 2 4095) (hosted geometry MicroContext.blank)
    byteAt s.command 0 = 4 ∧ natAt s.command 8 2 < 4096 ∧ unused s.command [(1, 7), (10, 6), (24, 32)] = true ∧ natAt (s.hostLoad 0 128) 0 2 ≠ 0xFFFF ∧
    s.dieServes (s.mc (natAt (s.hostLoad 0 128) 0 2)).part (natAt s.command 8 2 / 1024) = true ∧
    someWith (streamConfig (s.hostLoad 0 128)) (fun r => s.atRest (s.srec 4095).owner && s.atRest r.owner) = true := by decide +kernel
theorem witness_ControlBlocks_others : (let c := (control [8, 7] fleet).command
      byteAt c 0 = 8 ∧ byteAt c 1 < 8 ∧ unused c [(4, 4), (14, 2), (32, 24)] = true) ∧
    (∀ k ∈ [0, 1, 2], let c := (control [0xB, BitVec.ofNat 8 k] fleet).command
      byteAt c 0 = 0xB ∧ byteAt c 1 = k ∧ unused c [(2, 6), (24, 32)] = true) ∧
    (∀ k ∈ [0, 1], ∀ n ∈ [4, 16], let c := (control ([0xC, 16, BitVec.ofNat 8 k] ++ zeros 13 ++ [BitVec.ofNat 8 n]) fleet).command
      byteAt c 0 = 0xC ∧ byteAt c 1 ≤ 16 ∧ byteAt c 2 = k ∧ byteAt c 16 = n ∧ unused c [(3, 5), (17, 39)] = true) := by decide +kernel

/-- The first frame of die 3. -/
def frame3 : Nat := 3 * 2 ^ 17
def segmentsOf (e : List Segment) (s : State) : State := { s with segments := [(3, e)] }
def registering : State := control [5, 3] (hosted (bytesOf 32 7 ++ bytesOf 4 frame3 ++ bytesOf 4 0 ++ [7, 1] ++ bytesOf 2 63 ++ zeros 4 ++ bytesOf 8 9 ++ zeros 8) MicroContext.blank)
theorem witness_ControlTables_register : let s := registering
    let c := s.command
    let d := s.hostLoad (natAt c 8 8) 64
    byteAt c 0 = 5 ∧ byteAt c 1 = 3 ∧ unused c [(2, 6), (16, 40)] = true ∧ natAt d 32 4 = frame3 ∧ frame3 < 2 ^ 19 ∧ homeDie (frame3 * 2 ^ 21) = 3 ∧
    s.reserved (frame3 * 2 ^ 21 + 2 ^ 21 - 1) = false ∧ byteAt d 40 < 8 ∧ byteAt d 41 < 2 ∧ natAt d 42 2 < 64 ∧ zeroAt d 44 4 = true ∧ zeroAt d 56 8 = true ∧
    Map.find s.residency frame3 = none ∧ natAt d 0 32 = 7 ∧ s.segmentIndex 3 7 = none ∧ (∀ e ∈ s.segmentsOn 3, e.frame ≠ frame3) ∧ s.frameTaken frame3 = false ∧
    s.sweeping frame3 1 = false ∧ (s.segmentsOn 3).length < 8192 ∧ (segmentsOf [{ seg3 with hash := 7, frame := frame3 }] s).segmentIndex 3 7 = some 0 := by decide +kernel
theorem witness_ControlTables_full : let s := segmentsOf (List.replicate 8192 seg3) registering
    s.segmentIndex 3 7 = none ∧ (∀ e ∈ s.segmentsOn 3, e.frame ≠ frame3) ∧ 8192 ≤ (s.segmentsOn 3).length := by
  have h : (segmentsOf (List.replicate 8192 seg3) registering).segmentsOn 3 = List.replicate 8192 seg3 := rfl
  refine ⟨?_, ?_, ?_⟩
  · rw [State.segmentIndex, h, List.findIdx?_eq_none_iff]
    intro x hx
    have e := List.eq_of_mem_replicate hx
    subst e; decide
  · rw [h]; intro e he
    have k := List.eq_of_mem_replicate he
    subst k; decide
  · have e := congrArg List.length h
    rw [List.length_replicate] at e; exact Nat.le_of_eq e.symm
/-- A registered segment, on which V of cell 0 is parked or not. -/
def releasing (op : Nat) (parked : Bool) : State :=
  let s := benchWith .v (fun l => if parked then { l with v := { l.v with waiting := some { on := .segment frame3, since := 0 } } } else l)
  control ([BitVec.ofNat 8 op, 3] ++ zeros 6 ++ bytesOf 8 frame3) { s with segments := [(3, [{ seg3 with frame := frame3 }])] }
theorem witness_ControlTables_release : ∀ op ∈ [6, 7], ∀ p ∈ [true, false], let s := releasing op p
    let c := s.command
    s.serving = true ∧ byteAt c 0 = op ∧ byteAt c 1 = 3 ∧ unused c [(2, 6), (16, 40)] = true ∧ natAt c 8 8 = frame3 ∧
    (s.segmentsOn 3).find? (fun e => decide (e.frame = frame3)) = some { seg3 with frame := frame3 } ∧ s.parkedOn frame3 = p ∧ Map.find s.residency frame3 = none ∧
    bitOf seg3.src 0 = true ∧ seg3.reading = none := by decide +kernel
theorem witness_ControlTables_peers : let s := control ([0x12, 0xFF] ++ bytesOf 2 4095) fleet
    let t : State := { control ([0x12, 63] ++ bytesOf 2 4095 ++ [0xFF, 1] ++ bytesOf 2 1023) fleet with keys := [(1023, 0)], peers := [(63, { Peer.blank with keySlot := 1023, epoch := 65534 })] }
    byteAt s.command 0 = 0x12 ∧ byteAt s.command 1 = 0xFF ∧ peercfgBad s.command = false ∧ (∀ e ∈ s.peers, e.2.enabled = false) ∧
    (∃ e ∈ ({ s with peers := [(63, { Peer.blank with enabled := true })] } : State).peers, e.2.enabled = true) ∧
    byteAt t.command 1 = 63 ∧ peercfgBad t.command = false ∧ byteAt t.command 5 = 1 ∧ natAt t.command 6 2 = 1023 ∧ t.slotReserved 1023 = true ∧
    (Map.find t.keys 1023).isSome = true ∧ natAt t.command 2 2 ≠ t.localIndex ∧ (∀ x ∈ t.peers, x.2.enabled = true → x.1 ≠ 63 → x.2.index ≠ natAt t.command 2 2) ∧
    (t.peer 63).enabled = false ∧ (t.peer 63).keySlot = 1023 ∧ (t.peer 63).epoch < 0xFFFF := by decide +kernel
/-- Verified images in the other bank of every kind on die 3, and the Ladles of every die running one. -/
def switching (kind : Nat) : State :=
  let f : Firmware := { a := FwImage.blank, b := { FwImage.blank with good := true }, selB := false, running := FwImage.blank }
  { control [0xE, 3, BitVec.ofNat 8 kind] fleet with firmware := [(1, f), (4, f), (7, f), (9, f), (10, f), (11, f)] }
theorem witness_ControlTables_firmware : (∀ kind ∈ [0, 1, 2], let s := switching kind
      byteAt s.command 0 = 0xE ∧ byteAt s.command 2 = kind ∧ s.switchStatus s.command = none) ∧
    (∀ d, d < 4 → ((switching 1).firmwareOf d 1).running.iface = ((switching 1).firmwareOf 3 1).other.iface) ∧ ((switching 1).die 3).up = true ∧
    (let s : State := { switching 1 with dies := [(0, { Die.blank with up := true }), (3, Die.blank)] };
      s.switchStatus s.command = none ∧ (s.die 3).up = false) ∧
    (let s := control ([0xD, 3, 2] ++ zeros 13 ++ bytesOf 8 4096) fleet;
      byteAt s.command 0 = 0xD ∧ byteAt s.command 1 < 4 ∧ byteAt s.command 2 < 3 ∧ unused s.command [(3, 5), (24, 32)] = true ∧ natAt s.command 16 8 = 4096 ∧
      s.dieInRung 3 = false) := by decide +kernel
theorem witness_ControlTables_recal : let s := control [0xF, 3, 3] fleet
    byteAt s.command 0 = 0xF ∧ byteAt s.command 1 < 4 ∧ byteAt s.command 2 < 4 ∧ unused s.command [(3, 53)] = true ∧ bitOf (s.die 3).fencedStacks 3 = false ∧
    (s.die 3).recal = none ∧ s.dieInRung 3 = false ∧ bitOf (({ s with dies := [(3, { Die.blank with up := true, fencedStacks := 8 })] } : State).die 3).fencedStacks 3 = true := by
  decide +kernel
/-- Micro-context 1 to move, with one frame, to a peer that is UP. -/
def migrating (up : Bool) : State :=
  { control ([0x10] ++ zeros 7 ++ bytesOf 2 1 ++ bytesOf 2 63 ++ bytesOf 4 9 ++ bytesOf 8 0 ++ bytesOf 8 1) fleet with
    peers := [(63, { Peer.blank with enabled := true, state := if up then .up else .lost })] }
theorem witness_ControlTables_migrate : ∀ up ∈ [true, false], let s := migrating up
    let c := s.command
    byteAt c 0 = 0x10 ∧ s.migration = none ∧ natAt c 8 2 = 1 ∧ natAt c 10 2 = 63 ∧ natAt c 12 2 < 4096 ∧ natAt c 24 8 = 1 ∧ unused c [(1, 7), (14, 2), (32, 24)] = true ∧
    (s.mc 1).state ≠ .invalid ∧ (s.mc 1).state ≠ .drain ∧ (s.mc 1).job = some 2 ∧ (Map.find s.jobs 2).any (fun j => j.everBound) = true ∧ ((s.peer 63).state = .up ↔ up = true) ∧
    (∀ i, i < 1 → natAt (s.hostLoad (0 + 16 * i) 16) 0 8 < 2 ^ 19 ∧ Map.get 0 s.frameKeys (natAt (s.hostLoad (0 + 16 * i) 16) 0 8) = (s.mc 1).keySlot) ∧
    (let d := (control ([0x11] ++ zeros 7 ++ bytesOf 2 4095) fleet).command;
      byteAt d 0 = 0x11 ∧ natAt d 8 2 < 4096 ∧ unused d [(1, 7), (10, 46)] = true) := by decide +kernel

/-! Peers. -/

/-- A module with one peer, in entry 63. -/
def peered (e : Peer) : State :=
  { fleet with peers := [(63, { e with index := 7, ports := 1, udp := 5, enabled := true, keySlot := 5 })], ports := [(0, { udp := 1, mac := 0, ipv6 := 0 })], keys := [(5, 0)]
               cyc := 100000000 }
def upPeer : Peer := { Peer.blank with state := .up, epoch := 3 }
/-- A packet of the peer on a channel under a number. -/
def packetOf (chan seq : Nat) (plain : List Byte) : List Byte :=
  let head := [1, 0xF0] ++ bytesOf 2 (chan * 2 ^ 12 + 7) ++ bytesOf 8 seq ++ zeros 4
  head ++ gcmSeal (zeros 32) (packetNonce chan 7 seq) head plain
theorem witness_PeerTransport_receive : let s := peered upPeer
    (∀ chan ∈ [1, 5], let w := packetOf chan (3 * 2 ^ 48 + 256) [7]
      s.peerDatagram 0 (netFrameOf 5 5 w) = some (63, w) ∧ (s.peer 63).state = .up ∧ 32 ≤ w.length ∧ byteAt w 0 = 1 ∧ byteAt w 1 = 0xF0 ∧ zeroAt w 12 4 = true ∧
      natAt w 2 2 / 2 ^ 12 = chan ∧ natAt w 4 8 / 2 ^ 48 = (s.peer 63).epoch ∧
      gcmOpen (s.sealingKey (s.peer 63).keySlot) (packetNonce chan (natAt w 2 2 % 2 ^ 12) (natAt w 4 8)) (w.take 16) (w.drop 16) = some [7] ∧
      ((s.peer 63).chan chan).accepts (natAt w 4 8 % 2 ^ 48) = true) ∧ ((s.peer 63).chan 1).accepts 257 = false ∧
    (let w := packetOf 1 (3 * 2 ^ 48 + 1) [7] ++ [0];
      s.peerDatagram 0 (netFrameOf 5 5 w) = some (63, w) ∧
      gcmOpen (s.sealingKey (s.peer 63).keySlot) (packetNonce 1 7 (natAt w 4 8)) (w.take 16) (w.drop 16) = none) ∧
    natAt (packetOf 1 (2 * 2 ^ 48 + 1) [7]) 4 8 / 2 ^ 48 ≠ (s.peer 63).epoch ∧
    s.peerDatagram 0 (netFrameOf 5 6 (packetOf 1 1 [7])) = none := by decide +kernel
theorem witness_PeerTransport_control : (∀ k ∈ [1, 2], let s := peered { Peer.blank with state := .hello, ctl := [[BitVec.ofNat 8 k]] }
      (s.peer 63).ctl = [BitVec.ofNat 8 k] :: [] ∧ byteAt [BitVec.ofNat 8 k] 0 = k ∧ (s.peer 63).state = .hello) ∧
    (let s := peered { upPeer with ctl := [[2]] };
      (s.peer 63).state = .up ∧ (s.peer 63).ctl = [2] :: []) := by decide +kernel
theorem witness_PeerTransport_waiting : ∀ c, (((peered upPeer).peer 63).chan c).waiting = [] := fun _ => rfl
theorem witness_PeerTransport_loss : (peered upPeer).peerSilent 63 = true ∧ (peered { upPeer with heardAt := 1 }).peerSilent 63 = false ∧
    (∀ at_ ∈ [99000000, 99000001], let s := peered { upPeer with state := .lost, lostAt := at_ }
      (s.peer 63).state = .lost ∧ (s.peer 63).enabled = true ∧ (s.peer 63).epoch < 0xFFFF ∧ (s.cyc < (s.peer 63).lostAt + 1000000 ↔ at_ = 99000001)) := by decide +kernel

/-- One message of a type, with an MTAG and a body, before it is taken. -/
def messageOf (mtype mtag : Nat) (body : List Byte) : List Byte := bytesOf 2 mtype ++ zeros 6 ++ bytesOf 8 mtag ++ body
def talking (mtype mtag : Nat) (body : List Byte) : State :=
  peered { upPeer with chans := [(mtype / 256, { Channel.blank with inbox := [messageOf mtype mtag body] })] }
theorem witness_messageWaits (mtype mtag : Nat) (body : List Byte) (h : mtype < 2 ^ 16) :
    messageWaits (talking mtype mtag body) 63 mtype (messageOf mtype mtag body) [] ∧ (messageOf mtype mtag body).drop 16 = body := by
  refine ⟨⟨?_, ?_⟩, rfl⟩
  · simp [talking, peered, State.peer, Peer.chan, Map.get]
  · show natOf (bytesOf 2 mtype) = mtype
    have e : mtype % 256 + 256 * (mtype / 256 % 256 + 256 * 0) = mtype := by omega
    simp [bytesOf, natOf]; omega
def shared : Group := { pair with peers := [{ rank := 1, peer := 63, count := 1 }] }
theorem witness_PeerMessages_contrib : let b := [255, 1, 0, 0, 0, 0, 0, 0] ++ bytesOf 8 3 ++ bytesOf 4 1 ++ bytesOf 4 1 ++ zeros 4
    let s : State := { talking 0x0101 0 b with groups := [(255, shared)] }
    Map.find s.groups (byteAt b 0) = some shared ∧ ∃ x ∈ shared.peers, x.peer = 63 ∧ x.rank = natAt b 20 4 := by decide +kernel
theorem witness_PeerMessages_segments : let b := bytesOf 32 9
    let s : State := { talking 0x0201 0 b with segments := [(3, [{ seg3 with hash := 9, frame := frame3 }])], residency := [(frame3, .resident)] }
    let e : Segment := { seg3 with hash := 9, reading := some 2, peer := 63, src := 4 }
    s.residentSegment (natAt b 0 32) = some frame3 ∧ (talking 0x0201 0 b).residentSegment (natAt b 0 32) = none ∧
    ({ talking 0x0203 0 b with segments := [(0, [e])] } : State).asking 63 (natAt b 0 32) = some (0, e) := by decide +kernel
theorem natOf_lt (l : List Byte) : natOf l < 256 ^ l.length := by
  induction l with
  | nil => decide
  | cons b t ih => have := b.isLt; simp only [natOf, List.length_cons, Nat.pow_succ]; omega
theorem segdata_of (data : List Byte) : ∃ (b : List Byte) (e : Segment),
    ({ talking 0x0202 0 b with segments := [(0, [e])] } : State).asking 63 (natAt b 0 32) = some (0, e) ∧ b.drop 32 = data ∧ shake256 (b.drop 32) 32 = bytesOf 32 e.hash := by
  have l : (shake256 data 32).length = 32 := shake256_length _
  have d : (shake256 data 32 ++ data).drop 32 = data := List.drop_left' l
  have n : natAt (shake256 data 32 ++ data) 0 32 = natOf (shake256 data 32) := by rw [natAt, List.drop_zero, List.take_left' l]
  refine ⟨shake256 data 32 ++ data, { seg3 with hash := natOf (shake256 data 32), reading := some 2, peer := 63, src := 4 }, ?_, d, ?_⟩
  · rw [n]; simp [State.asking, State.segmentsOn, Map.get, Map.find, List.range, List.range.loop]
  · rw [d]; exact shake256_number _
theorem witness_PeerMessages_segdata : ∃ (b : List Byte) (e : Segment), ({ talking 0x0202 0 b with segments := [(0, [e])] } : State).asking 63 (natAt b 0 32) = some (0, e) ∧
    (b.drop 32).length = 2 ^ 21 ∧ shake256 (b.drop 32) 32 = bytesOf 32 e.hash := by
  obtain ⟨b, e, h1, h2, h3⟩ := segdata_of frameData
  exact ⟨b, e, h1, by rw [h2]; exact List.length_replicate .., h3⟩
theorem witness_PeerMessages_queue : let s : State := { talking 0x0301 0 (bytesOf 2 1) with mcs := [(1, { placedMc with qsrc := 2 })] }
    natAt (bytesOf 2 1) 0 2 = 1 ∧ s.closed 1 = false ∧ (s.mc 1).qsrc = 2 := by decide +kernel
def migration1 : Migration := { handle := 1, peer := 63, phandle := 9, frames := [], step := 1 }
def keyOffer : List Byte := bytesOf 8 1 ++ bytesOf 8 9 ++ bytesOf 8 1023 ++ bytesOf 8 0 ++ zeros 32
def destination (i : Option Incoming) (mtype : Nat) (body : List Byte) : State :=
  { talking mtype 1 body with partitions := [(0, { Partition.blank with clusters := 2 ^ 64 - 1, enable := true, keyBase := 1, keyCount := 1023 })], incoming := i.toList }
theorem witness_PeerMessages_mkey : ({ talking 0x0401 1 [] with migration := some migration1 } : State).migrationAt 63 1 1 = some migration1 ∧
    ({ talking 0x0405 1 [] with migration := some { migration1 with step := 2 } } : State).migrationAt 63 1 2 = some { migration1 with step := 2 } ∧
    ((destination none 0x0401 keyOffer).takeMkey 63 keyOffer).isSome = true ∧ (talking 0x0401 1 keyOffer).takeMkey 63 keyOffer = none := by decide +kernel
def arriving (block : Option MicroContext) : Incoming :=
  { peer := 63, source := 1, handle := 9, keySlot := 1023, frames := [], streams := [], block := block, window := none, ringBytes := [] }
def streamPart : List Byte := bytesOf 8 4095 ++ zeros 300
theorem witness_PeerMessages_parts : ((destination (some (arriving none)) 0x0402 (zeros 400)).takeMcb (arriving none) (zeros 400)).isSome = true ∧
    ((destination (some (arriving none)) 0x0404 streamPart).takeMstream (arriving none) streamPart).isSome = true ∧
    ((destination (some (arriving (some MicroContext.blank))) 0x0405 [0]).takeMdone (arriving (some MicroContext.blank))).isSome = true ∧
    (destination (some (arriving none)) 0x0403 []).takeMframe (arriving none) [] = none := by decide +kernel
/-- A copy on its way: what the source sends of a micro-context with one request in its ring, and of a stream record. -/
def movingMc : MicroContext :=
  { placedMc with windows := [(1, 2), (0, 0), (0, 0), (0, 0)], ring := [15], job := none
                  waiting := [{ id := 7, source := .request 15, lrec := 64, param := 1, deadline := some 9, route := 2, port := 7, seq := 3, at_ := 0, parked := false }] }
def movingWindow : Option Replay := some { high := 5, seen := 3 }
def movingWords : List Nat :=
  [(State.reset.blockWords movingMc).length, 0, 0, 0] ++ replayWords movingWindow ++ State.reset.blockWords movingMc
def movingRec : StreamRec :=
  { StreamRec.blank with owner := 1, regions := [(1, 8, 2), (0, 0, 0), (0, 0, 0), (0, 0, 0)], queue := [{ play := 1, kind := 2, len := 3, buf := 4 }]
                         delivery := [{ token := 5, pos := 6, tag := none, prov := true, sent := false }], held := some 0, ckpts := [1], notices := [2] }
theorem witness_MigrationArrives_mkey : let s := destination none 0x0401 keyOffer
    keyOffer ≠ [] ∧ s.incomingFrom 63 = none ∧ natAt keyOffer 8 8 < 4096 ∧ s.incoming = [] ∧ (s.mc (natAt keyOffer 8 8)).state = .invalid ∧
    (s.slotOwner (natAt keyOffer 16 8)).isSome = true ∧ Map.find s.keys (natAt keyOffer 16 8) = none ∧ s.blockNames (natAt keyOffer 16 8) = false ∧
    s.frameNames (natAt keyOffer 16 8) = false ∧ s.streams = [] := by decide +kernel
theorem witness_MigrationArrives_mcb : let s := destination (some (arriving none)) 0x0402 (wordsBytes movingWords)
    s.incomingFrom 63 = some (arriving none) ∧ (s.partition ((s.slotOwner 1023).getD 0)).prot = false ∧ movingMc.windows.length = 4 ∧
    (∀ x ∈ movingWords, x < 2 ^ 64) := by decide +kernel
theorem witness_MigrationArrives_mstream : let s := destination (some (arriving none)) 0x0404 []
    (s.srec 4095).owner = 0xFFFF ∧ movingRec.regions.length = 4 ∧ (∀ x ∈ 4095 :: replayWords none ++ movingRec.words, x < 2 ^ 64) := by decide +kernel
theorem witness_MigrationArrives_mdone : let s := destination (some (arriving (some MicroContext.blank))) 0x0405 [0]
    s.incomingFrom 63 = some (arriving (some MicroContext.blank)) ∧ (s.partition MicroContext.blank.part).prot = false ∧ (arriving none).handle < 4096 ∧
    MicroContext.blank.waiting = [] ∧ MicroContext.blank.job = none ∧ ∀ e ∈ s.launches, e.2.mc ≠ 9 := by decide +kernel
/-- What the source sends of a stream record and of a block makes the same record and block at the destination (R450). -/
theorem test_migrated_record : wordsStream 9 movingRec.words = { movingRec with owner := 9 } := by decide +kernel
theorem test_migrated_block : let ws := State.reset.blockWords movingMc
    let m := (State.reset.wordsBlock 0 (bytesWords (wordsBytes ws))).1
    m.windows = movingMc.windows ∧ m.ring = [15] ∧ m.root = movingMc.root ∧ (m.waiting.map (fun p => (p.source, p.lrec, p.deadline, p.seq))) = [(.request 15, 64, some 9, 3)] := by
  decide +kernel
theorem ite_some {α : Type} {p : Prop} [Decidable p] {x : α} (h : ¬p) : (if p then none else some x) ≠ none := by rw [if_neg h]; exact Option.some_ne_none _
theorem frame_taken (data : List Byte) (h : data.length = 2 ^ 21) : let b : List Byte := bytesOf 8 1 ++ bytesOf 8 1 ++ data
    ∃ r, (destination (some (arriving none)) 0x0403 b).takeMframe (arriving none) b = some r := by
  intro b
  have hl : b.length = 2 ^ 21 + 16 := by simp [b, h, bytesOf]
  have hf : natAt b 8 8 = 1 := by
    rw [natAt, show b.drop 8 = bytesOf 8 1 ++ data from rfl, show (bytesOf 8 1 ++ data).take 8 = bytesOf 8 1 from rfl]; decide
  clear_value b
  have hr : (destination (some (arriving none)) 0x0403 []).reserved (1 * 2 ^ 21 + 2 ^ 21 - 1) = false := by decide +kernel
  have hp : (destination (some (arriving none)) 0x0403 []).protector (homeDie (1 * 2 ^ 21)) = none := by decide +kernel
  have ho : (destination (some (arriving none)) 0x0403 []).slotOwner 1023 = some 0 := by decide +kernel
  have hq : (destination (some (arriving none)) 0x0403 []).isProtected 0 = false := by decide +kernel
  have hg : (destination (some (arriving none)) 0x0403 []).foreignFrame 1 1 = false := by decide +kernel
  have hs : (destination (some (arriving none)) 0x0403 []).sweeping 1 1 = false := by decide +kernel
  suffices n : (destination (some (arriving none)) 0x0403 b).takeMframe (arriving none) b ≠ none from Option.ne_none_iff_exists'.mp n
  unfold State.takeMframe
  refine ite_some (fun c => ?_)
  rw [hf] at c
  rcases c with c | c | c | c | c | c
  · exact c hl
  · exact absurd c (by decide)
  · exact Bool.noConfusion (hr.symm.trans c)
  · change (!(match (destination (some (arriving none)) 0x0403 []).protector (homeDie (1 * 2 ^ 21)) with
      | some q => decide (q = ((destination (some (arriving none)) 0x0403 []).slotOwner 1023).getD 0)
      | none => !(destination (some (arriving none)) 0x0403 []).isProtected (((destination (some (arriving none)) 0x0403 []).slotOwner 1023).getD 0))) = true at c
    rw [hp, ho] at c
    exact absurd c (by rw [show (some 0).getD 0 = 0 from rfl, hq]; decide)
  · change (destination (some (arriving none)) 0x0403 []).foreignFrame (((destination (some (arriving none)) 0x0403 []).slotOwner 1023).getD 0 + 1) 1 = true at c
    rw [ho] at c
    exact Bool.noConfusion (hg.symm.trans c)
  · exact Bool.noConfusion (hs.symm.trans c)
theorem witness_PeerMessages_frame : ∃ b r, (destination (some (arriving none)) 0x0403 b).takeMframe (arriving none) b = some r :=
  ⟨_, frame_taken frameData (List.length_replicate ..)⟩
theorem witness_PeerMessages_abort : ({ talking 0x04FF 1 [] with migration := some migration1 } : State).migrationAt 63 1 1 = some migration1 ∧
    (destination (some (arriving none)) 0x04FF []).migrationAt 63 1 1 = none ∧ (destination (some (arriving none)) 0x04FF []).migrationAt 63 1 2 = none := by decide +kernel
theorem witness_PeerMessages_forward : ∀ type ∈ [1, 3], let d := ([0, BitVec.ofNat 8 type] ++ bytesOf 2 5 : List Byte)
    let s : State := { talking 0x0501 1 (zeros 24 ++ d) with migrated := [(4096 * 63 + 5, 1)] }
    frameType d = type ∧ Map.find s.migrated (4096 * 63 + frameHandle d) = some 1 ∧ (s.mc 1).state ≠ .invalid := by decide +kernel

/-! Starts, resets and fences. -/

/-- Banks of good images on every die, but on die `bad`. -/
def goodBanks (bad : Nat) : Map Firmware :=
  (List.range 12).map (fun k =>
    let i : FwImage := { hash := 0, version := 1, iface := 1, good := decide (k / 3 ≠ bad) }
    (k, { a := i, b := FwImage.blank, selB := false, running := FwImage.blank }))
/-- A module in a start. -/
def starting (f : StartFaults) (bad : Nat) : State := { State.reset with phase := 1, starting := some f, firmware := goodBanks bad, drives := [(1, { block := 512, ready := false })] }
theorem witness_Starts_begin : State.reset.phase = 0 ∧ fleet.phase = 2 ∧ ({ fleet with phase := 3 } : State).phase = 3 := by decide +kernel
theorem witness_Starts_end : (∀ d, d < 4 → (starting noFaults 4).imagesGood d = true ∧ ((starting noFaults 4).die d).bad = false) ∧
    Map.find (starting noFaults 4).drives 1 = some { block := 512, ready := false } ∧ (starting noFaults 0).imagesGood 0 = false ∧
    (starting noFaults 3).imagesGood 0 = true ∧ (starting noFaults 3).imagesGood 3 = false ∧ 0 ∉ noFaults.dies ∧
    0 ∉ ({ dies := [3], links := [2], badStacks := [15] } : StartFaults).dies := by decide +kernel
theorem witness_Starts_firmware : fleet.phase = 2 ∧ (fleet.die (dieOf 543)).up = true ∧ (fleet.slot { cell := 543, h1 := true }).bound = none := by decide +kernel
theorem fleet_asks_nothing : noResetAsked fleet := by
  intro rung target
  have h : fleet.cgo = false := rfl
  simp [State.resetAsked, h]
def rungOf (n since : Nat) : Rung := { rung := n, target := 0, since := since, jobs := [2], handles := [1], invalid := [], lost := [], reply := false }
theorem witness_Resets : fleet.phase = 2 ∧ fleet.rungs = [] ∧
    (let s : State := { fleet with mcs := [(4095, { placedMc with job := none, state := .idle })], launches := [] };
      (s.mc 4095).job = none ∧ (s.mc 4095).state ≠ .invalid ∧ (s.mc 4095).waiting = [] ∧ (s.mc 4095).head = (s.mc 4095).tail ∧ s.migration = none ∧
      ∀ e ∈ s.launches, e.2.mc ≠ 4095) ∧
    (∀ n ∈ [0, 1, 2, 3], ∀ since ∈ [0, 1], let s : State := { fleet with rungs := [rungOf n since], cyc := rungLimit n }
      s.rungs[0]? = some (rungOf n since) ∧ (rungOf n since).rung < 4 ∧ (∃ j ∈ (rungOf n since).jobs, Map.find s.jobs j ≠ none) ∧
      ((rungOf n since).since + rungLimit (rungOf n since).rung ≤ s.cyc ↔ since = 0)) := by decide +kernel
theorem witness_Fences : bitOf (fleet.die 3).fencedClusters 15 = false ∧ fleet.fenceAsked 0 3 15 = false ∧ bitOf (fleet.die 3).fencedStacks 3 = false ∧
    fleet.fenceAsked 1 3 3 = false ∧ (∀ e ∈ fleet.mcs, fleet.privateOn e.1 3 = false) ∧ fleet.sweeps = [] := by decide +kernel

theorem test_recal : ran .recal (control [0xF, 3, 2] fleet) (fun t => (t.die 3).recal) = some (some { stack := 2, slices := 0, last := 0 }) := by decide +kernel
theorem test_rings : ran .ringsError (control ([0xC, 16, 1] ++ zeros 5 ++ bytesOf 8 0x1000 ++ [4]) fleet) (fun t => (Map.find t.rings 33, t.cgo)) =
    some (some { base := 0x1000, log2n := 4, produced := 0 }, false) := by decide +kernel
theorem test_peer_lost : ran (.peerLoss 63) (peered upPeer) (fun t => (t.peer 63).state) = some .lost := by decide +kernel
theorem test_fence : ran (.fenceCluster 3 15) fleet (fun t => (t.die 3).fencedClusters) = some 0x8000 := by decide +kernel
/-- A cold start in which die 3 fails: the step that begins it, and the one that ends it. -/
theorem test_cold_start : (((after (exec (.coldStart { dies := [3], links := [], badStacks := [] }) State.reset)).map (fun t => t.phase)) = some 1) ∧
    (((after (exec (.coldStart { dies := [3], links := [], badStacks := [] }) { State.reset with firmware := goodBanks 4 })).map (fun t =>
      let e := t.endStart noFaults []
      ((e.die 3).up, (e.die 2).up, e.phase))) = some (false, true, 2)) := by decide +kernel

/-- A block that fits its partition, and one whose partition has become protected without a tree for its root. -/
theorem witness_ControlBlocks_fits : let s := control ([2] ++ zeros 7 ++ bytesOf 2 4095 ++ [1]) (hosted [] { MicroContext.blank with written := true, keySlot := 5 })
    let t : State := { s with mcs := [(4095, { MicroContext.blank with written := true, keySlot := 5, root := 0x1000 })]
                              partitions := [(0, { s.partition 0 with prot := true, dies := 15 })] }
    s.bodyFits 4095 = true ∧ t.bodyFits 4095 = false ∧ (t.mc 4095).state = .invalid ∧ (t.mc 4095).written = true := by decide +kernel
theorem witness_Starts_again : (starting noFaults 4).phase ≠ 0 ∧ (starting noFaults 4).phase = 1 := by decide +kernel
/-- An engine rung that has lasted its time, alone and beside the partition rung that it escalates to. -/
theorem witness_Escalation : let s : State := { fleet with rungs := [rungOf 2 0], cyc := 10000000 }
    let x := s.nextRung (rungOf 2 0)
    (s.rungs = [rungOf 2 0] ∧ (rungOf 2 0).rung < 4 ∧ (∃ j ∈ (rungOf 2 0).jobs, Map.find s.jobs j ≠ none) ∧ (rungOf 2 0).since + 10000000 ≤ s.cyc) ∧
    x.rung = 3 ∧ x.target = (({ s with rungs := [rungOf 2 0, { x with since := 9 }] } : State).nextRung (rungOf 2 0)).target := by decide +kernel
/-- An access of S in flight that an instruction names, and one that it does not. -/
theorem witness_Interlock : let s := benchWith .s (fun l => { l with sspans := [{ spans := [(0, 8, false)], awaited := some 1 }, { spans := [(64, 8, false)], awaited := some 2 }] })
    (bench .s).here.sspans = [] ∧ (bench .v).cur.stream ≠ .s ∧ (s.interlocked (.add plain 3 1 4)).here.sspans = [{ spans := [(64, 8, false)], awaited := some 2 }] := by
  decide +kernel

/-! ### The whole machine -/

theorem got_ok {x : Except DecodeTrap Instr} {i : Instr} (h : okWith x (fun j => decide (j = i)) = true) : x = .ok i := by
  obtain ⟨j, e, p⟩ := okWith_elim h
  rw [e, of_decide_eq_true p]
theorem witness_Step_inLine : let s := bench .s
    s.agenda = [] ∧ s.mayMove s.cur = true ∧ s.asyncDue s.cur.slot = false ∧ s.here.needsParams = false ∧ s.here.window = none ∧ s.me.entry = .inLine ∧
    decode (s.ctx s.cur) (s.me.line.wordsFrom (wordIndex s.me.pc)) = .ok (.nop plain) := by
  refine ⟨rfl, by decide +kernel, by decide +kernel, by decide +kernel, rfl, rfl, got_ok (by decide +kernel)⟩
theorem witness_Step_error : badLine.agenda = [] ∧ badLine.mayMove badLine.cur = true ∧ badLine.asyncDue badLine.cur.slot = false ∧ badLine.here.needsParams = false ∧ badLine.here.window = none ∧
    badLine.me.entry = .inLine ∧ (∃ e, decode (badLine.ctx badLine.cur) (badLine.me.line.wordsFrom (wordIndex badLine.me.pc)) = .error e) := by
  refine ⟨rfl, by decide +kernel, by decide +kernel, by decide +kernel, rfl, rfl, ?_⟩
  have h : Except.isOkay (decode (badLine.ctx badLine.cur) (badLine.me.line.wordsFrom (wordIndex badLine.me.pc))) = false := by decide +kernel
  cases e : decode (badLine.ctx badLine.cur) (badLine.me.line.wordsFrom (wordIndex badLine.me.pc)) with
  | ok i => rw [e] at h; cases h
  | error k => exact ⟨k, rfl⟩
/-- S about to enter the line at 0x400000, which memory holds. -/
def entering : State := benchWith .s (fun l => { l with s := { l.s with entry := .fresh, line := Line.none } })
theorem witness_Step_fresh : entering.agenda = [] ∧ entering.mayMove entering.cur = true ∧ entering.asyncDue entering.cur.slot = false ∧ entering.here.needsParams = false ∧ entering.here.window = none ∧
    entering.me.entry = .fresh ∧ entering.me.pc / 2 ^ 61 % 8 = 0 ∧ entering.me.pc % 4 = 0 ∧ 4 ≤ entering.me.pc % 64 ∧ entering.me.pc / 64 * 64 + 63 < 2 ^ 57 ∧
    ∃ k, entering.virtual entering.cur (entering.binding entering.cur.slot) .fetch (entering.me.pc / 64 * 64) (BitVec.ofNat 64 (entering.me.pc / 64 * 64)) = .ok k ∧
      let line : Line := { va := entering.me.pc / 64 * 64, data := BitVec.ofNat 512 (natOf (entering.load k 64)) }
      line.owner = entering.cur.stream.code ∧ wordIndex entering.me.pc < line.count ∧
      decode (entering.ctx entering.cur) (line.wordsFrom (wordIndex entering.me.pc)) = .ok (.nop plain) := by
  refine ⟨rfl, by decide +kernel, by decide +kernel, by decide +kernel, rfl, rfl, by decide +kernel, by decide +kernel, by decide +kernel, by decide +kernel, ?_⟩
  obtain ⟨k, h, p⟩ := okWith_elim
    (x := entering.virtual entering.cur (entering.binding entering.cur.slot) .fetch (entering.me.pc / 64 * 64) (BitVec.ofNat 64 (entering.me.pc / 64 * 64)))
    (p := fun k => decide (k = 0x400000)) (by decide +kernel)
  have e : k = 0x400000 := of_decide_eq_true p
  subst e
  exact ⟨_, h, by decide +kernel, by decide +kernel, got_ok (by decide +kernel)⟩
theorem witness_Step_others : (let s : State := { bench .s with agenda := [.issue { slot := placedSlot, stream := .v }] }
      s.agenda = [.issue { slot := placedSlot, stream := .v }]) ∧ (Instr.yieldTimeout 0).hdr = none ∧ eventSlot (.yieldTimeout 0) = none ∧
    (signalled true false).mayMove (signalled true false).cur = true ∧ (signalled true false).asyncDue (signalled true false).cur.slot = true ∧
    (∀ u, eventSlot (.vResultLand placedSlot) = some u → flying.asyncDue u = false) ∧ State.reset.mayMove State.reset.cur = false := by decide +kernel
theorem witness_Codec : WellFormed userS (.add wide 63 1 0) = true ∧ (Instr.add wide 63 1 0).hdr ≠ none ∧
    WellFormed userS (.add { wide with guard := 47, sense := true, wait := some .x, post := some .v } 63 1 0) = true := by decide +kernel
theorem witness_Canonical : Memory.wf State.reset.mem = true ∧ Memory.wf (bench .s).mem = true ∧ (∃ t, step (bench .s) = .next t) := by
  refine ⟨by decide +kernel, by decide +kernel, ?_⟩
  have h : (after (step (bench .s))).isSome = true := by decide +kernel
  cases e : step (bench .s) with
  | next t => exact ⟨t, rfl⟩
  | fault f => rw [e] at h; cases h
  | refused r => rw [e] at h; cases h
theorem test_step : (after (step (bench .s))).map (fun t => t.me.pc) = some 0x400008 ∧ (after (step entering)).map (fun t => t.me.pc) = some 0x400008 := by decide +kernel
theorem test_tick : (after (step { bench .s with agenda := [.tick 7] })).map (fun t => (t.cyc, t.agenda.length)) = some (7, 0) := by decide +kernel

end Sys2Proof.Tests
end

section
/-! PROOFS. Integer, logic and shift instructions (R158 to R161): an instruction of two operands answers its operation on their values in
every stream, and each operation of the model is the arithmetic that the rules give it. -/

namespace Sys2Proof.Machine

/-! ### Instructions of two operands -/

/-- An operation on two registers that issues writes its value on their contents, in every stream. -/
theorem resultG_runBinary {h : Hdr} {s : State} (i : Issues h s) (d a b : Nat) (f : Word → Word → Word) {v : Word}
    (hv : f ((landed s).rg a) ((landed s).rg b) = v) : ResultG (runBinary h d a b f s) h s d v :=
  result_writeG i d v _ (by simp only [State.popToken_rg, hv])

/-- An operation on a register and an immediate that issues writes its value on them, in every stream. -/
theorem resultG_runImm {h : Hdr} {s : State} (i : Issues h s) (d a : Nat) (imm : Word) (f : Word → Word → Word) {v : Word}
    (hv : f ((landed s).rg a) imm = v) : ResultG (runImm h d a imm f s) h s d v :=
  result_writeG i d v _ (by simp only [State.popToken_rg, hv])

/-! ### Division and remainder (R159) -/

theorem divSigned_of_eq_zero (x : Word) {y : Word} (hy : y = 0) : divSigned x y = BitVec.allOnes 64 := if_pos hy
theorem divUnsigned_of_eq_zero (x : Word) {y : Word} (hy : y = 0) : divUnsigned x y = BitVec.allOnes 64 := if_pos hy
theorem remSigned_of_eq_zero (x : Word) {y : Word} (hy : y = 0) : remSigned x y = x := if_pos hy
theorem remUnsigned_of_eq_zero (x : Word) {y : Word} (hy : y = 0) : remUnsigned x y = x := if_pos hy

theorem divSigned_of_ne_zero (x : Word) {y : Word} (hy : y ≠ 0) : divSigned x y = BitVec.ofInt 64 (x.toInt.tdiv y.toInt) := if_neg hy
theorem divUnsigned_of_ne_zero (x : Word) {y : Word} (hy : y ≠ 0) : divUnsigned x y = BitVec.ofNat 64 (x.toNat / y.toNat) := if_neg hy

/-- The signed remainder is what the quotient, rounded toward zero, leaves of the dividend. -/
theorem remSigned_of_ne_zero (x : Word) {y : Word} (hy : y ≠ 0) :
    remSigned x y = BitVec.ofInt 64 (x.toInt - x.toInt.tdiv y.toInt * y.toInt) := by
  rw [remSigned, if_neg hy, wordOf, Int.tmod_def, mul_comm]

theorem remUnsigned_of_ne_zero (x : Word) {y : Word} (hy : y ≠ 0) :
    remUnsigned x y = BitVec.ofNat 64 (x.toNat - x.toNat / y.toNat * y.toNat) := by
  rw [remUnsigned, if_neg hy, Nat.mod_eq_sub_div_mul]

/-- The one quotient that does not fit: 2^63 wraps to −2^63. -/
theorem divSigned_intMin_allOnes : divSigned (BitVec.intMin 64) (BitVec.allOnes 64) = BitVec.intMin 64 := by decide
theorem remSigned_intMin_allOnes : remSigned (BitVec.intMin 64) (BitVec.allOnes 64) = 0 := by decide

/-! ### Shifts by the whole amount (R161) -/

theorem shiftLeft_eq_ofNat (x n : Word) : shiftLeft x n = BitVec.ofNat 64 (x.toNat * 2 ^ n.toNat) := by
  have hshl : shiftLeft x n = x <<< n.toNat := by
    unfold shiftLeft
    split_ifs with hn
    · rfl
    · exact (BitVec.shiftLeft_eq_zero (by omega)).symm
  apply BitVec.eq_of_toNat_eq
  rw [hshl, BitVec.toNat_shiftLeft, BitVec.toNat_ofNat, Nat.shiftLeft_eq]

theorem shiftRight_eq_ofNat (x n : Word) : shiftRight x n = BitVec.ofNat 64 (x.toNat / 2 ^ n.toNat) := by
  have hshr : shiftRight x n = x >>> n.toNat := by
    unfold shiftRight
    split_ifs with hn
    · rfl
    · exact (BitVec.ushiftRight_eq_zero (by omega)).symm
  rw [hshr, ← Nat.shiftRight_eq_div_pow, ← BitVec.toNat_ushiftRight, BitVec.ofNat_toNat, BitVec.setWidth_eq]

/-- Once the divisor 2^k exceeds a number's magnitude, a quotient that rounds down no longer changes with k. -/
theorem ediv_two_pow_min {i : Int} {m : Nat} (hlo : -2 ^ m ≤ i) (hhi : i < 2 ^ m) (k : Nat) : i / 2 ^ min k m = i / 2 ^ k := by
  rcases le_total k m with hk | hk
  · rw [min_eq_left hk]
  · have hpow : (2 : Int) ^ m ≤ 2 ^ k := pow_le_pow_right₀ (by decide) hk
    rw [min_eq_right hk]
    rcases lt_or_ge i 0 with hi | hi
    · rw [Int.ediv_eq_neg_one_of_neg_of_le hi (by linarith), Int.ediv_eq_neg_one_of_neg_of_le hi (by linarith)]
    · rw [Int.ediv_eq_zero_of_lt hi hhi, Int.ediv_eq_zero_of_lt hi (hhi.trans_le hpow)]

/-- An arithmetic right shift divides the signed number and rounds down, also by amounts of 64 and more. -/
theorem shiftArith_eq_ofInt (x n : Word) : shiftArith x n = BitVec.ofInt 64 (x.toInt / 2 ^ n.toNat) := by
  rw [shiftArith, BitVec.sshiftRight, Int.shiftRight_eq_div_pow, Nat.cast_pow, Nat.cast_ofNat,
    ediv_two_pow_min x.le_toInt x.toInt_lt]

/-- An immediate shift amount is read back whole. -/
theorem toNat_ofNat_amount {n : Nat} (hn : n < 2 ^ 64) : (BitVec.ofNat 64 n).toNat = n := by
  rw [BitVec.toNat_ofNat, Nat.mod_eq_of_lt hn]

/-! ### The statements -/

/-- Settles O1: each instruction is an operation on two operands, and each operation is that of Table 7.1. -/
theorem integerArithmetic : Obligations.IntegerArithmetic := by
  intro h d a b imm s i x y
  exact ⟨resultG_runBinary i d a b (· + ·) rfl, resultG_runImm i d a (wordOf imm) (· + ·) rfl, resultG_runBinary i d a b (· - ·) rfl,
    resultG_runBinary i d a b (· * ·) rfl, resultG_runBinary i d a b mulHighSigned rfl, resultG_runBinary i d a b mulHighUnsigned rfl⟩

/-- Settles O2, by the three cases of R159: a zero divisor, any other divisor, and the quotient that wraps. -/
theorem division : Obligations.Division := by
  intro h d a b s i x y
  refine ⟨fun hy => ?_, fun hy => ?_, fun hxy => ?_⟩
  · exact ⟨resultG_runBinary i d a b divSigned (divSigned_of_eq_zero x hy), resultG_runBinary i d a b divUnsigned (divUnsigned_of_eq_zero x hy),
      resultG_runBinary i d a b remSigned (remSigned_of_eq_zero x hy), resultG_runBinary i d a b remUnsigned (remUnsigned_of_eq_zero x hy)⟩
  · exact ⟨resultG_runBinary i d a b divSigned (divSigned_of_ne_zero x hy), resultG_runBinary i d a b remSigned (remSigned_of_ne_zero x hy),
      resultG_runBinary i d a b divUnsigned (divUnsigned_of_ne_zero x hy), resultG_runBinary i d a b remUnsigned (remUnsigned_of_ne_zero x hy)⟩
  · obtain ⟨hx, hy⟩ := hxy
    have hdiv : divSigned x y = BitVec.intMin 64 := by rw [hx, hy, divSigned_intMin_allOnes]
    have hrem : remSigned x y = 0 := by rw [hx, hy, remSigned_intMin_allOnes]
    exact ⟨resultG_runBinary i d a b divSigned hdiv, resultG_runBinary i d a b remSigned hrem⟩

/-- Settles O3: logic is that of the words, a shift multiplies or divides by a power of 2, and an immediate amount is read whole. -/
theorem logicAndShifts : Obligations.LogicAndShifts := by
  intro h d a b n imm s i hn x y
  have hshl : shiftLeft x (BitVec.ofNat 64 n) = BitVec.ofNat 64 (x.toNat * 2 ^ n) := by rw [shiftLeft_eq_ofNat, toNat_ofNat_amount hn]
  have hshr : shiftRight x (BitVec.ofNat 64 n) = BitVec.ofNat 64 (x.toNat / 2 ^ n) := by rw [shiftRight_eq_ofNat, toNat_ofNat_amount hn]
  have hsar : shiftArith x (BitVec.ofNat 64 n) = BitVec.ofInt 64 (x.toInt / 2 ^ n) := by rw [shiftArith_eq_ofInt, toNat_ofNat_amount hn]
  refine ⟨?and, ?andi, ?or, ?ori, ?xor, ?xori, ?andn, ?shl, ?shli, ?shr, ?shri, ?sar, ?sari, ?rol, ?ror⟩
  case and => exact resultG_runBinary i d a b (· &&& ·) rfl
  case andi => exact resultG_runImm i d a (wordOf imm) (· &&& ·) rfl
  case or => exact resultG_runBinary i d a b (· ||| ·) rfl
  case ori => exact resultG_runImm i d a (wordOf imm) (· ||| ·) rfl
  case xor => exact resultG_runBinary i d a b (· ^^^ ·) rfl
  case xori => exact resultG_runImm i d a (wordOf imm) (· ^^^ ·) rfl
  case andn => exact resultG_runBinary i d a b (fun x y => x &&& ~~~ y) rfl
  case shl => exact resultG_runBinary i d a b shiftLeft (shiftLeft_eq_ofNat x y)
  case shli => exact resultG_runImm i d a (BitVec.ofNat 64 n) shiftLeft hshl
  case shr => exact resultG_runBinary i d a b shiftRight (shiftRight_eq_ofNat x y)
  case shri => exact resultG_runImm i d a (BitVec.ofNat 64 n) shiftRight hshr
  case sar => exact resultG_runBinary i d a b shiftArith (shiftArith_eq_ofInt x y)
  case sari => exact resultG_runImm i d a (BitVec.ofNat 64 n) shiftArith hsar
  case rol => exact resultG_runBinary i d a b rotateLeft rfl
  case ror => exact resultG_runBinary i d a b rotateRight rfl

end Sys2Proof.Machine
end

section
/-! PROOFS. The mask stack and the cleared heap (R230, R235): under bit 0 of its guard (R214) each instruction either makes its change of the
slot at issue or traps MSTACK; under a false guard it leaves the slot as it is. -/

namespace Sys2Proof.Machine

/-! ### Instructions without elements, under bit 0 of their guard (R214) -/

/-- With bit 0 of the guard false, an instruction without elements changes nothing but its stream and tokens. -/
theorem runUniform_of_guard_false {h : Hdr} {s : State} (v : VectorIssues h s) (hg : (begun h s).guardBit h = false) (body : State → Eff) :
    ChangesSlot (runUniform h body s) h s id :=
  runVector_changes v _ id (fun _ => rfl) (fun _ => rfl) (begun h s)
    (by rw [hg, if_neg Bool.false_ne_true]) (OwnSlot.refl _)

/-- With bit 0 of the guard true, an instruction without elements whose body changes the slot by `g` makes every change `f` that leaves V
and its flight and agrees with `g` on the slot as it stands. -/
theorem runUniform_changes {h : Hdr} {s : State} (v : VectorIssues h s) (hg : (begun h s).guardBit h = true) {body : State → Eff}
    (f g : Slot → Slot) (hv : ∀ l, (f l).v = l.v) (hflight : ∀ l, (f l).vflight = l.vflight)
    (hbody : body (begun h s) = .done ((begun h s).withHere g)) (hgf : g (begun h s).here = f (begun h s).here) :
    ChangesSlot (runUniform h body s) h s f :=
  runVector_changes v _ f hv hflight _ (by rw [hg, if_pos rfl, hbody]) (hgf ▸ (OwnSlot.refl _).withHere g)

/-- A trap of V that no Jalcen switch holds back is taken at once: windows defer faults of S alone (R279, R312). -/
theorem conclude_trap_v {s : State} (h : Hdr) (d : Dest) {t : TrapInfo} (hv : s.cur.stream = .v)
    (hheld : s.trapHeld s.cur.slot .v t.cause = false) :
    s.conclude h d (.trap t) = s.takeTrap s.cur.slot .v t TrapMode.precise := by
  have hdefers : s.defers t = false := by simp [State.defers, hv]
  simp [State.conclude, hv, hheld, hdefers]

/-- With bit 0 of the guard true, an instruction without elements whose body traps takes that trap from the state in which the results due
have landed. -/
theorem runUniform_traps {h : Hdr} {s : State} (v : VectorIssues h s) (hg : (begun h s).guardBit h = true) {body : State → Eff} {t : TrapInfo}
    (hbody : body (begun h s) = .trap t) (hheld : (landed s).trapHeld s.cur.slot .v t.cause = false) :
    runUniform h body s = .next ((landed s).takeTrap s.cur.slot .v t TrapMode.precise) := by
  have heff : (if (begun h s).guardBit h then body (begun h s) else .done (begun h s)) = .trap t := by rw [hg, if_pos rfl, hbody]
  have htrap := conclude_trap_v h .none (by rw [landed_cur]; exact v.vector) (by rw [landed_cur]; exact hheld)
  rw [landed_cur] at htrap
  exact (runVector_ready v.ready _).trans (congrArg _ ((congrArg _ heff).trans htrap))

/-! ### The mask stack (R230) -/

/-- MSTACK, with the depth of the mask stack (R230). -/
def mstackTrap (l : Slot) : TrapInfo := { cause := 0x01, sub := 5, tval := BitVec.ofNat 64 l.mstack.length }

theorem maskStackTrap_eq (l : Slot) : maskStackTrap l = .trap (mstackTrap l) := rfl

section
variable {h : Hdr} {s : State} (v : VectorIssues h s) (hg : (begun h s).guardBit h = true)
include v hg

theorem execMpush_changes (a : Nat) (hroom : (begun h s).here.mstack.length < 16) :
    ChangesSlot (execMpush h a s) h s (fun l => { l with mstack := (l.mstack.headD Mask.full &&& l.v.vqReg a) :: l.mstack }) :=
  runUniform_changes v hg _ _ (fun _ => rfl) (fun _ => rfl) (if_neg (by omega)) rfl

theorem execMinv_changes (hne : (begun h s).here.mstack ≠ []) :
    ChangesSlot (execMinv h s) h s
      (fun l => { l with mstack := (l.mstack.tail.headD Mask.full &&& ~~~ l.mstack.headD Mask.full) :: l.mstack.tail }) := by
  obtain ⟨top, rest, hstack⟩ := List.exists_cons_of_ne_nil hne
  exact runUniform_changes v hg _ (fun l => { l with mstack := (rest.headD Mask.full &&& ~~~ top) :: rest })
    (fun _ => rfl) (fun _ => rfl) (by simp only [hstack]) (by simp only [hstack, List.tail_cons, List.headD_cons])

theorem execMpop_changes (hne : (begun h s).here.mstack ≠ []) :
    ChangesSlot (execMpop h s) h s (fun l => { l with mstack := l.mstack.tail }) := by
  obtain ⟨top, rest, hstack⟩ := List.exists_cons_of_ne_nil hne
  exact runUniform_changes v hg _ (fun l => { l with mstack := rest })
    (fun _ => rfl) (fun _ => rfl) (by simp only [hstack]) (by simp only [hstack, List.tail_cons])

theorem execVheapc_changes : ChangesSlot (execVheapc h s) h s (fun l => { l with heap := [], hloss := false, hpopped := 0 }) :=
  runUniform_changes v hg _ _ (fun _ => rfl) (fun _ => rfl) rfl rfl

variable (hheld : (landed s).trapHeld s.cur.slot .v 0x01 = false)
include hheld

theorem execMpush_traps (a : Nat) (hfull : 16 ≤ (begun h s).here.mstack.length) :
    execMpush h a s = .next ((landed s).takeTrap s.cur.slot .v (mstackTrap (begun h s).here) TrapMode.precise) :=
  runUniform_traps v hg ((if_pos hfull).trans (maskStackTrap_eq _)) hheld

theorem execMinv_traps (hempty : (begun h s).here.mstack = []) :
    execMinv h s = .next ((landed s).takeTrap s.cur.slot .v (mstackTrap (begun h s).here) TrapMode.precise) :=
  runUniform_traps v hg (by simp only [hempty, maskStackTrap_eq]) hheld

theorem execMpop_traps (hempty : (begun h s).here.mstack = []) :
    execMpop h s = .next ((landed s).takeTrap s.cur.slot .v (mstackTrap (begun h s).here) TrapMode.precise) :=
  runUniform_traps v hg (by simp only [hempty, maskStackTrap_eq]) hheld

end

/-! ### The statement -/

theorem maskStackAndHeapClearClauses : MaskStackAndHeapClearClauses := by
  intro h a s v l top
  refine ⟨fun hg => ⟨?push, ?invertAndPop, ?clear⟩, fun hg => ⟨?_, ?_, ?_, ?_⟩⟩
  case push => exact execMpush_changes v hg a
  case invertAndPop => exact fun hne => ⟨execMinv_changes v hg hne, execMpop_changes v hg hne⟩
  case clear => exact execVheapc_changes v hg
  all_goals exact runUniform_of_guard_false v hg _

theorem maskStackTrapsClauses : MaskStackTrapsClauses := by
  intro h a s v l hg hheld trap
  exact ⟨execMpush_traps v hg hheld a, fun hempty => ⟨execMinv_traps v hg hheld hempty, execMpop_traps v hg hheld hempty⟩⟩

/-- Settles O16: with bit 0 of its guard true each instruction makes its change or traps MSTACK by the depth of the stack, and with it false
none changes the slot. -/
theorem maskStackAndHeap : Obligations.MaskStackAndHeap := ⟨maskStackAndHeapClearClauses, maskStackTrapsClauses⟩

end Sys2Proof.Machine
end
